-- ==== Sys2Proof/Word.lean ====
section
/-! DEFINITION. The word types of the VX9-M (spec 00 R2): a byte, a lane (also a memory word) of 32 bits, an
instruction word of 64 bits, a colour of 8 bits, a place of 16 bits. -/

namespace Sys2Proof

/-- A byte of memory (R2). -/
abbrev Byte := BitVec 8

/-- A lane, and a word of memory: 32 bits (R2). -/
abbrev Lane := BitVec 32

/-- An instruction or header word: 64 bits (R37). -/
abbrev Word := BitVec 64

/-- A colour: the owner of a token, 0 to 255 (R6). -/
abbrev Colour := BitVec 8

/-- A place: a 16-bit logical identifier of a core (R10). -/
abbrev Place := BitVec 16

end Sys2Proof
end

