-- ==== Sys2Proof/Syntax.lean ====
section
/-! DEFINITION. The syntax: instruction forms (spec 02 R38 to R52), packets (R60), tokens (01 R15), the arguments of the
events, and `Instr`, one constructor per row of spec/opcode_table.json. -/

namespace Sys2Proof

/-! ## Instruction words -/

/-- A window slot's field (R39): L, R or P. -/
inductive Field where
  | l | r | p
deriving DecidableEq, Repr

/-- The network of a port target (R39). -/
inductive Net where
  | static | dynamic | control | island
deriving DecidableEq, Repr

/-- A target of 9 bits (R39, R40). -/
inductive Target where
  | window (slot : BitVec 5) (field : Field)
  | frame (n : BitVec 7)
  | port (net : Net) (n : BitVec 5)
  | null
  | reply
  | sink
deriving DecidableEq, Repr

/-- The predicate mode (R38): unpredicated, `?t`, `?f`. -/
inductive PMode where
  | always | onTrue | onFalse
deriving DecidableEq, Repr

/-- The memory spaces of SP (R9). -/
inductive Space where
  | k | s | g | p
deriving DecidableEq, Repr

/-- The access sizes of SZ (R48). -/
inductive Size where
  | b8 | b16 | b32 | b64 | ln | dsb8 | dsb4
deriving DecidableEq, Repr

/-- What every instruction word begins with (R38). -/
structure Common where
  pm : PMode
  t0 : Target
  t1 : Target
deriving DecidableEq, Repr

/-- Body A (R42). -/
structure FormA where
  c : Common
  ty : BitVec 4
  sub : BitVec 5
  immf : Bool
  imm : BitVec 25
deriving DecidableEq, Repr

/-- Body I (R47). -/
structure FormI where
  c : Common
  kind : BitVec 3
  imm : BitVec 32
deriving DecidableEq, Repr

/-- Body M (R48). -/
structure FormM where
  c : Common
  sqp : BitVec 5
  sqo : BitVec 5
  sqs : BitVec 5
  sp : Space
  sz : Size
  lnk : Bool
  off : BitVec 14
deriving DecidableEq, Repr

/-- Body C (R49). -/
structure FormC where
  c : Common
  bt0 : BitVec 6
  bt1 : BitVec 6
  handle : BitVec 12
  entry : BitVec 6
deriving DecidableEq, Repr

/-- Body X (R50). -/
structure FormX where
  c : Common
  eop : BitVec 4
  var : BitVec 5
  pbase : BitVec 7
  flags : BitVec 19
deriving DecidableEq, Repr

/-- Body K (R51). -/
structure FormK where
  c : Common
  kvar : BitVec 4
  ent : BitVec 4
  kimm : BitVec 27
deriving DecidableEq, Repr

/-- Body S (R52). -/
structure FormS where
  c : Common
  sreg : BitVec 12
  simm : BitVec 23
deriving DecidableEq, Repr

/-- A command packet (R60): the fields of its header beside POP, and its payload of PLEN words. -/
structure Packet where
  plen : BitVec 8
  pflg : BitVec 16
  payload : List (BitVec 32)
deriving DecidableEq, Repr

/-! ## Tokens -/

/-- The kinds of a token (R17). -/
inductive Kind where
  | data | error | poison | eos | stop | wedge | demand | reserved
deriving DecidableEq, Repr

/-- A token: the fields of its 64-bit tag (R15) beside the check bits, and its lanes; its width is their number. `scale`
holds the lanes of the scale token that came before it on an inline-scale channel (03 R74); it is empty for any other. -/
structure Token where
  colour : Colour
  kind : Kind
  frame : BitVec 10
  slot : BitVec 5
  field : BitVec 2
  wave : BitVec 8
  seq : BitVec 16
  chan : BitVec 5
  lanes : List Lane
  scale : List Lane
deriving DecidableEq, Repr

/-! ## The records of a configuration image (R252) -/

/-- Where an output port's edge leads (R91, R246): an input channel of a node, an input of an element, an exit port, an island's A
channel, or a multicast group's channel (R201). A record of an image names sites relative to its rectangle (R253): a core, or one in
a group's cluster, by 32 times its slab's place plus its site index, an island by three times such a number plus its own in the
cluster, an element or exit of its configuration by its number alone (log 115). -/
inductive Dest where
  | chan (core node chan : Nat)
  | elem (id input : Nat)
  | exit (cfg port : Nat)
  | island (id chan : Nat)
  | group (cluster grp node chan : Nat)
deriving DecidableEq, Repr

/-- An output port of a node: its network, its edges, whether it is demand-gated (R264), and its initial credit. -/
structure OutPort where
  net : Net
  port : Nat
  dests : List Dest
  gated : Bool
  credit : Nat
deriving DecidableEq, Repr

/-- An input channel of a node: its number, the virtual-channel table entry (R165), the network of its edge (R245), and
whether that is a back edge (R30, R100). -/
structure InChan where
  chan : Nat
  entry : Nat
  net : Net
  back : Bool
deriving DecidableEq, Repr

/-- A node record (R252 0x01) with the bindings of its ports. -/
structure NodeRec where
  handle : BitVec 12
  width : Nat
  frame : Nat
  occ : Nat
  colours : BitVec 256
  cword : Option (BitVec 32)
  ins : List InChan
  outs : List OutPort
  island : Option Nat
  capsule : Bool
  credited : Option Nat
deriving DecidableEq, Repr

/-- A block: its two header words (R53) and its instruction words (R37). -/
structure Block where
  h0 : Word
  h1 : Word
  words : List Word
deriving DecidableEq, Repr

/-- The kinds of special element (R207), with their configuration words, and the voter (R323). -/
inductive ElemKind where
  | rmw (word : BitVec 64)
  | cturn (word : BitVec 32)
  | reorder (word : BitVec 64)
  | isect
  | union
  | spacc (word : BitVec 32)
  | seal (word : BitVec 32)
  | voter
deriving DecidableEq, Repr

/-- An element record (R252 0x07): the element, the core or site it stands at, its output, the entry port that its releases credit
(R257), and its inputs fed by a back edge (R30, R100). -/
structure ElemRec where
  id : Nat
  core : Nat
  kind : ElemKind
  outs : List Dest
  credited : Option Nat
  back : List Nat
deriving DecidableEq, Repr

/-- An entry port record (R252 0x08). -/
structure EntryRec where
  port : Nat
  net : Net
  dest : Dest
  mask : BitVec 256
  quotas : List (Nat × Nat)
  gated : Bool
  credit : Nat
deriving DecidableEq, Repr

/-- An exit port record (R252 0x09): the exit port, the output port that feeds it, its network and its colour destinations, for which no rule
gives a use; with the entry port that it credits (R257). -/
structure ExitRec where
  port : Nat
  out : Nat
  net : Net
  colours : List (Nat × Nat)
  credited : Option Nat
deriving DecidableEq, Repr

/-- One record of a section (R252). The spec gives the kinds, not the layouts of the payloads; a record is carried as
the slab reads it (log 12). -/
inductive Rec where
  | node (site : Nat) (n : NodeRec)
  | block (site : Nat) (handle : BitVec 12) (b : Block)
  | channel (site entry : Nat) (ctl : BitVec 32)
  | region (site : Nat) (mask : BitVec 64)
  | switch (site : Nat) (bytes : List Byte)
  | element (site : Nat) (e : ElemRec)
  | entry (site : Nat) (e : EntryRec)
  | exit (site : Nat) (e : ExitRec)
  | demand (site : Nat) (handle : BitVec 12) (net : Net) (port credit : Nat)
  | group (site grp : Nat) (mask : BitVec 128)
  | cls (index lines : Nat) (itin : List (BitVec 64))
  | island (site id : Nat) (latency : Nat) (fmt : BitVec 5) (out : List Dest)
  | other (kind : Nat) (site : Nat)
deriving DecidableEq, Repr

/-! ## Arguments of the events of the package and the fabric -/

/-- A register of the management page that has no behaviour of its own (R327). -/
inductive MgmtReg where
  | vdsel | vdent (word : Fin 4) | c0root | c0farea | c0nrec | c0spoil | c0ptab
deriving DecidableEq, Repr

/-- A flooded copy of a package's local entries (R360). -/
structure LltCopy where
  gen : Nat
  id : BitVec 12
  entries : List (BitVec 32)
deriving DecidableEq, Repr

/-- A barrier event and who causes it (R213, R232): the unit is (core, frame). -/
inductive BarOp where
  | init (exp : Nat)
  | join
  | arrive
  | wait (gen : BitVec 6)
  | leave
deriving DecidableEq, Repr

/-- An event on an `.fb` entry forwarded up tree 0 (R376): the core, frame and serial number of its unit, and what a record of its fault names. -/
structure FbEvent where
  idx : Nat
  colour : Colour
  op : BarOp
  core : Nat
  frame : Nat
  uid : Nat
  wave : Nat
  slot : Nat
  run : Nat
  seq : BitVec 16
deriving DecidableEq, Repr

/-- What a package keeps of an `.fb` entry (R376): ST, COL, EXP and GEN as the root last told it, its own enrolled units as
(core, frame, serial number), those of them that have arrived, the generation of each one's last arrival, and the further arrivals held. -/
structure FbFigure where
  idx : Nat
  st : BitVec 2
  colour : Colour
  exp : Nat
  gen : BitVec 6
  units : List (Nat × Nat × Nat)
  marks : List (Nat × Nat × Nat)
  last : List ((Nat × Nat × Nat) × BitVec 6)
  broke : List (Nat × Nat × Nat)
  again : List (Nat × Nat × Nat)
deriving DecidableEq, Repr

/-- What travels on tree 0 for the `.fb` entries (R376): an event to the root; to a package, that the root has performed its oldest event on an entry,
the answer to a unit's wait (none: broken), the code of an event's fault, or an entry's figures as the root now has them; to a new root
a package's figures, or the new names of units that have moved. -/
inductive FbBody where
  | event (e : FbEvent)
  | took (idx : Nat)
  | answer (idx core frame uid : Nat) (gen : Option (BitVec 6))
  | fault (e : FbEvent) (code : Nat)
  | entry (f : FbFigure)
  | figures (fs : List FbFigure)
  | moved (us : List ((Nat × Nat × Nat) × (Nat × Nat × Nat)))
deriving DecidableEq, Repr

/-- A message for the `.fb` entries, with the package that it comes from or goes to and the generation it was sent under. -/
structure FbMsg where
  pkg : BitVec 12
  gen : Nat
  body : FbBody
deriving DecidableEq, Repr

/-- What a message of a collective names (R363, R368, R369): its key, the generation and tree it was sent under, its chunk, how
its vertices combine what they receive (`carry`: every member's input goes unreduced to the root), the group, and the operation and length, from
which it follows whose DST holds bytes of a chunk. -/
structure CollMsg where
  colour : Colour
  tag : BitVec 32
  gen : Nat
  tree : Nat
  chunk : Nat
  carry : Bool
  red : Nat
  ty : Nat
  group : List Nat
  eop : Nat
  len : Nat
deriving DecidableEq, Repr

/-- A report of marks on tree 0 (R369, R382): from `child` the FULL marks that it and those below it hold, or from the root (none) those of all
participants. `again` says that one of them has dealt chunks before, and `redone` is the largest of their figures of chunks redone (log 143). -/
structure MarkReport where
  child : Option (BitVec 12)
  marks : List (Nat × BitVec 32)
  again : Bool
  redone : Nat
deriving DecidableEq, Repr

/-- What a host read of the presence aperture covers (R314): an address and a number of bytes. -/
structure HostSpan where
  addr : Nat
  len : Nat
deriving DecidableEq, Repr

/-- A host write through the presence aperture (R314): an address and, for each word from there on, the value written. -/
structure PresenceWrite where
  addr : Nat
  states : List (BitVec 32)
deriving DecidableEq, Repr

/-- One row of spec/opcode_table.json is one constructor: an event of the part, a command packet, or the firing of
one instruction. An event that brings data
from outside the part carries it; every other event reads which of those inside the part it happens to from the
latch `at` of the state. -/
inductive Instr where
  /-- R120: Fires when its window exists and has no effect. -/
  | nop (f : FormA)
  /-- R119: Exits the wave to block BT0. -/
  | bro (f : FormC)
  /-- R119: Exits to BT0 or BT1 by the predicate bit of L. -/
  | brp (f : FormC)
  /-- R119: Exits to the block indexed by L within BT0 to BT1. -/
  | bri (f : FormC)
  /-- R121: At commit creates an explicit activation of another node, recording an optional reply target. -/
  | spawn (f : FormC)
  /-- R119: Exits, delivers L to the reply target at commit, and ends the activation. -/
  | ret (f : FormC)
  /-- R119: Exits with no successor wave. -/
  | retire (f : FormC)
  /-- R121: Reserves a context at the largest fitting width and starts it at commit. -/
  | ctxa (f : FormA)
  /-- R121: At commit ends a named parked explicit activation and delivers a status. -/
  | ctxf (f : FormA)
  /-- R121: Delivers the width, wave, frame and block pointer of the activation. -/
  | ctxq (f : FormA)
  /-- R122: Delivers L and R joined as one token of twice the width. -/
  | pack (f : FormA)
  /-- R122: Delivers the two halves of L at half width to T0 and T1. -/
  | unpack (f : FormA)
  /-- R123: Delivers L to both targets. -/
  | mov (f : FormA)
  /-- R123: Delivers a frame slot as the last committed wave left it. -/
  | ldf (f : FormA)
  /-- R123: At commit sends L on the dynamic network to the activation named by R's descriptor. -/
  | send (f : FormA)
  /-- R123: Delivers L to T0 or T1 by the predicate in R. -/
  | steer (f : FormA)
  /-- R123: Delivers L to both targets, consuming the arm predicate in R. -/
  | merge (f : FormA)
  /-- R123: Delivers L to both targets or nullifies them by the predicate in R. -/
  | gate (f : FormA)
  /-- R123: Consumes L with no output. -/
  | drop (f : FormA)
  /-- R124: At commit sends EOS for the colour on each target port. -/
  | eos (f : FormA)
  /-- R124: Delivers a stop token of the level in SUB. -/
  | stop (f : FormA)
  /-- R124: Delivers a stop token of the level read from L, or nullifies on level 0. -/
  | stopc (f : FormA)
  /-- R124: At commit sends a demand token with a count to the producer of a dynamic port's edge. -/
  | dmd (f : FormA)
  /-- R125: Converts the elements of L between formats under the node's converter word. -/
  | cvt (f : FormA)
  /-- R125: Converts into a block format, sending data to T0 and the scale token to T1. -/
  | cvts (f : FormA)
  /-- R126: Copies one lane of L into every lane. -/
  | bcast (f : FormA)
  /-- R126: Permutes the lanes of L by the indices in R. -/
  | shuf (f : FormA)
  /-- R126: Rotates the lanes of L. -/
  | lrot (f : FormA)
  /-- R127: Sums the lanes of L in a pairwise tree. -/
  | redadd (f : FormA)
  /-- R127: Takes the maximum across the lanes of L. -/
  | redmax (f : FormA)
  /-- R127: Takes the minimum across the lanes of L. -/
  | redmin (f : FormA)
  /-- R127: Forms the inclusive left-to-right prefix sum across lanes. -/
  | scanadd (f : FormA)
  /-- R126: Delivers each lane's own index. -/
  | lidx (f : FormA)
  /-- R126: Delivers a bit mask of the non-zero lanes of L in lane 0. -/
  | lmask (f : FormA)
  /-- R126: Compacts the lanes of L selected by R and delivers their count. -/
  | lcomp (f : FormA)
  /-- R108: Adds elements modulo 2^n. -/
  | add (f : FormA)
  /-- R108: Subtracts elements modulo 2^n. -/
  | sub (f : FormA)
  /-- R108: Multiplies elements modulo 2^n. -/
  | mul (f : FormA)
  /-- R108: Gives the upper half of the signed double-width product. -/
  | mulhi (f : FormA)
  /-- R108: Gives the upper half of the unsigned double-width product. -/
  | mulhn (f : FormA)
  /-- R108: Gives a × b + c modulo 2^n with c from a frame slot. -/
  | mad (f : FormA)
  /-- R108: Divides signed elements, truncating towards zero. -/
  | div (f : FormA)
  /-- R108: Divides unsigned elements. -/
  | divn (f : FormA)
  /-- R108: Gives the signed remainder with the sign of a. -/
  | rem (f : FormA)
  /-- R108: Gives the unsigned remainder. -/
  | remn (f : FormA)
  /-- R108: Bitwise AND. -/
  | and (f : FormA)
  /-- R108: Bitwise OR. -/
  | or (f : FormA)
  /-- R108: Bitwise XOR. -/
  | xor (f : FormA)
  /-- R108: Bitwise a AND NOT b. -/
  | andn (f : FormA)
  /-- R108: Bitwise NOT of a. -/
  | not (f : FormA)
  /-- R108: Shifts elements left. -/
  | shl (f : FormA)
  /-- R108: Shifts elements right with zeros in. -/
  | shr (f : FormA)
  /-- R108: Shifts elements right with copies of the top bit in. -/
  | sar (f : FormA)
  /-- R108: Rotates elements left. -/
  | rol (f : FormA)
  /-- R108: Rotates elements right. -/
  | ror (f : FormA)
  /-- R108: Signed minimum. -/
  | min (f : FormA)
  /-- R108: Signed maximum. -/
  | max (f : FormA)
  /-- R108: Unsigned minimum. -/
  | minn (f : FormA)
  /-- R108: Unsigned maximum. -/
  | maxn (f : FormA)
  /-- R108: Absolute value modulo 2^n. -/
  | abs (f : FormA)
  /-- R108: Negation modulo 2^n. -/
  | neg (f : FormA)
  /-- R108: Counts leading zero bits. -/
  | clz (f : FormA)
  /-- R108: Counts trailing zero bits. -/
  | ctz (f : FormA)
  /-- R108: Counts one bits. -/
  | popc (f : FormA)
  /-- R109: Extracts a bit field under a control word. -/
  | bfx (f : FormA)
  /-- R109: Inserts a bit field into a frame value under a control word. -/
  | bfi (f : FormA)
  /-- R108: Selects b if a is non-zero, else c. -/
  | sel (f : FormA)
  /-- R108: Delivers 1 or 0 per element by an integer condition. -/
  | cmp (f : FormA)
  /-- R110: Delivers a constant token filled under its kind. -/
  | imm (f : FormI)
  /-- R108: Gives a + b × 2^SUB modulo 2^n. -/
  | lea (f : FormA)
  /-- R108: Saturating addition. -/
  | sadd (f : FormA)
  /-- R108: Saturating subtraction. -/
  | ssub (f : FormA)
  /-- R108: Dot product of 16-bit pairs per lane with optional accumulate. -/
  | dot2i (f : FormA)
  /-- R108: Dot product of 8-bit quads per lane with optional accumulate. -/
  | dot4i (f : FormA)
  /-- R112: Float addition rounded RNE. -/
  | fadd (f : FormA)
  /-- R112: Float subtraction rounded RNE. -/
  | fsub (f : FormA)
  /-- R112: Float multiplication rounded RNE. -/
  | fmul (f : FormA)
  /-- R112: Fused multiply-add with one rounding. -/
  | ffma (f : FormA)
  /-- R112: Float minimum with −0 below +0. -/
  | fmin (f : FormA)
  /-- R112: Float maximum with −0 below +0. -/
  | fmax (f : FormA)
  /-- R112: Clears the sign bit. -/
  | fabs (f : FormA)
  /-- R112: Inverts the sign bit. -/
  | fneg (f : FormA)
  /-- R112: Delivers 1 or 0 per element by a float condition. -/
  | fcmp (f : FormA)
  /-- R112: Delivers a one-hot class mask per element. -/
  | fclass (f : FormA)
  /-- R113: Correctly rounded reciprocal. -/
  | frcp (f : FormA)
  /-- R113: Correctly rounded reciprocal square root. -/
  | frsq (f : FormA)
  /-- R113: Correctly rounded square root. -/
  | fsqrt (f : FormA)
  /-- R113: Correctly rounded 2^a. -/
  | fexp2 (f : FormA)
  /-- R113: Correctly rounded log2 a. -/
  | flog2 (f : FormA)
  /-- R113: Correctly rounded tanh a. -/
  | ftanh (f : FormA)
  /-- R113: Correctly rounded logistic sigmoid. -/
  | fsig (f : FormA)
  /-- R113: Correctly rounded sine. -/
  | fsin (f : FormA)
  /-- R113: Correctly rounded cosine. -/
  | fcos (f : FormA)
  /-- R113: Correctly rounded error function. -/
  | ferf (f : FormA)
  /-- R112: Rounds each element to an integral value under a mode. -/
  | fround (f : FormA)
  /-- R112: Exact two-term dot product rounded once to FP32. -/
  | fdot2 (f : FormA)
  /-- R112: Exact four-term FP8 dot product rounded once to FP32. -/
  | fdot4 (f : FormA)
  /-- R144: Takes a capsule buffer and makes a new capsule of a class at commit. -/
  | capnNew (f : FormK)
  /-- R144: Reads a parked capsule image into a buffer and adopts it at commit. -/
  | capnAdopt (f : FormK)
  /-- R138: Forwards the held capsule to its next place at commit, or ends its journey. -/
  | capgo (f : FormK)
  /-- R144: Sets the cursor to the index in ENT at commit. -/
  | capnxIndex (f : FormK)
  /-- R144: Sets the cursor to the index in L at commit. -/
  | capnxOperand (f : FormK)
  /-- R144: Appends an itinerary entry at commit. -/
  | cappush (f : FormK)
  /-- R144: Inserts an itinerary entry at an index at commit. -/
  | capins (f : FormK)
  /-- R144: Replaces a whole itinerary entry at commit. -/
  | caprepWhole (f : FormK)
  /-- R144: Replaces the place of an itinerary entry at commit. -/
  | caprepPlace (f : FormK)
  /-- R144: Deletes an itinerary entry at commit. -/
  | capdel (f : FormK)
  /-- R140: Copies the held capsule at commit and forwards the copy to a fork entry. -/
  | capfork (f : FormK)
  /-- R144: Delivers a chunk of another part's tile at a completed join. -/
  | capjoin (f : FormK)
  /-- R144: Parks the held capsule with SOFT and a software code at commit. -/
  | cappark (f : FormK)
  /-- R144: Delivers a chunk of the held capsule's tile. -/
  | capld (f : FormK)
  /-- R144: Writes R to a tile chunk at commit. -/
  | capst (f : FormK)
  /-- R144: Delivers half of a capsule header word. -/
  | caphdWord (f : FormK)
  /-- R144: Delivers half of an itinerary entry. -/
  | caphdEntry (f : FormK)
  /-- R144: Delivers the argument of the current visit's entry. -/
  | caphdArg (f : FormK)
  /-- R180: Loads from a memory space and delivers the value. -/
  | ld (f : FormM)
  /-- R181: Follows a chain of pointers hop by hop and delivers the end pointer and hop count. -/
  | ldLnk (f : FormM)
  /-- R184: Stores R at the address, effective at commit. -/
  | st (f : FormM)
  /-- R183: Reads a word and its presence state without deferring. -/
  | ldp (f : FormM)
  /-- R184: Sets the covered words EMPTY at commit. -/
  | clr (f : FormM)
  /-- R186: Atomic add returning the old value. -/
  | aadd (f : FormM)
  /-- R186: Atomic signed minimum. -/
  | amin (f : FormM)
  /-- R186: Atomic signed maximum. -/
  | amax (f : FormM)
  /-- R186: Atomic unsigned minimum. -/
  | aminn (f : FormM)
  /-- R186: Atomic unsigned maximum. -/
  | amaxn (f : FormM)
  /-- R186: Atomic AND. -/
  | aand (f : FormM)
  /-- R186: Atomic OR. -/
  | aor (f : FormM)
  /-- R186: Atomic XOR. -/
  | axor (f : FormM)
  /-- R186: Atomic swap. -/
  | aswp (f : FormM)
  /-- R186: Atomic compare-and-swap. -/
  | acas (f : FormM)
  /-- R186: Atomic FP32 add rounded RNE. -/
  | afadd (f : FormM)
  /-- R190: Replaces a virtual-channel control word at commit. -/
  | vcset (f : FormA)
  /-- R190: Delivers a virtual-channel entry's control and scale words. -/
  | vcget (f : FormA)
  /-- R190: Replaces scale words of a channel's scale register at commit. -/
  | sclset (f : FormA)
  /-- R191: Delivers a scale token and block-format data made from plain tokens. -/
  | dec (f : FormA)
  /-- R191: Delivers block-format data and its scale bits as plain tokens. -/
  | enc (f : FormA)
  /-- R187: Holds later memory operators until earlier ones are performed and acknowledged. -/
  | fence (f : FormM)
  /-- R219: Looks up a global address in the tag table. -/
  | tlook (f : FormA)
  /-- R220: Reserves a tag way at firing and installs the entry at commit. -/
  | tins (f : FormA)
  /-- R220: Invalidates a tag way at commit. -/
  | tinv (f : FormA)
  /-- R221: Moves a tile from READY to EMPTY at its port. -/
  | tsetEmpty (f : FormA)
  /-- R221: Moves a tile from EMPTY to READY, setting owner, length and base. -/
  | tsetReady (f : FormA)
  /-- R221: Sets an EMPTY tile's owner, length and base for a later fill. -/
  | tsetBind (f : FormA)
  /-- R221: Sets an EMPTY tile's owner to 0. -/
  | tsetFree (f : FormA)
  /-- R222: Waits at a tile's port until it is in the awaited state. -/
  | twait (f : FormA)
  /-- R224: Binds a matrix island's stationary B operand from slices. -/
  | mxb (f : FormX)
  /-- R225: Zeroes the island's accumulators and claims the island. -/
  | mxz (f : FormX)
  /-- R225: Releases the island's accumulator rows once the row target is reached. -/
  | mxr (f : FormX)
  /-- R225: Reads the island's correction and slot-miss counters and marks. -/
  | mxck (f : FormX)
  /-- R226: Matches coordinates of L against R and delivers positions and count. -/
  | isect (f : FormA)
  /-- R227: Merges two ascending coordinate lists without repeats. -/
  | union (f : FormA)
  /-- R229: Accumulates coordinate-value pairs into a sparse tile at commit. -/
  | spacc (f : FormA)
  /-- R230: Drains a sparse tile to a port as one event, closed by a stop. -/
  | spdr (f : FormA)
  /-- R232: Opens a barrier entry with an expected count. -/
  | binit (f : FormA)
  /-- R232: Enrols the activation in a barrier entry. -/
  | bjoin (f : FormA)
  /-- R232: Arrives at a barrier after stores are acknowledged. -/
  | barv (f : FormA)
  /-- R232: Waits for the generation of the last arrival to complete. -/
  | bwait (f : FormA)
  /-- R232: Withdraws the activation from a barrier entry. -/
  | bleave (f : FormA)
  /-- R291: Sends a streamer copy command at commit. -/
  | cpy (f : FormX)
  /-- R291: Sends a streamer gather command at commit. -/
  | gath (f : FormX)
  /-- R291: Sends a streamer scatter command at commit. -/
  | scat (f : FormX)
  /-- R292: Sends a command that fills a tile from memory. -/
  | tfill (f : FormX)
  /-- R292: Sends a command that drains a tile to memory. -/
  | tdrain (f : FormX)
  /-- R295: Waits for earlier accesses and commands of the named engine classes to complete. -/
  | xfence (f : FormA)
  /-- R296: Faults the wave with TRAP and a code. -/
  | trap (f : FormA)
  /-- R297: Reads a system register. -/
  | sysr (f : FormS)
  /-- R298: Requests a place-table invalidation at the management port. -/
  | syswPinv (f : FormS)
  /-- R298: Requests a translation invalidation, forced or not. -/
  | syswXinv (f : FormS)
  /-- R298: Requests pre-emption of every resident configuration of a virtual device. -/
  | syswPreempt (f : FormS)
  /-- R299: Reads a fault record, optionally re-arming its slot at commit. -/
  | fltr (f : FormA)
  /-- R300: Restarts the frozen master named by a fault record at commit. -/
  | resume (f : FormA)
  /-- R301: Translates a place and reports its site or the reason it is unreachable. -/
  | plook (f : FormA)
  /-- R302: Reads, and optionally zeroes, a counter of the virtual device. -/
  | cntr (f : FormA)
  /-- R303: Requests a pre-emption round of its own configuration at commit. -/
  | yield (f : FormA)
  /-- R355: Opens a seal session on a seal element. -/
  | sealo (f : FormX)
  /-- R355: Closes a seal session, ending it BROKEN with CAUSE CLOSED. -/
  | sealc (f : FormX)
  /-- R355: Queries a seal session's state and counts. -/
  | seals (f : FormX)
  /-- R367: Issues an all-reduce collective. -/
  | collAllReduce (f : FormX)
  /-- R367: Issues a reduce-scatter collective. -/
  | collReduceScatter (f : FormX)
  /-- R367: Issues an all-gather collective. -/
  | collAllGather (f : FormX)
  /-- R367: Issues a broadcast collective. -/
  | collBroadcast (f : FormX)
  /-- R373: Reports a live link table entry and the agreed generation. -/
  | lnkr (f : FormX)
  /-- R374: Reports the tree count and the package's place in a tree. -/
  | trgen (f : FormX)
  /-- R375: Reports, and optionally aborts, a collective by tag. -/
  | collab (f : FormX)
  /-- R61: The hoist executes a no-operation packet. -/
  | pkNop (p : Packet)
  /-- R349: The hoist reads the named segment's header, deferring while it is EMPTY, and continues at word 1. -/
  | pkLink (p : Packet)
  /-- R350: The hoist checks an image header, bids for a rectangle, and runs the configuration wave. -/
  | pkCfg (p : Packet)
  /-- R350: The hoist opens the configuration's entry ports to seeds. -/
  | pkLaunch (p : Packet)
  /-- R351: The hoist injects seed tokens one by one at an entry port. -/
  | pkSeed (p : Packet)
  /-- R349: The hoist calls an indirect buffer, pushing the return address. -/
  | pkIb (p : Packet)
  /-- R349: The hoist returns from an indirect buffer. -/
  | pkIbend (p : Packet)
  /-- R349: The hoist reads a word and steps over the next k packets if the condition fails. -/
  | pkPred (p : Packet)
  /-- R349: The hoist opens a loop with the given count. -/
  | pkLoopOpen (p : Packet)
  /-- R349: The hoist closes a loop, repeating its body while iterations remain. -/
  | pkLoopClose (p : Packet)
  /-- R62: The hoist discards fetched-ahead bytes and fetches again. -/
  | pkFfence (p : Packet)
  /-- R349: The hoist waits until a memory word meets a condition. -/
  | pkWait (p : Packet)
  /-- R352: The hoist writes a completion word, first waiting for the drained state if DRAIN is set. -/
  | pkWrite (p : Packet)
  /-- R352: The hoist sends a message to the host over UCIe. -/
  | pkSignal (p : Packet)
  /-- R352: The hoist sets the queue's priority for the next round. -/
  | pkPri (p : Packet)
  /-- R353: A colour-0 queue writes a colour entry, binding or unbinding the colour. -/
  | pkColour (p : Packet)
  /-- R353: The hoist sets PIN in every leaf of a page range, opening a pinning contract. -/
  | pkPin (p : Packet)
  /-- R353: The hoist clears PIN in every leaf of a page range. -/
  | pkUnpin (p : Packet)
  /-- R350: The hoist gates, drains or force-discards, and releases a configuration's slabs and handle. -/
  | pkTeardown (p : Packet)
  /-- R16: A hop receives a token, recomputes both check bits, and forwards it, poisons it, or discards it -/
  | tokenHop (flip : BitVec 64)
  /-- R254: A slab takes its section of a configuration image, configures and checks its sites, and forwards the rest -/
  | configWave (slab : Nat) (recs : List Rec)
  /-- R255: One node stops admitting tokens, drains its waves, is rewritten and checked, then admits tokens again -/
  | partialReconfig (recs : List Rec)
  /-- R328: A write of a queue number makes the die's hoist read that descriptor and queue it if WAITING -/
  | qdoor (queue : BitVec 12)
  /-- R328: A write to QTAB sets the queue table base, ignored while any queue is MAPPED or BLOCKED -/
  | qtabWrite (base : BitVec 64)
  /-- R327: A write to a management register without behaviour of its own stores its value -/
  | mgmtRegisterWrite (reg : MgmtReg) (v : BitVec 64)
  /-- R314: A host read through the data aperture returns the word's bits without deferral -/
  | hostDataRead (addr len : Nat)
  /-- R314: A host write through the data aperture writes the bits, sets FULL and answers readers, unless reserved -/
  | hostDataWrite (addr : Nat) (bytes : List Byte)
  /-- R314: A host write through the checked aperture fills an EMPTY or DEFER word, or is refused with HOST_WO -/
  | hostCheckedWrite (addr : Nat) (bytes : List Byte)
  /-- R314: A host read of the presence aperture returns the word's state -/
  | hostPresenceRead (r : HostSpan)
  /-- R314: A host presence write of 0 clears the word as clr does -/
  | hostPresenceClear (w : PresenceWrite)
  /-- R314: A host presence write of 1 sets FULL without changing bits and answers deferred readers -/
  | hostPresenceSet (w : PresenceWrite)
  /-- R314: A host publish write writes host memory and sets FULL in the host presence table in one event -/
  | hostPublishWrite (haddr : Nat) (bytes : List Byte)
  /-- R324: The management core reads and corrects every HBM line once in each 24 hours -/
  | hbmScrub (line : Nat)
  /-- R325: The management core lowers the package clock in 100 MHz steps to hold 6.5 kW -/
  | powerLimit (steps : Nat)
  /-- R360: A live-link-table flood message is merged by generation and forwarded if it replaces a copy -/
  | lltFlood (copy : LltCopy)
  /-- R360: An acknowledgement of a generation and digest is received, and the generation is agreed once all reachable packages have acknowledged -/
  | lltAck (id : BitVec 12) (gen : Nat) (digest : List Byte)
  /-- R369: At a start the participants exchange their marks on tree 0 and deal the chunks not done -/
  | collMarkExchange (k : CollMsg) (report : MarkReport)
  /-- R368: A chunk's inputs arrive at a tree vertex and are reduced or relayed towards the root -/
  | collChunkUp (k : CollMsg) (pkg : BitVec 12) (data : List (List (Option Lane)))
  /-- R368: A chunk's result arrives from the root and the participant writes its DST bytes -/
  | collChunkDown (k : CollMsg) (data : List (Option Lane))
  /-- R368: A participant's acknowledgement of its DST writes travels up the tree to the root -/
  | collDstAck (k : CollMsg) (pkg : BitVec 12)
  /-- R372: An abort message ends the collective at a participant with status ABORTED -/
  | collAbortMessage (colour : Colour) (tag : BitVec 32)
  /-- R376: A forwarded fabric barrier event is performed at the root unit and completions travel down tree 0 -/
  | fbBarrierEvent (e : FbMsg)
  /-- R360: A Ceoth link trains and comes up, changing the local entry and starting a flood of the package's entries -/
  | linkUp (port : Nat) (peer : BitVec 12) (pport : BitVec 5)
  /-- R20: A token arrives at an activation, is matched under its key into a window slot field, and may make the slot ready to fire. Reads the latch: k. -/
  | tokenArrive 
  /-- R19: A token on a node input channel is bound by the receiving node to the frame, slot, field and wave of its default activation. Reads the latch: k. -/
  | channelTokenArrive 
  /-- R163: When lines free, the core replays spilled tokens oldest first within each ordering key, as new arrivals. Reads the latch: core, k. -/
  | tokenReplay 
  /-- R29: An EOS token closes an input channel for its colour and fires waiting half-matched instructions with UNPAIRED. Reads the latch: k. -/
  | eosToken 
  /-- R264: A demand token adds its count to the named output port's per-colour credit counter. Reads the latch: k. -/
  | demandToken 
  /-- R30: A wedge on an input channel stops admission of further tokens from that channel into windows. Reads the latch: k. -/
  | wedgeToken 
  /-- R30: Once all inputs are wedged and no instruction is ready, the node sends a wedge on each output and freezes. Reads the latch: core, node. -/
  | nodeWedgeFreeze 
  /-- R13: The core allocates the next wave's window once its block pointer is known and the occupancy limit and partition allow. Reads the latch: core, frame. -/
  | windowAllocate 
  /-- R23: A wave whose exit, store and output counts, credits and predecessors are all satisfied commits its block as one event. Reads the latch: core, frame. -/
  | blockCommit 
  /-- R29: With every input closed, a wave that holds nothing from outside is withdrawn once all earlier waves have committed. Reads the latch: core, frame. -/
  | waveWithdraw 
  /-- R29: When all inputs of a colour are closed and only withdrawn waves remain, the node sends EOS on each output channel. Reads the latch: core, node, colour. -/
  | nodeEosSend 
  /-- R121: An activation creation arrives at the target core and starts once a frame and partition room are free. Reads the latch: core, k. -/
  | spawnCreate 
  /-- R162: A waiting colour becomes an occupant of a core once enough unpromised lines exist for its minimum partition. Reads the latch: core. -/
  | colourAdmit 
  /-- R162: When the head of the admission order has waited 2^16 cycles, the longest-resident occupant is evicted to the spoil. Reads the latch: core. -/
  | colourEvict 
  /-- R154: A load request reaches the word's home and is answered, deferred, or refused under the presence rules. Reads the latch: k. -/
  | homeLoad 
  /-- R156: Each time a pool entry frees, the home replays the oldest refused load as a new arrival. Reads the latch: k. -/
  | loadReplay 
  /-- R154: A committed store event is performed at the word's home, setting presence and answering deferred readers. Reads the latch: k. -/
  | homeStore 
  /-- R154: A clear event at the home sets the covered words EMPTY without changing their bits. Reads the latch: k. -/
  | homeClr 
  /-- R158: An atomic is performed as one event at its home and its old value is answered. Reads the latch: k. -/
  | homeAtomic 
  /-- R177: A store-class operator presents a reservation to a write-once home, which grants it or refuses with WO_REWRITE, WO_PARTIAL or WO_ATOMIC. Reads the latch: k. -/
  | homeReservation 
  /-- R157: The width converter issues the next piece of a split access once the previous piece has been acknowledged. Reads the latch: core, frame, j, k, id. -/
  | splitPieceIssue 
  /-- R160: A read-modify-write element performs one token's update on its bank range as one event. Reads the latch: k. -/
  | rmwUpdate 
  /-- R135: An arriving capsule is checked against place, node, colour and fit, then joins or starts a capsule activation. Reads the latch: k. -/
  | capsuleLand 
  /-- R134: A freed capsule buffer is granted to the oldest waiting request of a colour holding no buffer, else to the oldest request. Reads the latch: core. -/
  | capsuleBufferGrant 
  /-- R199: An access or tile event reaches a slice port and is performed or held until its tile is READY. Reads the latch: k. -/
  | tilePortEvent 
  /-- R198: When the last fill write is acknowledged the tile becomes READY and held accesses are released. Reads the latch: cluster, tile. -/
  | tileFillComplete 
  /-- R198: After the last drain read the tile becomes READY or EMPTY according to the keep flag. Reads the latch: cluster, tile. -/
  | tileDrainComplete 
  /-- R200: A lookup, install or invalidation is performed at the tag unit in arrival order. Reads the latch: k. -/
  | tagUnitEvent 
  /-- R213: A barrier event is performed as one event at the entry's home, possibly completing the generation. Reads the latch: k. -/
  | barrierEvent 
  /-- R204: An A row arrives at a matrix island and accumulates into its accumulator row. Reads the latch: k. -/
  | islandRow 
  /-- R223: A matrix island performs an X command in arrival order among its rows and sends its completion. Reads the latch: id. -/
  | islandCommand 
  /-- R225: Once the row target or EOS is reached, the island releases its accumulator rows on its output port. Reads the latch: id. -/
  | mxrRelease 
  /-- R208: A corner-turn element collects a block of tokens and emits the transposed tokens. Reads the latch: k. -/
  | cturnToken 
  /-- R209: A reorder element buffers a frame of tokens and emits them in its strided order. Reads the latch: k. -/
  | reorderToken 
  /-- R210: An intersect element compares the heads of its two fibres and emits matching coordinates. Reads the latch: id. -/
  | isectElement 
  /-- R210: A union element compares the heads of its two fibres and emits the merged coordinates. Reads the latch: id. -/
  | unionElement 
  /-- R231: A sparse-accumulator element applies data tokens to its tile and drains it on each stop token. Reads the latch: k. -/
  | spaccElement 
  /-- R244: A held EOS or wedge on a dynamic edge is acted on once its count of preceding data tokens has arrived. Reads the latch: core, node, k. -/
  | dynControlRelease 
  /-- R247: Two eligible reduction packets waiting in one router queue may merge into one packet. Reads the latch: j, k. -/
  | reductionMerge 
  /-- R254: Completion runs back along the configuration tree and the hoist computes the measurement. Reads the latch: cfg. -/
  | configComplete 
  /-- R256: A seed enters an entry port, is checked, assigned a sequence number and sent, or waits for quota or credit. Reads the latch: queue. -/
  | seedEnter 
  /-- R257: A token leaving at an exit port releases its count at the credited entry port, or requests re-injection if poison. Reads the latch: k. -/
  | exitPortToken 
  /-- R322: An entry port receiving a re-injection request seeds the kept seed again or writes a REINJECT record. Reads the latch: k. -/
  | reinjectRequest 
  /-- R261: A translation walk completes, delivering a leaf translation or an XLATE fault to the waiting accesses. Reads the latch: k. -/
  | walkComplete 
  /-- R250: A place-table invalidation completes once caches have dropped the entry and old-routed packets have arrived. Reads the latch: k. -/
  | placeInvalidationComplete 
  /-- R262: A translation invalidation completes once caches are dropped, earlier walks ended and old-translated accesses performed. Reads the latch: k. -/
  | xlateInvalidationComplete 
  /-- R271: At each round of 2^17 cycles the hoist selects waiting queues and binds them to slots. Reads the latch: die. -/
  | hoistRound 
  /-- R270: A BLOCKED queue returns to WAITING when its deferred read is answered. Reads the latch: queue. -/
  | queueUnblock 
  /-- R273: At each round, or when slabs free, the package arbiter ranks bids and admits, compacts or pre-empts -/
  | arbiterRound 
  /-- R277: Once every entry port has gated, wedges are sent and the configuration enters WEDGING. Reads the latch: cfg. -/
  | gatingComplete 
  /-- R277: When the origin slab reports all sites frozen, the configuration enters SETTLING and withdraws pending requests. Reads the latch: cfg. -/
  | wedgingComplete 
  /-- R279: If wedging has not ended 2^18 cycles after the last wedge, every site stops issuing and settling begins. Reads the latch: cfg. -/
  | hardFreeze 
  /-- R277: When no packet of the configuration is in flight, its state is streamed to the save area. Reads the latch: cfg. -/
  | settlingComplete 
  /-- R277: When the save has been written and acknowledged, the slabs are released and the bid waits. Reads the latch: cfg. -/
  | savingComplete 
  /-- R277: After the image and state are replayed and withdrawals re-presented, the sources are ungated and the configuration is resident. Reads the latch: cfg. -/
  | restoreComplete 
  /-- R291: A streamer island runs a command's read and write events in order. Reads the latch: id. -/
  | streamerExecute 
  /-- R293: Once its last write is acknowledged, a command's completion token goes to the reply target. Reads the latch: id. -/
  | streamerComplete 
  /-- R326: Power-on runs a cold start -/
  | powerOn 
  /-- R326: A write of 1 to START runs the cold start steps -/
  | startCold 
  /-- R326: A write of 2 to START runs the warm start steps, keeping HBM contents and trained links -/
  | startWarm 
  /-- R328: A write of 1 to VDCMD binds virtual-device entry IDX from VDENT, or is refused -/
  | vdcmdBind 
  /-- R328: A write of 2 to VDCMD writes the counter bank to the save area and releases entry IDX, or is refused -/
  | vdcmdRelease 
  /-- R312: A CXL port link going down poisons pending loads, drops pending stores and writes a CXL_LINK record. Reads the latch: port. -/
  | cxlLinkDown 
  /-- R318: A seal element forwards a token and hashes it into its colour's session, or ends the session. Reads the latch: k. -/
  | sealElementToken 
  /-- R323: A voter compares copies of a token of one sequence and forwards the majority. Reads the latch: k. -/
  | voterToken 
  /-- R323: After 2^16 voter cycles without a match the voter forwards poison and writes VOTE. Reads the latch: id. -/
  | voterTimeout 
  /-- R325: A supply sag below threshold stretches the cluster's clock until the supply recovers. Reads the latch: cluster. -/
  | droopStretch 
  /-- R325: A die whose junction reaches 105 °C is throttled. Reads the latch: die. -/
  | thermalThrottle 
  /-- R325: A die whose junction reaches 115 °C has its clocks stopped and a THERMAL record is written. Reads the latch: die. -/
  | thermalStop 
  /-- R357: A failed lane takes a Ceoth link to fewer lanes and changes its local table entry. Reads the latch: port. -/
  | laneFail 
  /-- R357: A link with too few lanes or 16 replay failures goes down and its entry changes. Reads the latch: port. -/
  | linkDown 
  /-- R361: A degraded die seam carries traffic at lower bandwidth and its entry changes. Reads the latch: seam. -/
  | seamDegraded 
  /-- R361: A seam going down holds crossing traffic, writes SEAM_DOWN and floods all port entries as down. Reads the latch: seam. -/
  | seamDown 
  /-- R363: The collective engine admits a waiting collective when fewer than 16 run, then starts it -/
  | collAdmit 
  /-- R368: A commit from the root makes each participant write the chunk's progress mark -/
  | collChunkCommit (k : CollMsg)
  /-- R371: Once every mark at the package is acknowledged, the completion goes to the reply target. Reads the latch: id. -/
  | collComplete 
  /-- R177: An acknowledgement of a store-class event, or the answer to a load, reaches the issuing core and may let a fence perform, a capgo or cappark commit proceed, or a barv, streamer, seal or collective command be sent. Reads the latch: k. -/
  | acknowledgement 
  /-- R361: A down die seam is trained again, releases the traffic waiting at it and lets the package rejoin the fabric with its port entries restored. Reads the latch: seam. -/
  | seamTrained 
  /-- R312: The management core trains a downed CXL port again, after which accesses to it are performed normally. Reads the latch: port. -/
  | cxlLinkTrained 
  /-- R325: The supply of a cluster rises back above its droop threshold and the clock stretching ends. Reads the latch: cluster. -/
  | supplyRecovered 
  /-- R352: The host's receiver accepts a pk.signal message it had refused, letting the waiting packet send it and end -/
  | hostReceiverReady 
deriving DecidableEq, Repr

end Sys2Proof
end

