-- ==== Sys2Proof/WellFormed.lean ====
section
/-! DEFINITION. Well-formed instructions: the checks of the configuration wave (R58) that an instruction word carries in
itself, and the defects of a packet (R62, R348). What a check needs from the node (its width, frame, channels, blocks) is
in Machine/Check.lean. -/

namespace Sys2Proof

/-! ## Targets (R39 to R41) -/

/-- R41: T0 and T1 differ unless null, and T0 is not null while T1 is not. -/
def tgAny (c : Common) : Bool := if c.t1 = .null then true else c.t0 ≠ .null && c.t0 ≠ c.t1

def tgNull (c : Common) : Bool := c.t0 = .null && c.t1 = .null

/-- A reply target: a window target or null in T0, null in T1 (R117, R178, R216). -/
def tgReply (c : Common) : Bool :=
  c.t1 = .null && (match c.t0 with | .window _ _ => true | .null => true | _ => false)

def Target.isPort : Target → Bool
  | .port _ _ => true
  | _ => false

/-- A port of the static or the dynamic network. -/
def Target.isStream : Target → Bool
  | .port .static _ => true
  | .port .dynamic _ => true
  | _ => false

/-- A window operand of the issuing block. -/
def Target.isWindow : Target → Bool
  | .window _ _ => true
  | _ => false

/-- `ctxf`: a frame slot, a port or null (R117). -/
def tgNoWindow (c : Common) : Bool :=
  let ok : Target → Bool := fun t => match t with | .frame _ => true | .port _ _ => true | .null => true | _ => false
  tgAny c && ok c.t0 && ok c.t1

def tgPorts (c : Common) : Bool :=
  tgAny c && (c.t0.isPort || c.t0 = .null) && (c.t1.isPort || c.t1 = .null)

def tgDynPort (c : Common) : Bool :=
  c.t1 = .null && (match c.t0 with | .port .dynamic _ => true | _ => false)

def tgEos (c : Common) : Bool :=
  tgAny c && c.t0.isStream && (c.t1.isStream || c.t1 = .null)

/-- Scaled streams (R74, R182, R188): ports of the static or dynamic network, or island channels; a second target may be null. -/
def tgScaled (c : Common) : Bool :=
  let ok : Target → Bool := fun t => match t with
    | .port .control _ => false
    | .port _ _ => true
    | .null => true
    | _ => false
  c.t0 ≠ .null && tgAny c && ok c.t0 && ok c.t1

/-- The targets of a load: those of a DSB load are scaled streams (R182). -/
def tgLoad (f : FormM) : Bool :=
  match f.sz with
  | .dsb8 => tgScaled f.c
  | .dsb4 => tgScaled f.c
  | _ => tgAny f.c

/-- Both targets non-null (`enc`, `cvts`). -/
def tgBoth (c : Common) : Bool := tgAny c && c.t0 ≠ .null && c.t1 ≠ .null

/-- `spdr`: T0 a static or dynamic port, T1 null. -/
def tgDrain (c : Common) : Bool := c.t1 = .null && c.t0.isStream

/-! ## Body A -/

def tyI : List Nat := [0, 2, 3]
def tyN : List Nat := [4, 5, 6]
def ty64 : List Nat := [1]
def tyF : List Nat := [8, 9, 10]

def subZero (s : BitVec 5) : Bool := s == 0
def subAny (_ : BitVec 5) : Bool := true
def subBelow (n : Nat) (s : BitVec 5) : Bool := s.toNat < n
/-- A stop level, 1 to 15. -/
def subLevel (s : BitVec 5) : Bool := 1 ≤ s.toNat && s.toNat ≤ 15
/-- The accumulating dots (R103): SUB[3:0] is zero when SUB[4] is 0. -/
def subAcc (s : BitVec 5) : Bool := s == 0 || s.getLsbD 4
/-- A block format code 0x0D to 0x14 (R188). -/
def subBlock (s : BitVec 5) : Bool := 0x0D ≤ s.toNat && s.toNat ≤ 0x14
/-- The value formats of `spacc` (R216). -/
def subValue (s : BitVec 5) : Bool := s == 0 || s == 8

/-- R44: the immediates a type admits, and the bits of IMM25 that must be zero. -/
def immOk (ty imm : Nat) : Bool :=
  match ty with
  | 0 | 1 | 4 | 8 => true
  | 2 | 5 | 10 => imm < 2 ^ 16
  | 3 | 6 => imm < 2 ^ 8
  | 9 => imm % 2 ^ 9 == 0
  | _ => false

/-- The check of a body A word against its row (R42, R44, R106, R117, R188, R216, R287). -/
def chkA (f : FormA) (tys : List Nat) (sub : BitVec 5 → Bool) (immf : Bool) (tg : Common → Bool) : Bool :=
  tys.contains f.ty.toNat && sub f.sub && tg f.c &&
    (if f.immf then immf && immOk f.ty.toNat f.imm.toNat else f.imm == 0)

/-- A format code that is a type or stored format (R43). -/
def fmtOk (n : Nat) : Bool := n ≤ 0x14 && n != 7

/-- The conversion layout (R46). -/
def convForm (f : FormA) : Bool :=
  f.ty == 0xF && !f.immf && fmtOk f.sub.toNat && fmtOk (f.imm.toNat % 32) && f.imm.toNat < 32 &&
    f.sub.toNat != f.imm.toNat

/-! ## Bodies M, K, X, S -/

/-- R26: the own position is 1 to 30. -/
def seqOk (f : FormM) : Bool := f.sqo != 0 && f.sqo != 31

/-- R178: LNK with `.b32` in `.k`, `.p`, `.s`, and with `.b64` in `.g`. -/
def linkOk (f : FormM) : Bool :=
  match f.sp with
  | .g => f.sz == .b64
  | _ => f.sz == .b32

def capPlain (f : FormK) : Bool := f.kvar == 0 && f.ent == 0 && f.kimm == 0 && tgNull f.c
def capEnt (f : FormK) : Bool := f.kvar == 0 && f.ent != 15 && f.kimm == 0 && tgNull f.c

/-- The parameter block lies below slot 128 (R50). -/
def slots (f : FormX) (n : Nat) : Bool := f.pbase.toNat + n ≤ 128

/-- An X command: EOP, the greatest VAR, its parameter slots, the FLAGS mask (R50). -/
def xCmd (f : FormX) (eop var n mask : Nat) : Bool :=
  tgReply f.c && f.eop.toNat == eop && f.var.toNat ≤ var && f.flags.toNat ≤ mask &&
    (if n = 0 then f.pbase == 0 else slots f n)

/-- Source and destination space of a streamer command (R287). -/
def varSrc (f : FormX) : Nat := f.var.toNat / 8
def varDst (f : FormX) : Nat := f.var.toNat / 2 % 4

def strForm (f : FormX) : Bool := tgReply f.c && f.eop == 0 && !f.var.getLsbD 0

/-- FLAGS of `gath` and `scat`: SIZE at most 4 and the index space (R287). -/
def gatherFlags (f : FormX) : Bool := f.flags.toNat < 32 && f.flags.toNat % 8 ≤ 4

/-- R364: reductions, types and the deterministic bit of `coll`. -/
def collForm (f : FormX) (eop : Nat) : Bool :=
  let ty := f.flags.toNat % 32
  let red := f.var.toNat
  tgReply f.c && f.eop.toNat == eop && f.flags.toNat < 64 && slots f 6 &&
    (if eop < 2 then red ≤ 5 && [0, 1, 4, 8, 9, 10].contains ty && (red < 3 || ty < 8) else red == 0 && ty == 0)

/-- R297: the registers that `sysr` may name. -/
def sysReadable (n : Nat) : Bool := n ≤ 0x00A || n == 0x100 || n == 0x101

/-! ## Packets (R348) -/

def plenOk (p : Packet) : Bool := p.payload.length == p.plen.toNat

def pkHandle (p : Packet) : Bool := p.pflg.toNat < 4096

/-- The 64-bit value held in payload words i and i + 1, low word first (R345). -/
def Packet.pair (p : Packet) (i : Nat) : Nat :=
  (p.payload.getD i 0).toNat + (p.payload.getD (i + 1) 0).toNat * 2 ^ 32

def addrOk (p : Packet) (i align : Nat) : Bool := p.pair i < 2 ^ 48 && p.pair i % align == 0

/-- PFLG of `pk.pred` and `pk.wait`: [3] DEF and [2:0] a condition of R45, [7:4] zero. -/
def predFlags (p : Packet) : Bool := p.pflg.toNat % 256 < 16 && p.pflg.toNat % 8 < 6

def seedCount (p : Packet) : Nat := (p.payload.getD 0 0).toNat % 1024
def seedWidth (p : Packet) : Nat := (p.payload.getD 0 0).toNat / 2 ^ 16 % 32 + 1
def seedKind (p : Packet) : Nat := (p.payload.getD 0 0).toNat / 2 ^ 21 % 8

/-- R351: PLEN is 1 + n × w, and n is 0 exactly for EOS. -/
def seedShape (p : Packet) : Bool :=
  p.plen.toNat == 1 + seedCount p * seedWidth p && (seedCount p == 0) == (seedKind p == 3)

/-- R348: `pk.write`. -/
def writeShape (p : Packet) : Bool :=
  let sz := p.pflg.toNat / 4096 % 2
  let drain := p.pflg.toNat / 8192 % 2
  p.pflg.toNat < 16384 && (drain == 1 || p.pflg.toNat % 4096 == 0) &&
    p.plen.toNat == 3 + sz && addrOk p 0 (if sz = 1 then 8 else 4)

/-! ## The check -/

/-- The check of one instruction (R42 to R52 and its own entry), of one packet (R348); an event has none. -/
def Instr.wf : Instr → Bool
  | .nop f => chkA f ([0]) subZero false tgNull
  | .bro f => tgNull f.c && f.bt1 == 0 && f.handle == 0 && f.entry == 0
  | .brp f => tgNull f.c && f.handle == 0 && f.entry == 0
  | .bri f => tgNull f.c && f.bt0 ≤ f.bt1 && f.handle == 0 && f.entry == 0
  | .spawn f => tgReply f.c && f.bt0 == 0 && f.bt1 == 0
  | .ret f => tgNull f.c && f.bt0 == 0 && f.bt1 == 0 && f.handle == 0 && f.entry == 0
  | .retire f => tgNull f.c && f.bt0 == 0 && f.bt1 == 0 && f.handle == 0 && f.entry == 0
  | .ctxa f => chkA f ([0]) subAny false tgAny
  | .ctxf f => chkA f ([0]) subZero false tgNoWindow
  | .ctxq f => chkA f ([0]) subZero false tgAny
  | .pack f => chkA f ([0]) subZero false tgPorts
  | .unpack f => chkA f ([0]) subZero false tgPorts
  | .mov f => chkA f ([0]) subZero false tgAny
  | .ldf f => chkA f ([0, 1, 2, 3]) subAny false tgAny
  | .send f => chkA f ([0]) subZero false tgDynPort
  | .steer f => chkA f ([0]) subZero false tgAny
  | .merge f => chkA f ([0]) subZero false tgAny
  | .gate f => chkA f ([0]) (subBelow 2) false tgAny
  | .drop f => chkA f ([0]) subZero false tgNull
  | .eos f => chkA f ([0]) subZero false tgEos
  | .stop f => chkA f ([0]) subLevel false tgAny
  | .stopc f => chkA f ([0]) subZero false tgAny
  | .dmd f => chkA f ([0]) subAny true tgDynPort
  | .cvt f => convForm f && tgAny f.c
  | .cvts f => convForm f && tgBoth f.c
  | .bcast f => chkA f ([0]) subAny false tgAny
  | .shuf f => chkA f ([0]) subZero true tgAny
  | .lrot f => chkA f ([0]) subAny false tgAny
  | .redadd f => chkA f (tyI ++ tyN ++ tyF) (subBelow 2) false tgAny
  | .redmax f => chkA f (tyI ++ tyN ++ tyF) (subBelow 2) false tgAny
  | .redmin f => chkA f (tyI ++ tyN ++ tyF) (subBelow 2) false tgAny
  | .scanadd f => chkA f (tyI ++ tyN ++ tyF) subZero false tgAny
  | .lidx f => chkA f ([0]) subZero false tgAny
  | .lmask f => chkA f ([0]) subZero false tgAny
  | .lcomp f => chkA f ([0]) subZero false tgAny
  | .add f => chkA f (tyI ++ tyN ++ ty64) subZero true tgAny
  | .sub f => chkA f (tyI ++ tyN ++ ty64) subZero true tgAny
  | .mul f => chkA f (tyI ++ tyN ++ ty64) subZero true tgAny
  | .mulhi f => chkA f (tyI) subZero true tgAny
  | .mulhn f => chkA f (tyN) subZero true tgAny
  | .mad f => chkA f (tyI ++ tyN) subAny true tgAny
  | .div f => chkA f (tyI) subZero true tgAny
  | .divn f => chkA f (tyN) subZero true tgAny
  | .rem f => chkA f (tyI) subZero true tgAny
  | .remn f => chkA f (tyN) subZero true tgAny
  | .and f => chkA f (tyI ++ tyN ++ ty64) subZero true tgAny
  | .or f => chkA f (tyI ++ tyN ++ ty64) subZero true tgAny
  | .xor f => chkA f (tyI ++ tyN ++ ty64) subZero true tgAny
  | .andn f => chkA f (tyI ++ tyN ++ ty64) subZero true tgAny
  | .not f => chkA f (tyI ++ tyN ++ ty64) subZero false tgAny
  | .shl f => chkA f (tyI ++ tyN ++ ty64) subZero true tgAny
  | .shr f => chkA f (tyI ++ tyN ++ ty64) subZero true tgAny
  | .sar f => chkA f (tyI ++ tyN ++ ty64) subZero true tgAny
  | .rol f => chkA f (tyI ++ tyN) subZero true tgAny
  | .ror f => chkA f (tyI ++ tyN) subZero true tgAny
  | .min f => chkA f (tyI ++ ty64) subZero true tgAny
  | .max f => chkA f (tyI ++ ty64) subZero true tgAny
  | .minn f => chkA f (tyN) subZero true tgAny
  | .maxn f => chkA f (tyN) subZero true tgAny
  | .abs f => chkA f (tyI ++ ty64) subZero false tgAny
  | .neg f => chkA f (tyI ++ tyN ++ ty64) subZero false tgAny
  | .clz f => chkA f (tyI ++ tyN) subZero false tgAny
  | .ctz f => chkA f (tyI ++ tyN) subZero false tgAny
  | .popc f => chkA f (tyI ++ tyN) subZero false tgAny
  | .bfx f => chkA f ([0, 4]) subZero true tgAny
  | .bfi f => chkA f ([0, 4]) subAny true tgAny
  | .sel f => chkA f (tyI ++ tyN ++ ty64) subAny true tgAny
  | .cmp f => chkA f (tyI ++ tyN ++ ty64) (subBelow 6) true tgAny
  | .imm f => tgAny f.c && f.kind.toNat < 4
  | .lea f => chkA f ([4, 1]) (subBelow 8) true tgAny
  | .sadd f => chkA f (tyI ++ tyN) subZero true tgAny
  | .ssub f => chkA f (tyI ++ tyN) subZero true tgAny
  | .dot2i f => chkA f ([2, 5]) subAcc true tgAny
  | .dot4i f => chkA f ([3, 6]) subAcc true tgAny
  | .fadd f => chkA f (tyF) subZero true tgAny
  | .fsub f => chkA f (tyF) subZero true tgAny
  | .fmul f => chkA f (tyF) subZero true tgAny
  | .ffma f => chkA f (tyF) subAny true tgAny
  | .fmin f => chkA f (tyF) subZero true tgAny
  | .fmax f => chkA f (tyF) subZero true tgAny
  | .fabs f => chkA f (tyF) subZero false tgAny
  | .fneg f => chkA f (tyF) subZero false tgAny
  | .fcmp f => chkA f (tyF) (subBelow 6) true tgAny
  | .fclass f => chkA f (tyF) subZero false tgAny
  | .frcp f => chkA f (tyF) subZero false tgAny
  | .frsq f => chkA f (tyF) subZero false tgAny
  | .fsqrt f => chkA f (tyF) subZero false tgAny
  | .fexp2 f => chkA f (tyF) subZero false tgAny
  | .flog2 f => chkA f (tyF) subZero false tgAny
  | .ftanh f => chkA f (tyF) subZero false tgAny
  | .fsig f => chkA f (tyF) subZero false tgAny
  | .fsin f => chkA f (tyF) subZero false tgAny
  | .fcos f => chkA f (tyF) subZero false tgAny
  | .ferf f => chkA f (tyF) subZero false tgAny
  | .fround f => chkA f (tyF) (subBelow 6) false tgAny
  | .fdot2 f => chkA f ([9, 10]) subAcc true tgAny
  | .fdot4 f => chkA f ([11, 12]) subAcc false tgAny
  | .capnNew f => f.kvar == 0 && f.ent == 0 && f.kimm.toNat < 512 && tgAny f.c
  | .capnAdopt f => f.kvar == 1 && f.ent == 0 && f.kimm == 0 && tgAny f.c
  | .capgo f => capPlain f
  | .capnxIndex f => f.kvar == 0 && f.ent != 15 && f.kimm == 0 && tgNull f.c
  | .capnxOperand f => f.kvar == 1 && f.ent == 0 && f.kimm == 0 && tgNull f.c
  | .cappush f => capPlain f
  | .capins f => capEnt f
  | .caprepWhole f => capEnt f
  | .caprepPlace f => f.kvar == 1 && f.ent != 15 && f.kimm == 0 && tgNull f.c
  | .capdel f => capEnt f
  | .capfork f => capEnt f
  | .capjoin f => f.kvar == 0 && f.ent == 0 && f.kimm.toNat < 16 && tgAny f.c
  | .cappark f => f.kvar == 0 && f.ent == 0 && f.kimm.toNat < 256 && tgNull f.c
  | .capld f => f.kvar == 0 && f.ent == 0 && f.kimm == 0 && tgAny f.c
  | .capst f => capPlain f
  | .caphdWord f => f.kvar.toNat < 2 && f.ent == 0 && f.kimm.toNat < 8 && tgAny f.c
  | .caphdEntry f => (f.kvar == 2 || f.kvar == 3) && f.ent != 15 && f.kimm == 0 && tgAny f.c
  | .caphdArg f => f.kvar == 4 && f.ent == 0 && f.kimm == 0 && tgAny f.c
  | .ld f => !f.lnk && seqOk f && tgLoad f
  | .ldLnk f => f.lnk && linkOk f && seqOk f && tgAny f.c
  | .st f => !f.lnk && seqOk f && [Size.b8, .b16, .b32, .b64, .ln].contains f.sz && tgNull f.c
  | .ldp f => !f.lnk && seqOk f && f.sz == .b32 && tgAny f.c
  | .clr f => !f.lnk && seqOk f && [Size.b32, .b64, .ln].contains f.sz && tgNull f.c
  | .aadd f => !f.lnk && seqOk f && [Size.b32, .b64].contains f.sz && tgReply f.c
  | .amin f => !f.lnk && seqOk f && [Size.b32, .b64].contains f.sz && tgReply f.c
  | .amax f => !f.lnk && seqOk f && [Size.b32, .b64].contains f.sz && tgReply f.c
  | .aminn f => !f.lnk && seqOk f && [Size.b32, .b64].contains f.sz && tgReply f.c
  | .amaxn f => !f.lnk && seqOk f && [Size.b32, .b64].contains f.sz && tgReply f.c
  | .aand f => !f.lnk && seqOk f && [Size.b32, .b64].contains f.sz && tgReply f.c
  | .aor f => !f.lnk && seqOk f && [Size.b32, .b64].contains f.sz && tgReply f.c
  | .axor f => !f.lnk && seqOk f && [Size.b32, .b64].contains f.sz && tgReply f.c
  | .aswp f => !f.lnk && seqOk f && [Size.b32, .b64].contains f.sz && tgReply f.c
  | .acas f => !f.lnk && seqOk f && [Size.b32, .b64].contains f.sz && tgReply f.c
  | .afadd f => !f.lnk && seqOk f && f.sz == .b32 && tgReply f.c
  | .vcset f => chkA f ([0]) subAny false tgNull
  | .vcget f => chkA f ([0, 1]) subAny false tgAny
  | .sclset f => chkA f ([0]) subAny false tgNull
  | .dec f => chkA f ([0]) subBlock false tgScaled
  | .enc f => chkA f ([0]) subBlock false tgBoth
  | .fence f => !f.lnk && seqOk f && f.sp == .k && f.sz == .b8 && f.off == 0 && tgNull f.c
  | .tlook f => chkA f ([0]) subZero false tgAny
  | .tins f => chkA f ([0]) subZero true tgNull
  | .tinv f => chkA f ([0]) subZero false tgNull
  | .tsetEmpty f => chkA f [0] (· == 0) false tgNull
  | .tsetReady f => chkA f [0] (· == 1) false tgNull
  | .tsetBind f => chkA f [0] (· == 2) false tgNull
  | .tsetFree f => chkA f [0] (· == 3) false tgNull
  | .twait f => chkA f ([0]) (subBelow 2) false tgAny
  | .mxb f => xCmd f 0 0 3 0
  | .mxz f => xCmd f 0 0 0 0
  | .mxr f => xCmd f 0 1 1 0
  | .mxck f => xCmd f 0 1 0 0
  | .isect f => chkA f ([4]) subZero false tgAny
  | .union f => chkA f ([4]) subZero false tgAny
  | .spacc f => chkA f ([0]) subValue true tgAny
  | .spdr f => chkA f ([0]) subLevel true tgDrain
  | .binit f => chkA f ([0]) (subBelow 5) true tgNull
  | .bjoin f => chkA f ([0]) (subBelow 5) false tgNull
  | .barv f => chkA f ([0]) (subBelow 5) false tgNull
  | .bwait f => chkA f ([0]) (subBelow 5) false tgReply
  | .bleave f => chkA f ([0]) (subBelow 5) false tgNull
  | .cpy f => strForm f && f.flags == 0 && slots f 3
  | .gath f => strForm f && gatherFlags f && slots f 4
  | .scat f => strForm f && gatherFlags f && slots f 4
  | .tfill f => tgReply f.c && f.eop == 0 && !f.var.getLsbD 0 && varDst f == 1 && varSrc f != 1 && f.flags == 0 && slots f 2
  | .tdrain f => tgReply f.c && f.eop == 0 && !f.var.getLsbD 0 && varSrc f == 1 && varDst f != 1 && (f.flags == 0 || f.flags == 32) && slots f 2
  | .xfence f => chkA f ([0, 1]) subAny false tgAny && (f.sub != 0 || f.ty != 0)
  | .trap f => chkA f ([0]) subZero true tgNull && f.immf && f.imm.toNat < 65536
  | .sysr f => tgAny f.c && f.simm == 0 && sysReadable f.sreg.toNat
  | .syswPinv f => tgReply f.c && f.simm == 0 && f.sreg == 0x102
  | .syswXinv f => tgReply f.c && f.simm == 0 && f.sreg == 0x103
  | .syswPreempt f => tgReply f.c && f.simm == 0 && f.sreg == 0x104
  | .fltr f => chkA f ([0]) (subBelow 2) false tgAny
  | .resume f => chkA f ([0]) (subBelow 2) false tgReply
  | .plook f => chkA f ([0]) subZero false tgAny
  | .cntr f => chkA f ([0]) (subBelow 4) false (if f.sub.getLsbD 1 then tgReply else tgAny)
  | .yield f => chkA f ([0]) (subBelow 2) false tgReply
  | .sealo f => xCmd f 0 0 2 255
  | .sealc f => xCmd f 0 0 1 0
  | .seals f => xCmd f 0 0 1 0
  | .collAllReduce f => collForm f 0
  | .collReduceScatter f => collForm f 1
  | .collAllGather f => collForm f 2
  | .collBroadcast f => collForm f 3
  | .lnkr f => xCmd f 0 0 1 0
  | .trgen f => xCmd f 0 0 1 0
  | .collab f => xCmd f 0 1 1 0
  | .pkNop p => plenOk p && p.pflg == 0
  | .pkLink p => plenOk p && p.plen == 2 && p.pflg == 0 && addrOk p 0 64
  | .pkCfg p => plenOk p && p.plen == 2 && pkHandle p && addrOk p 0 4096
  | .pkLaunch p => plenOk p && p.plen == 0 && pkHandle p
  | .pkSeed p => plenOk p && pkHandle p && seedShape p
  | .pkIb p => plenOk p && p.plen == 2 && p.pflg == 0 && addrOk p 0 4
  | .pkIbend p => plenOk p && p.plen == 0 && p.pflg == 0
  | .pkPred p => plenOk p && p.plen == 3 && predFlags p && p.pflg.toNat / 256 ≠ 0 && addrOk p 0 4
  | .pkLoopOpen p => plenOk p && p.plen == 0 && p.pflg != 0
  | .pkLoopClose p => plenOk p && p.plen == 0 && p.pflg == 0
  | .pkFfence p => plenOk p && p.plen == 0 && p.pflg == 0
  | .pkWait p => plenOk p && p.plen == 3 && predFlags p && p.pflg.toNat / 256 == 0 && addrOk p 0 4
  | .pkWrite p => plenOk p && writeShape p
  | .pkSignal p => plenOk p && p.plen.toNat ≤ 4 && p.pflg.toNat < 256
  | .pkPri p => plenOk p && p.plen == 0 && p.pflg.toNat < 8
  | .pkColour p => plenOk p && p.plen == 8 && p.pflg.toNat < 256
  | .pkPin p => plenOk p && p.plen == 3 && p.pflg.toNat < 256 && addrOk p 0 65536 && p.payload.getD 2 0 != 0
  | .pkUnpin p => plenOk p && p.plen == 3 && p.pflg.toNat < 256 && addrOk p 0 65536 && p.payload.getD 2 0 != 0
  | .pkTeardown p => plenOk p && p.plen == 0 && p.pflg.toNat < 8192
  | .tokenHop _ => true
  | .configWave _ _ => true
  | .partialReconfig _ => true
  | .qdoor _ => true
  | .qtabWrite _ => true
  | .mgmtRegisterWrite _ _ => true
  | .hostDataRead _ _ => true
  | .hostDataWrite _ _ => true
  | .hostCheckedWrite _ _ => true
  | .hostPresenceRead _ => true
  | .hostPresenceClear _ => true
  | .hostPresenceSet _ => true
  | .hostPublishWrite _ _ => true
  | .hbmScrub _ => true
  | .powerLimit _ => true
  | .lltFlood _ => true
  | .lltAck _ _ _ => true
  | .collMarkExchange _ _ => true
  | .collChunkUp _ _ _ => true
  | .collChunkDown _ _ => true
  | .collDstAck _ _ => true
  | .collAbortMessage _ _ => true
  | .fbBarrierEvent _ => true
  | .linkUp _ _ _ => true
  | .tokenArrive => true
  | .channelTokenArrive => true
  | .tokenReplay => true
  | .eosToken => true
  | .demandToken => true
  | .wedgeToken => true
  | .nodeWedgeFreeze => true
  | .windowAllocate => true
  | .blockCommit => true
  | .waveWithdraw => true
  | .nodeEosSend => true
  | .spawnCreate => true
  | .colourAdmit => true
  | .colourEvict => true
  | .homeLoad => true
  | .loadReplay => true
  | .homeStore => true
  | .homeClr => true
  | .homeAtomic => true
  | .homeReservation => true
  | .splitPieceIssue => true
  | .rmwUpdate => true
  | .capsuleLand => true
  | .capsuleBufferGrant => true
  | .tilePortEvent => true
  | .tileFillComplete => true
  | .tileDrainComplete => true
  | .tagUnitEvent => true
  | .barrierEvent => true
  | .islandRow => true
  | .islandCommand => true
  | .mxrRelease => true
  | .cturnToken => true
  | .reorderToken => true
  | .isectElement => true
  | .unionElement => true
  | .spaccElement => true
  | .dynControlRelease => true
  | .reductionMerge => true
  | .configComplete => true
  | .seedEnter => true
  | .exitPortToken => true
  | .reinjectRequest => true
  | .walkComplete => true
  | .placeInvalidationComplete => true
  | .xlateInvalidationComplete => true
  | .hoistRound => true
  | .queueUnblock => true
  | .arbiterRound => true
  | .gatingComplete => true
  | .wedgingComplete => true
  | .hardFreeze => true
  | .settlingComplete => true
  | .savingComplete => true
  | .restoreComplete => true
  | .streamerExecute => true
  | .streamerComplete => true
  | .powerOn => true
  | .startCold => true
  | .startWarm => true
  | .vdcmdBind => true
  | .vdcmdRelease => true
  | .cxlLinkDown => true
  | .sealElementToken => true
  | .voterToken => true
  | .voterTimeout => true
  | .droopStretch => true
  | .thermalThrottle => true
  | .thermalStop => true
  | .laneFail => true
  | .linkDown => true
  | .seamDegraded => true
  | .seamDown => true
  | .collAdmit => true
  | .collChunkCommit _ => true
  | .collComplete => true
  | .acknowledgement => true
  | .seamTrained => true
  | .cxlLinkTrained => true
  | .supplyRecovered => true
  | .hostReceiverReady => true

end Sys2Proof
end

