-- ==== Sys2Proof/Decode.lean ====
section
/-! DEFINITION. Decoding and encoding: the fields of instruction words (spec 02 R38 to R52), the opcode map (R56), the
packets (R60, R61), the tag of a token (01 R15), and the bit-field helpers. -/

namespace Sys2Proof

/-! ## Bit fields -/

/-- Bits [lo + len - 1 : lo] of x. -/
def bits (x lo len : Nat) : Nat := x / 2 ^ lo % 2 ^ len

/-- The little-endian value of a list of bytes (R2). -/
def leNat : List Byte → Nat
  | [] => 0
  | b :: bs => b.toNat + 256 * leNat bs

/-- The n little-endian bytes of x (R2). -/
def leBytes : Nat → Nat → List Byte
  | 0, _ => []
  | n + 1, x => BitVec.ofNat 8 x :: leBytes n (x / 256)

/-- The two's complement reading of the low n bits of x. -/
def sInt (n x : Nat) : Int :=
  let y := x % 2 ^ n
  if n ≠ 0 && 2 ^ (n - 1) ≤ y then (y : Int) - (2 : Int) ^ n else (y : Int)

/-- The low n bits of an integer (R63). -/
def wrap (n : Nat) (z : Int) : Nat := (z % (2 : Int) ^ n).toNat

/-! ## Fields of the instruction word -/

/-- Why a word is no instruction, or a run of words no packet. -/
inductive Reject where
  | short         -- fewer bytes than the header asks for
  | noInstruction -- R56: the opcode holds no instruction
  | predicate     -- R38: PM is 0b11
  | target        -- R39, R40: field 0b11, or a special code without a name
  | size          -- R48: SZ is 0b111
  | reserved      -- R49: body C bits [4:0]
  | illFormed     -- the instruction's own checks (Instr.wf)
  | packetOpcode  -- R61: POP from 0x12 to 0xFF
  | packetDefect  -- R62, R348
deriving DecidableEq, Repr

def PMode.ofBits (b : BitVec 2) : Except Reject PMode :=
  if b = 0 then .ok .always else if b = 1 then .ok .onTrue else if b = 2 then .ok .onFalse else .error .predicate

def PMode.toBits : PMode → BitVec 2
  | .always => 0
  | .onTrue => 1
  | .onFalse => 2

def Field.toBits : Field → BitVec 2
  | .l => 0
  | .r => 1
  | .p => 2

def Field.ofBits (b : BitVec 2) : Except Reject Field :=
  if b = 0 then .ok .l else if b = 1 then .ok .r else if b = 2 then .ok .p else .error .target

def Net.toBits : Net → BitVec 2
  | .static => 0
  | .dynamic => 1
  | .control => 2
  | .island => 3

def Net.ofBits (b : BitVec 2) : Net :=
  if b = 0 then .static else if b = 1 then .dynamic else if b = 2 then .control else .island

/-- The 9 bits of a target (R39, R40). -/
def Target.toBits : Target → BitVec 9
  | .window s f => (0 : BitVec 2) ++ (s ++ f.toBits)
  | .frame n => (1 : BitVec 2) ++ n
  | .port net n => (2 : BitVec 2) ++ (net.toBits ++ n)
  | .null => 0x180
  | .reply => 0x181
  | .sink => 0x182

def Target.ofBits (b : BitVec 9) : Except Reject Target :=
  let kind := b.extractLsb' 7 2
  if kind = 0 then (Field.ofBits (b.extractLsb' 0 2)).map (Target.window (b.extractLsb' 2 5))
  else if kind = 1 then .ok (.frame (b.extractLsb' 0 7))
  else if kind = 2 then .ok (.port (Net.ofBits (b.extractLsb' 5 2)) (b.extractLsb' 0 5))
  else if b = 0x180 then .ok .null
  else if b = 0x181 then .ok .reply
  else if b = 0x182 then .ok .sink
  else .error .target

def Space.toBits : Space → BitVec 2
  | .k => 0
  | .s => 1
  | .g => 2
  | .p => 3

def Space.ofBits (b : BitVec 2) : Space :=
  if b = 0 then .k else if b = 1 then .s else if b = 2 then .g else .p

def Size.toBits : Size → BitVec 3
  | .b8 => 0
  | .b16 => 1
  | .b32 => 2
  | .b64 => 3
  | .ln => 4
  | .dsb8 => 5
  | .dsb4 => 6

def Size.ofBits (b : BitVec 3) : Except Reject Size :=
  if b = 0 then .ok .b8 else if b = 1 then .ok .b16 else if b = 2 then .ok .b32 else if b = 3 then .ok .b64
  else if b = 4 then .ok .ln else if b = 5 then .ok .dsb8 else if b = 6 then .ok .dsb4 else .error .size

/-- The form of an instruction word: which body (R57) with its fields. -/
inductive Form where
  | a (f : FormA)
  | i (f : FormI)
  | m (f : FormM)
  | c (f : FormC)
  | x (f : FormX)
  | k (f : FormK)
  | s (f : FormS)
deriving DecidableEq, Repr

def Form.common : Form → Common
  | .a f => f.c
  | .i f => f.c
  | .m f => f.c
  | .c f => f.c
  | .x f => f.c
  | .k f => f.c
  | .s f => f.c

/-- The 35 bits of the body (R42, R47 to R52). -/
def Form.body : Form → BitVec 35
  | .a f => f.ty ++ (f.sub ++ (BitVec.ofBool f.immf ++ f.imm))
  | .i f => f.kind ++ f.imm
  | .m f => f.sqp ++ (f.sqo ++ (f.sqs ++ (f.sp.toBits ++ (f.sz.toBits ++ (BitVec.ofBool f.lnk ++ f.off)))))
  | .c f => f.bt0 ++ (f.bt1 ++ (f.handle ++ (f.entry ++ (0 : BitVec 5))))
  | .x f => f.eop ++ (f.var ++ (f.pbase ++ f.flags))
  | .k f => f.kvar ++ (f.ent ++ f.kimm)
  | .s f => f.sreg ++ f.simm

/-- The word of an opcode and a form (R38). -/
def packWord (opc : BitVec 9) (f : Form) : Word :=
  opc ++ (f.common.pm.toBits ++ (f.common.t0.toBits ++ (f.common.t1.toBits ++ f.body)))

/-- How a row of the opcode map builds its instruction from its body's fields. -/
inductive OpRow where
  | a (mk : FormA → Instr)
  | i (mk : FormI → Instr)
  | m (mk : FormM → Instr)
  | c (mk : FormC → Instr)
  | x (mk : FormX → Instr)
  | k (mk : FormK → Instr)
  | s (mk : FormS → Instr)

/-- The opcode (R56) and the form of an instruction; none for an event or a packet. -/
def Instr.opForm : Instr → Option (BitVec 9 × Form)
  | .nop f => some (0x000, .a f)
  | .bro f => some (0x001, .c f)
  | .brp f => some (0x002, .c f)
  | .bri f => some (0x003, .c f)
  | .spawn f => some (0x004, .c f)
  | .ret f => some (0x005, .c f)
  | .retire f => some (0x006, .c f)
  | .ctxa f => some (0x007, .a f)
  | .ctxf f => some (0x008, .a f)
  | .ctxq f => some (0x009, .a f)
  | .pack f => some (0x00A, .a f)
  | .unpack f => some (0x00B, .a f)
  | .mov f => some (0x020, .a f)
  | .ldf f => some (0x021, .a f)
  | .send f => some (0x022, .a f)
  | .steer f => some (0x023, .a f)
  | .merge f => some (0x024, .a f)
  | .gate f => some (0x025, .a f)
  | .drop f => some (0x026, .a f)
  | .eos f => some (0x027, .a f)
  | .stop f => some (0x028, .a f)
  | .stopc f => some (0x029, .a f)
  | .dmd f => some (0x02A, .a f)
  | .cvt f => some (0x02B, .a f)
  | .cvts f => some (0x02C, .a f)
  | .bcast f => some (0x02D, .a f)
  | .shuf f => some (0x02E, .a f)
  | .lrot f => some (0x02F, .a f)
  | .redadd f => some (0x030, .a f)
  | .redmax f => some (0x031, .a f)
  | .redmin f => some (0x032, .a f)
  | .scanadd f => some (0x033, .a f)
  | .lidx f => some (0x034, .a f)
  | .lmask f => some (0x035, .a f)
  | .lcomp f => some (0x036, .a f)
  | .add f => some (0x060, .a f)
  | .sub f => some (0x061, .a f)
  | .mul f => some (0x062, .a f)
  | .mulhi f => some (0x063, .a f)
  | .mulhn f => some (0x064, .a f)
  | .mad f => some (0x065, .a f)
  | .div f => some (0x066, .a f)
  | .divn f => some (0x067, .a f)
  | .rem f => some (0x068, .a f)
  | .remn f => some (0x069, .a f)
  | .and f => some (0x06A, .a f)
  | .or f => some (0x06B, .a f)
  | .xor f => some (0x06C, .a f)
  | .andn f => some (0x06D, .a f)
  | .not f => some (0x06E, .a f)
  | .shl f => some (0x06F, .a f)
  | .shr f => some (0x070, .a f)
  | .sar f => some (0x071, .a f)
  | .rol f => some (0x072, .a f)
  | .ror f => some (0x073, .a f)
  | .min f => some (0x074, .a f)
  | .max f => some (0x075, .a f)
  | .minn f => some (0x076, .a f)
  | .maxn f => some (0x077, .a f)
  | .abs f => some (0x078, .a f)
  | .neg f => some (0x079, .a f)
  | .clz f => some (0x07A, .a f)
  | .ctz f => some (0x07B, .a f)
  | .popc f => some (0x07C, .a f)
  | .bfx f => some (0x07D, .a f)
  | .bfi f => some (0x07E, .a f)
  | .sel f => some (0x07F, .a f)
  | .cmp f => some (0x080, .a f)
  | .imm f => some (0x081, .i f)
  | .lea f => some (0x082, .a f)
  | .sadd f => some (0x083, .a f)
  | .ssub f => some (0x084, .a f)
  | .dot2i f => some (0x085, .a f)
  | .dot4i f => some (0x086, .a f)
  | .fadd f => some (0x0C0, .a f)
  | .fsub f => some (0x0C1, .a f)
  | .fmul f => some (0x0C2, .a f)
  | .ffma f => some (0x0C3, .a f)
  | .fmin f => some (0x0C4, .a f)
  | .fmax f => some (0x0C5, .a f)
  | .fabs f => some (0x0C6, .a f)
  | .fneg f => some (0x0C7, .a f)
  | .fcmp f => some (0x0C8, .a f)
  | .fclass f => some (0x0C9, .a f)
  | .frcp f => some (0x0CA, .a f)
  | .frsq f => some (0x0CB, .a f)
  | .fsqrt f => some (0x0CC, .a f)
  | .fexp2 f => some (0x0CD, .a f)
  | .flog2 f => some (0x0CE, .a f)
  | .ftanh f => some (0x0CF, .a f)
  | .fsig f => some (0x0D0, .a f)
  | .fsin f => some (0x0D1, .a f)
  | .fcos f => some (0x0D2, .a f)
  | .ferf f => some (0x0D3, .a f)
  | .fround f => some (0x0D4, .a f)
  | .fdot2 f => some (0x0D5, .a f)
  | .fdot4 f => some (0x0D6, .a f)
  | .capnNew f => some (0x100, .k f)
  | .capnAdopt f => some (0x100, .k f)
  | .capgo f => some (0x101, .k f)
  | .capnxIndex f => some (0x102, .k f)
  | .capnxOperand f => some (0x102, .k f)
  | .cappush f => some (0x103, .k f)
  | .capins f => some (0x104, .k f)
  | .caprepWhole f => some (0x105, .k f)
  | .caprepPlace f => some (0x105, .k f)
  | .capdel f => some (0x106, .k f)
  | .capfork f => some (0x107, .k f)
  | .capjoin f => some (0x108, .k f)
  | .cappark f => some (0x109, .k f)
  | .capld f => some (0x10A, .k f)
  | .capst f => some (0x10B, .k f)
  | .caphdWord f => some (0x10C, .k f)
  | .caphdEntry f => some (0x10C, .k f)
  | .caphdArg f => some (0x10C, .k f)
  | .ld f => some (0x120, .m f)
  | .ldLnk f => some (0x120, .m f)
  | .st f => some (0x121, .m f)
  | .ldp f => some (0x122, .m f)
  | .clr f => some (0x123, .m f)
  | .aadd f => some (0x124, .m f)
  | .amin f => some (0x125, .m f)
  | .amax f => some (0x126, .m f)
  | .aminn f => some (0x127, .m f)
  | .amaxn f => some (0x128, .m f)
  | .aand f => some (0x129, .m f)
  | .aor f => some (0x12A, .m f)
  | .axor f => some (0x12B, .m f)
  | .aswp f => some (0x12C, .m f)
  | .acas f => some (0x12D, .m f)
  | .afadd f => some (0x12E, .m f)
  | .vcset f => some (0x12F, .a f)
  | .vcget f => some (0x130, .a f)
  | .sclset f => some (0x131, .a f)
  | .dec f => some (0x132, .a f)
  | .enc f => some (0x133, .a f)
  | .fence f => some (0x134, .m f)
  | .tlook f => some (0x160, .a f)
  | .tins f => some (0x161, .a f)
  | .tinv f => some (0x162, .a f)
  | .tsetEmpty f => some (0x163, .a f)
  | .tsetReady f => some (0x163, .a f)
  | .tsetBind f => some (0x163, .a f)
  | .tsetFree f => some (0x163, .a f)
  | .twait f => some (0x164, .a f)
  | .mxb f => some (0x165, .x f)
  | .mxz f => some (0x166, .x f)
  | .mxr f => some (0x167, .x f)
  | .mxck f => some (0x168, .x f)
  | .isect f => some (0x169, .a f)
  | .union f => some (0x16A, .a f)
  | .spacc f => some (0x16B, .a f)
  | .spdr f => some (0x16C, .a f)
  | .binit f => some (0x16D, .a f)
  | .bjoin f => some (0x16E, .a f)
  | .barv f => some (0x16F, .a f)
  | .bwait f => some (0x170, .a f)
  | .bleave f => some (0x171, .a f)
  | .cpy f => some (0x180, .x f)
  | .gath f => some (0x181, .x f)
  | .scat f => some (0x182, .x f)
  | .tfill f => some (0x183, .x f)
  | .tdrain f => some (0x184, .x f)
  | .xfence f => some (0x185, .a f)
  | .trap f => some (0x186, .a f)
  | .sysr f => some (0x187, .s f)
  | .syswPinv f => some (0x188, .s f)
  | .syswXinv f => some (0x188, .s f)
  | .syswPreempt f => some (0x188, .s f)
  | .fltr f => some (0x189, .a f)
  | .resume f => some (0x18A, .a f)
  | .plook f => some (0x18B, .a f)
  | .cntr f => some (0x18C, .a f)
  | .yield f => some (0x18D, .a f)
  | .sealo f => some (0x1A0, .x f)
  | .sealc f => some (0x1A1, .x f)
  | .seals f => some (0x1A2, .x f)
  | .collAllReduce f => some (0x1B0, .x f)
  | .collReduceScatter f => some (0x1B0, .x f)
  | .collAllGather f => some (0x1B0, .x f)
  | .collBroadcast f => some (0x1B0, .x f)
  | .lnkr f => some (0x1B1, .x f)
  | .trgen f => some (0x1B2, .x f)
  | .collab f => some (0x1B3, .x f)
  | .pkNop _ => none
  | .pkLink _ => none
  | .pkCfg _ => none
  | .pkLaunch _ => none
  | .pkSeed _ => none
  | .pkIb _ => none
  | .pkIbend _ => none
  | .pkPred _ => none
  | .pkLoopOpen _ => none
  | .pkLoopClose _ => none
  | .pkFfence _ => none
  | .pkWait _ => none
  | .pkWrite _ => none
  | .pkSignal _ => none
  | .pkPri _ => none
  | .pkColour _ => none
  | .pkPin _ => none
  | .pkUnpin _ => none
  | .pkTeardown _ => none
  | .tokenHop _ => none
  | .configWave _ _ => none
  | .partialReconfig _ => none
  | .qdoor _ => none
  | .qtabWrite _ => none
  | .mgmtRegisterWrite _ _ => none
  | .hostDataRead _ _ => none
  | .hostDataWrite _ _ => none
  | .hostCheckedWrite _ _ => none
  | .hostPresenceRead _ => none
  | .hostPresenceClear _ => none
  | .hostPresenceSet _ => none
  | .hostPublishWrite _ _ => none
  | .hbmScrub _ => none
  | .powerLimit _ => none
  | .lltFlood _ => none
  | .lltAck _ _ _ => none
  | .collMarkExchange _ _ => none
  | .collChunkUp _ _ _ => none
  | .collChunkDown _ _ => none
  | .collDstAck _ _ => none
  | .collAbortMessage _ _ => none
  | .fbBarrierEvent _ => none
  | .linkUp _ _ _ => none
  | .tokenArrive => none
  | .channelTokenArrive => none
  | .tokenReplay => none
  | .eosToken => none
  | .demandToken => none
  | .wedgeToken => none
  | .nodeWedgeFreeze => none
  | .windowAllocate => none
  | .blockCommit => none
  | .waveWithdraw => none
  | .nodeEosSend => none
  | .spawnCreate => none
  | .colourAdmit => none
  | .colourEvict => none
  | .homeLoad => none
  | .loadReplay => none
  | .homeStore => none
  | .homeClr => none
  | .homeAtomic => none
  | .homeReservation => none
  | .splitPieceIssue => none
  | .rmwUpdate => none
  | .capsuleLand => none
  | .capsuleBufferGrant => none
  | .tilePortEvent => none
  | .tileFillComplete => none
  | .tileDrainComplete => none
  | .tagUnitEvent => none
  | .barrierEvent => none
  | .islandRow => none
  | .islandCommand => none
  | .mxrRelease => none
  | .cturnToken => none
  | .reorderToken => none
  | .isectElement => none
  | .unionElement => none
  | .spaccElement => none
  | .dynControlRelease => none
  | .reductionMerge => none
  | .configComplete => none
  | .seedEnter => none
  | .exitPortToken => none
  | .reinjectRequest => none
  | .walkComplete => none
  | .placeInvalidationComplete => none
  | .xlateInvalidationComplete => none
  | .hoistRound => none
  | .queueUnblock => none
  | .arbiterRound => none
  | .gatingComplete => none
  | .wedgingComplete => none
  | .hardFreeze => none
  | .settlingComplete => none
  | .savingComplete => none
  | .restoreComplete => none
  | .streamerExecute => none
  | .streamerComplete => none
  | .powerOn => none
  | .startCold => none
  | .startWarm => none
  | .vdcmdBind => none
  | .vdcmdRelease => none
  | .cxlLinkDown => none
  | .sealElementToken => none
  | .voterToken => none
  | .voterTimeout => none
  | .droopStretch => none
  | .thermalThrottle => none
  | .thermalStop => none
  | .laneFail => none
  | .linkDown => none
  | .seamDegraded => none
  | .seamDown => none
  | .collAdmit => none
  | .collChunkCommit _ => none
  | .collComplete => none
  | .acknowledgement => none
  | .seamTrained => none
  | .cxlLinkTrained => none
  | .supplyRecovered => none
  | .hostReceiverReady => none

/-- Rows of the opcode map (R56, R57), part 0. -/
def opTable0 : List (BitVec 9 × OpRow) := [
  (0x000, .a (.nop)),
  (0x001, .c (.bro)),
  (0x002, .c (.brp)),
  (0x003, .c (.bri)),
  (0x004, .c (.spawn)),
  (0x005, .c (.ret)),
  (0x006, .c (.retire)),
  (0x007, .a (.ctxa)),
  (0x008, .a (.ctxf)),
  (0x009, .a (.ctxq)),
  (0x00A, .a (.pack)),
  (0x00B, .a (.unpack)),
  (0x020, .a (.mov)),
  (0x021, .a (.ldf)),
  (0x022, .a (.send)),
  (0x023, .a (.steer)),
  (0x024, .a (.merge)),
  (0x025, .a (.gate)),
  (0x026, .a (.drop)),
  (0x027, .a (.eos)),
  (0x028, .a (.stop)),
  (0x029, .a (.stopc)),
  (0x02A, .a (.dmd)),
  (0x02B, .a (.cvt)),
  (0x02C, .a (.cvts)),
  (0x02D, .a (.bcast)),
  (0x02E, .a (.shuf)),
  (0x02F, .a (.lrot)),
  (0x030, .a (.redadd)),
  (0x031, .a (.redmax)),
  (0x032, .a (.redmin)),
  (0x033, .a (.scanadd)),
  (0x034, .a (.lidx)),
  (0x035, .a (.lmask))]

/-- Rows of the opcode map (R56, R57), part 1. -/
def opTable1 : List (BitVec 9 × OpRow) := [
  (0x036, .a (.lcomp)),
  (0x060, .a (.add)),
  (0x061, .a (.sub)),
  (0x062, .a (.mul)),
  (0x063, .a (.mulhi)),
  (0x064, .a (.mulhn)),
  (0x065, .a (.mad)),
  (0x066, .a (.div)),
  (0x067, .a (.divn)),
  (0x068, .a (.rem)),
  (0x069, .a (.remn)),
  (0x06A, .a (.and)),
  (0x06B, .a (.or)),
  (0x06C, .a (.xor)),
  (0x06D, .a (.andn)),
  (0x06E, .a (.not)),
  (0x06F, .a (.shl)),
  (0x070, .a (.shr)),
  (0x071, .a (.sar)),
  (0x072, .a (.rol)),
  (0x073, .a (.ror)),
  (0x074, .a (.min)),
  (0x075, .a (.max)),
  (0x076, .a (.minn)),
  (0x077, .a (.maxn)),
  (0x078, .a (.abs)),
  (0x079, .a (.neg)),
  (0x07A, .a (.clz)),
  (0x07B, .a (.ctz)),
  (0x07C, .a (.popc)),
  (0x07D, .a (.bfx)),
  (0x07E, .a (.bfi)),
  (0x07F, .a (.sel)),
  (0x080, .a (.cmp))]

/-- Rows of the opcode map (R56, R57), part 2. -/
def opTable2 : List (BitVec 9 × OpRow) := [
  (0x081, .i (.imm)),
  (0x082, .a (.lea)),
  (0x083, .a (.sadd)),
  (0x084, .a (.ssub)),
  (0x085, .a (.dot2i)),
  (0x086, .a (.dot4i)),
  (0x0C0, .a (.fadd)),
  (0x0C1, .a (.fsub)),
  (0x0C2, .a (.fmul)),
  (0x0C3, .a (.ffma)),
  (0x0C4, .a (.fmin)),
  (0x0C5, .a (.fmax)),
  (0x0C6, .a (.fabs)),
  (0x0C7, .a (.fneg)),
  (0x0C8, .a (.fcmp)),
  (0x0C9, .a (.fclass)),
  (0x0CA, .a (.frcp)),
  (0x0CB, .a (.frsq)),
  (0x0CC, .a (.fsqrt)),
  (0x0CD, .a (.fexp2)),
  (0x0CE, .a (.flog2)),
  (0x0CF, .a (.ftanh)),
  (0x0D0, .a (.fsig)),
  (0x0D1, .a (.fsin)),
  (0x0D2, .a (.fcos)),
  (0x0D3, .a (.ferf)),
  (0x0D4, .a (.fround)),
  (0x0D5, .a (.fdot2)),
  (0x0D6, .a (.fdot4)),
  (0x100, .k (fun f => if f.kvar = 0 then .capnNew f else .capnAdopt f)),
  (0x101, .k (.capgo)),
  (0x102, .k (fun f => if f.kvar = 0 then .capnxIndex f else .capnxOperand f)),
  (0x103, .k (.cappush)),
  (0x104, .k (.capins))]

/-- Rows of the opcode map (R56, R57), part 3. -/
def opTable3 : List (BitVec 9 × OpRow) := [
  (0x105, .k (fun f => if f.kvar = 0 then .caprepWhole f else .caprepPlace f)),
  (0x106, .k (.capdel)),
  (0x107, .k (.capfork)),
  (0x108, .k (.capjoin)),
  (0x109, .k (.cappark)),
  (0x10A, .k (.capld)),
  (0x10B, .k (.capst)),
  (0x10C, .k (fun f => if f.kvar.toNat < 2 then .caphdWord f else if f.kvar = 4 then .caphdArg f else .caphdEntry f)),
  (0x120, .m (fun f => if f.lnk then .ldLnk f else .ld f)),
  (0x121, .m (.st)),
  (0x122, .m (.ldp)),
  (0x123, .m (.clr)),
  (0x124, .m (.aadd)),
  (0x125, .m (.amin)),
  (0x126, .m (.amax)),
  (0x127, .m (.aminn)),
  (0x128, .m (.amaxn)),
  (0x129, .m (.aand)),
  (0x12A, .m (.aor)),
  (0x12B, .m (.axor)),
  (0x12C, .m (.aswp)),
  (0x12D, .m (.acas)),
  (0x12E, .m (.afadd)),
  (0x12F, .a (.vcset)),
  (0x130, .a (.vcget)),
  (0x131, .a (.sclset)),
  (0x132, .a (.dec)),
  (0x133, .a (.enc)),
  (0x134, .m (.fence)),
  (0x160, .a (.tlook)),
  (0x161, .a (.tins)),
  (0x162, .a (.tinv)),
  (0x163, .a (fun f => if f.sub = 0 then .tsetEmpty f else if f.sub = 1 then .tsetReady f else if f.sub = 2 then .tsetBind f else .tsetFree f)),
  (0x164, .a (.twait))]

/-- Rows of the opcode map (R56, R57), part 4. -/
def opTable4 : List (BitVec 9 × OpRow) := [
  (0x165, .x (.mxb)),
  (0x166, .x (.mxz)),
  (0x167, .x (.mxr)),
  (0x168, .x (.mxck)),
  (0x169, .a (.isect)),
  (0x16A, .a (.union)),
  (0x16B, .a (.spacc)),
  (0x16C, .a (.spdr)),
  (0x16D, .a (.binit)),
  (0x16E, .a (.bjoin)),
  (0x16F, .a (.barv)),
  (0x170, .a (.bwait)),
  (0x171, .a (.bleave)),
  (0x180, .x (.cpy)),
  (0x181, .x (.gath)),
  (0x182, .x (.scat)),
  (0x183, .x (.tfill)),
  (0x184, .x (.tdrain)),
  (0x185, .a (.xfence)),
  (0x186, .a (.trap)),
  (0x187, .s (.sysr)),
  (0x188, .s (fun f => if f.sreg = 0x102 then .syswPinv f else if f.sreg = 0x103 then .syswXinv f else .syswPreempt f)),
  (0x189, .a (.fltr)),
  (0x18A, .a (.resume)),
  (0x18B, .a (.plook)),
  (0x18C, .a (.cntr)),
  (0x18D, .a (.yield)),
  (0x1A0, .x (.sealo)),
  (0x1A1, .x (.sealc)),
  (0x1A2, .x (.seals)),
  (0x1B0, .x (fun f => if f.eop = 0 then .collAllReduce f else if f.eop = 1 then .collReduceScatter f else if f.eop = 2 then .collAllGather f else .collBroadcast f)),
  (0x1B1, .x (.lnkr)),
  (0x1B2, .x (.trgen)),
  (0x1B3, .x (.collab))]

/-- The opcode map (R56): every opcode that holds an instruction, with its body (R57). -/
def opTable : List (BitVec 9 × OpRow) := opTable0 ++ opTable1 ++ opTable2 ++ opTable3 ++ opTable4

/-- The fields of a word's common part (R38). -/
def Common.ofWord (w : Word) : Except Reject Common :=
  match PMode.ofBits (w.extractLsb' 53 2), Target.ofBits (w.extractLsb' 44 9), Target.ofBits (w.extractLsb' 35 9) with
  | .ok pm, .ok t0, .ok t1 => .ok ⟨pm, t0, t1⟩
  | .error e, _, _ => .error e
  | _, .error e, _ => .error e
  | _, _, .error e => .error e

def FormA.ofBody (c : Common) (b : BitVec 35) : FormA :=
  ⟨c, b.extractLsb' 31 4, b.extractLsb' 26 5, b.getLsbD 25, b.extractLsb' 0 25⟩

def FormI.ofBody (c : Common) (b : BitVec 35) : FormI := ⟨c, b.extractLsb' 32 3, b.extractLsb' 0 32⟩

def FormM.ofBody (c : Common) (b : BitVec 35) : Except Reject FormM :=
  (Size.ofBits (b.extractLsb' 15 3)).map fun sz =>
    ⟨c, b.extractLsb' 30 5, b.extractLsb' 25 5, b.extractLsb' 20 5, Space.ofBits (b.extractLsb' 18 2), sz,
      b.getLsbD 14, b.extractLsb' 0 14⟩

def FormC.ofBody (c : Common) (b : BitVec 35) : Except Reject FormC :=
  if b.extractLsb' 0 5 = 0 then
    .ok ⟨c, b.extractLsb' 29 6, b.extractLsb' 23 6, b.extractLsb' 11 12, b.extractLsb' 5 6⟩
  else .error .reserved

def FormX.ofBody (c : Common) (b : BitVec 35) : FormX :=
  ⟨c, b.extractLsb' 31 4, b.extractLsb' 26 5, b.extractLsb' 19 7, b.extractLsb' 0 19⟩

def FormK.ofBody (c : Common) (b : BitVec 35) : FormK := ⟨c, b.extractLsb' 31 4, b.extractLsb' 27 4, b.extractLsb' 0 27⟩

def FormS.ofBody (c : Common) (b : BitVec 35) : FormS := ⟨c, b.extractLsb' 23 12, b.extractLsb' 0 23⟩

/-- The instruction a row builds from a word. -/
def OpRow.read (row : OpRow) (c : Common) (b : BitVec 35) : Except Reject Instr :=
  match row with
  | .a mk => .ok (mk (.ofBody c b))
  | .i mk => .ok (mk (.ofBody c b))
  | .m mk => (FormM.ofBody c b).map mk
  | .c mk => (FormC.ofBody c b).map mk
  | .x mk => .ok (mk (.ofBody c b))
  | .k mk => .ok (mk (.ofBody c b))
  | .s mk => .ok (mk (.ofBody c b))

/-- An instruction that has passed its own checks. -/
def checked (i : Instr) : Except Reject Instr := if i.wf then .ok i else .error .illFormed

/-- The instruction of a word (R37, R38, R56), or why the configuration wave rejects it (R58). -/
def decodeWord (w : Word) : Except Reject Instr :=
  match opTable.lookup (w.extractLsb' 55 9) with
  | none => .error .noInstruction
  | some row =>
    match Common.ofWord w with
    | .error e => .error e
    | .ok c =>
      match row.read c (w.extractLsb' 0 35) with
      | .error e => .error e
      | .ok i => checked i

/-- The instruction word at the head of a run of bytes, and the rest (R37: little-endian). -/
def decodeBytes (bs : List Byte) : Except Reject (Instr × List Byte) :=
  if bs.length < 8 then .error .short
  else (decodeWord (BitVec.ofNat 64 (leNat (bs.take 8)))).map fun i => (i, bs.drop 8)

/-- The opcode of a packet (R61) and the packet; none for an instruction or an event. -/
def Instr.popForm : Instr → Option (BitVec 8 × Packet)
  | .nop _ => none
  | .bro _ => none
  | .brp _ => none
  | .bri _ => none
  | .spawn _ => none
  | .ret _ => none
  | .retire _ => none
  | .ctxa _ => none
  | .ctxf _ => none
  | .ctxq _ => none
  | .pack _ => none
  | .unpack _ => none
  | .mov _ => none
  | .ldf _ => none
  | .send _ => none
  | .steer _ => none
  | .merge _ => none
  | .gate _ => none
  | .drop _ => none
  | .eos _ => none
  | .stop _ => none
  | .stopc _ => none
  | .dmd _ => none
  | .cvt _ => none
  | .cvts _ => none
  | .bcast _ => none
  | .shuf _ => none
  | .lrot _ => none
  | .redadd _ => none
  | .redmax _ => none
  | .redmin _ => none
  | .scanadd _ => none
  | .lidx _ => none
  | .lmask _ => none
  | .lcomp _ => none
  | .add _ => none
  | .sub _ => none
  | .mul _ => none
  | .mulhi _ => none
  | .mulhn _ => none
  | .mad _ => none
  | .div _ => none
  | .divn _ => none
  | .rem _ => none
  | .remn _ => none
  | .and _ => none
  | .or _ => none
  | .xor _ => none
  | .andn _ => none
  | .not _ => none
  | .shl _ => none
  | .shr _ => none
  | .sar _ => none
  | .rol _ => none
  | .ror _ => none
  | .min _ => none
  | .max _ => none
  | .minn _ => none
  | .maxn _ => none
  | .abs _ => none
  | .neg _ => none
  | .clz _ => none
  | .ctz _ => none
  | .popc _ => none
  | .bfx _ => none
  | .bfi _ => none
  | .sel _ => none
  | .cmp _ => none
  | .imm _ => none
  | .lea _ => none
  | .sadd _ => none
  | .ssub _ => none
  | .dot2i _ => none
  | .dot4i _ => none
  | .fadd _ => none
  | .fsub _ => none
  | .fmul _ => none
  | .ffma _ => none
  | .fmin _ => none
  | .fmax _ => none
  | .fabs _ => none
  | .fneg _ => none
  | .fcmp _ => none
  | .fclass _ => none
  | .frcp _ => none
  | .frsq _ => none
  | .fsqrt _ => none
  | .fexp2 _ => none
  | .flog2 _ => none
  | .ftanh _ => none
  | .fsig _ => none
  | .fsin _ => none
  | .fcos _ => none
  | .ferf _ => none
  | .fround _ => none
  | .fdot2 _ => none
  | .fdot4 _ => none
  | .capnNew _ => none
  | .capnAdopt _ => none
  | .capgo _ => none
  | .capnxIndex _ => none
  | .capnxOperand _ => none
  | .cappush _ => none
  | .capins _ => none
  | .caprepWhole _ => none
  | .caprepPlace _ => none
  | .capdel _ => none
  | .capfork _ => none
  | .capjoin _ => none
  | .cappark _ => none
  | .capld _ => none
  | .capst _ => none
  | .caphdWord _ => none
  | .caphdEntry _ => none
  | .caphdArg _ => none
  | .ld _ => none
  | .ldLnk _ => none
  | .st _ => none
  | .ldp _ => none
  | .clr _ => none
  | .aadd _ => none
  | .amin _ => none
  | .amax _ => none
  | .aminn _ => none
  | .amaxn _ => none
  | .aand _ => none
  | .aor _ => none
  | .axor _ => none
  | .aswp _ => none
  | .acas _ => none
  | .afadd _ => none
  | .vcset _ => none
  | .vcget _ => none
  | .sclset _ => none
  | .dec _ => none
  | .enc _ => none
  | .fence _ => none
  | .tlook _ => none
  | .tins _ => none
  | .tinv _ => none
  | .tsetEmpty _ => none
  | .tsetReady _ => none
  | .tsetBind _ => none
  | .tsetFree _ => none
  | .twait _ => none
  | .mxb _ => none
  | .mxz _ => none
  | .mxr _ => none
  | .mxck _ => none
  | .isect _ => none
  | .union _ => none
  | .spacc _ => none
  | .spdr _ => none
  | .binit _ => none
  | .bjoin _ => none
  | .barv _ => none
  | .bwait _ => none
  | .bleave _ => none
  | .cpy _ => none
  | .gath _ => none
  | .scat _ => none
  | .tfill _ => none
  | .tdrain _ => none
  | .xfence _ => none
  | .trap _ => none
  | .sysr _ => none
  | .syswPinv _ => none
  | .syswXinv _ => none
  | .syswPreempt _ => none
  | .fltr _ => none
  | .resume _ => none
  | .plook _ => none
  | .cntr _ => none
  | .yield _ => none
  | .sealo _ => none
  | .sealc _ => none
  | .seals _ => none
  | .collAllReduce _ => none
  | .collReduceScatter _ => none
  | .collAllGather _ => none
  | .collBroadcast _ => none
  | .lnkr _ => none
  | .trgen _ => none
  | .collab _ => none
  | .pkNop p => some (0x00, p)
  | .pkLink p => some (0x01, p)
  | .pkCfg p => some (0x02, p)
  | .pkLaunch p => some (0x03, p)
  | .pkSeed p => some (0x04, p)
  | .pkIb p => some (0x05, p)
  | .pkIbend p => some (0x06, p)
  | .pkPred p => some (0x07, p)
  | .pkLoopOpen p => some (0x08, p)
  | .pkLoopClose p => some (0x08, p)
  | .pkFfence p => some (0x09, p)
  | .pkWait p => some (0x0A, p)
  | .pkWrite p => some (0x0B, p)
  | .pkSignal p => some (0x0C, p)
  | .pkPri p => some (0x0D, p)
  | .pkColour p => some (0x0E, p)
  | .pkPin p => some (0x0F, p)
  | .pkUnpin p => some (0x10, p)
  | .pkTeardown p => some (0x11, p)
  | .tokenHop _ => none
  | .configWave _ _ => none
  | .partialReconfig _ => none
  | .qdoor _ => none
  | .qtabWrite _ => none
  | .mgmtRegisterWrite _ _ => none
  | .hostDataRead _ _ => none
  | .hostDataWrite _ _ => none
  | .hostCheckedWrite _ _ => none
  | .hostPresenceRead _ => none
  | .hostPresenceClear _ => none
  | .hostPresenceSet _ => none
  | .hostPublishWrite _ _ => none
  | .hbmScrub _ => none
  | .powerLimit _ => none
  | .lltFlood _ => none
  | .lltAck _ _ _ => none
  | .collMarkExchange _ _ => none
  | .collChunkUp _ _ _ => none
  | .collChunkDown _ _ => none
  | .collDstAck _ _ => none
  | .collAbortMessage _ _ => none
  | .fbBarrierEvent _ => none
  | .linkUp _ _ _ => none
  | .tokenArrive => none
  | .channelTokenArrive => none
  | .tokenReplay => none
  | .eosToken => none
  | .demandToken => none
  | .wedgeToken => none
  | .nodeWedgeFreeze => none
  | .windowAllocate => none
  | .blockCommit => none
  | .waveWithdraw => none
  | .nodeEosSend => none
  | .spawnCreate => none
  | .colourAdmit => none
  | .colourEvict => none
  | .homeLoad => none
  | .loadReplay => none
  | .homeStore => none
  | .homeClr => none
  | .homeAtomic => none
  | .homeReservation => none
  | .splitPieceIssue => none
  | .rmwUpdate => none
  | .capsuleLand => none
  | .capsuleBufferGrant => none
  | .tilePortEvent => none
  | .tileFillComplete => none
  | .tileDrainComplete => none
  | .tagUnitEvent => none
  | .barrierEvent => none
  | .islandRow => none
  | .islandCommand => none
  | .mxrRelease => none
  | .cturnToken => none
  | .reorderToken => none
  | .isectElement => none
  | .unionElement => none
  | .spaccElement => none
  | .dynControlRelease => none
  | .reductionMerge => none
  | .configComplete => none
  | .seedEnter => none
  | .exitPortToken => none
  | .reinjectRequest => none
  | .walkComplete => none
  | .placeInvalidationComplete => none
  | .xlateInvalidationComplete => none
  | .hoistRound => none
  | .queueUnblock => none
  | .arbiterRound => none
  | .gatingComplete => none
  | .wedgingComplete => none
  | .hardFreeze => none
  | .settlingComplete => none
  | .savingComplete => none
  | .restoreComplete => none
  | .streamerExecute => none
  | .streamerComplete => none
  | .powerOn => none
  | .startCold => none
  | .startWarm => none
  | .vdcmdBind => none
  | .vdcmdRelease => none
  | .cxlLinkDown => none
  | .sealElementToken => none
  | .voterToken => none
  | .voterTimeout => none
  | .droopStretch => none
  | .thermalThrottle => none
  | .thermalStop => none
  | .laneFail => none
  | .linkDown => none
  | .seamDegraded => none
  | .seamDown => none
  | .collAdmit => none
  | .collChunkCommit _ => none
  | .collComplete => none
  | .acknowledgement => none
  | .seamTrained => none
  | .cxlLinkTrained => none
  | .supplyRecovered => none
  | .hostReceiverReady => none

/-- Packet opcodes (R61): the packet a header's POP names. `pk.loop` opens with a count and closes without (R348). -/
def packetOf (pop : BitVec 8) (p : Packet) : Except Reject Instr :=
  match pop.toNat with
  | 0x00 => .ok (.pkNop p)
  | 0x01 => .ok (.pkLink p)
  | 0x02 => .ok (.pkCfg p)
  | 0x03 => .ok (.pkLaunch p)
  | 0x04 => .ok (.pkSeed p)
  | 0x05 => .ok (.pkIb p)
  | 0x06 => .ok (.pkIbend p)
  | 0x07 => .ok (.pkPred p)
  | 0x08 => .ok (if p.pflg = 0 then .pkLoopClose p else .pkLoopOpen p)
  | 0x09 => .ok (.pkFfence p)
  | 0x0A => .ok (.pkWait p)
  | 0x0B => .ok (.pkWrite p)
  | 0x0C => .ok (.pkSignal p)
  | 0x0D => .ok (.pkPri p)
  | 0x0E => .ok (.pkColour p)
  | 0x0F => .ok (.pkPin p)
  | 0x10 => .ok (.pkUnpin p)
  | 0x11 => .ok (.pkTeardown p)
  | _ => .error .packetOpcode

/-- The packet of a run of words (R60): header first, then the payload. -/
def decodePacket (ws : List (BitVec 32)) : Except Reject Instr :=
  match ws with
  | [] => .error .short
  | h :: rest =>
    let plen : BitVec 8 := h.extractLsb' 16 8
    if rest.length < plen.toNat then .error .short
    else
      match packetOf (h.extractLsb' 24 8) ⟨plen, h.extractLsb' 0 16, rest.take plen.toNat⟩ with
      | .error e => .error e
      | .ok i => if i.wf then .ok i else .error .packetDefect

/-! ## Encoding -/

/-- The 64-bit word of an instruction (R38); none for an event or a packet. -/
def encodeWord (i : Instr) : Option Word := i.opForm.map fun (o, f) => packWord o f

/-- The words of a packet (R60); none for an instruction or an event. -/
def encodePacket (i : Instr) : Option (List (BitVec 32)) :=
  i.popForm.map fun (pop, p) => (pop ++ (p.plen ++ p.pflg)) :: p.payload

/-- The bytes of an instruction or a packet as memory holds them (R37, R60); an event has none. -/
def encode (i : Instr) : Option (List Byte) :=
  match encodeWord i with
  | some w => some (leBytes 8 w.toNat)
  | none => (encodePacket i).map fun ws => ws.flatMap fun x => leBytes 4 x.toNat

/-- The n 32-bit words of w, the first least significant. -/
def splitWords : Nat → Nat → List (BitVec 32)
  | 0, _ => []
  | n + 1, w => BitVec.ofNat 32 w :: splitWords n (w / 2 ^ 32)

/-- What the decoder reads from bits numbered as the opcode table numbers them: 64 bits are an instruction word laid out
in 8 bytes (R37), any other number a packet whose words beyond nbits are zero (R60). -/
def decodeTableWord (nbits w : Nat) : Option Instr :=
  if nbits = 64 then
    match decodeBytes (leBytes 8 w) with
    | .ok (i, _) => some i
    | .error _ => none
  else
    match decodePacket (splitWords 256 (w % 2 ^ nbits)) with
    | .ok i => some i
    | .error _ => none

/-! ## The tag of a token (R15) -/

def Kind.toBits : Kind → BitVec 3
  | .data => 0
  | .error => 1
  | .poison => 2
  | .eos => 3
  | .stop => 4
  | .wedge => 5
  | .demand => 6
  | .reserved => 7

def Kind.ofBits (b : BitVec 3) : Kind :=
  match b.toNat with
  | 0 => .data
  | 1 => .error
  | 2 => .poison
  | 3 => .eos
  | 4 => .stop
  | 5 => .wedge
  | 6 => .demand
  | _ => .reserved

/-- Lane 0, which carries a code, a level, a count or a predicate (R17, R41). -/
def Token.lane0 (t : Token) : Lane := t.lanes.headD 0

/-- A token of kind error or poison. -/
def Token.isBad (t : Token) : Bool := t.kind = .error || t.kind = .poison
def Token.code (t : Token) : BitVec 8 := t.lane0.extractLsb' 0 8
def Token.stopLevel (t : Token) : Nat := (t.lane0.extractLsb' 0 4).toNat

/-- The parity of the low n bits of x. -/
def parity : Nat → Nat → Bool
  | 0, _ => false
  | n + 1, x => (x % 2 == 1) ^^ parity n (x / 2)

/-- Bits [63:2] of the tag (R15). -/
def Token.tag62 (t : Token) : BitVec 62 :=
  t.colour ++ (t.kind.toBits ++ (BitVec.ofNat 5 (t.lanes.length - 1) ++ (t.frame ++ (t.slot ++ (t.field ++
    (t.wave ++ (t.seq ++ t.chan)))))))

/-- The check bits of a tag's bits [63:2] (R15): check[1] over [63:32], check[0] over [31:2]. -/
def tagCheck (b : BitVec 62) : BitVec 2 :=
  BitVec.ofBool (parity 32 (b.toNat / 2 ^ 30)) ++ BitVec.ofBool (parity 30 (b.toNat % 2 ^ 30))

/-- The 64-bit tag with its check bits (R15). -/
def Token.tag (t : Token) : BitVec 64 := t.tag62 ++ tagCheck t.tag62

end Sys2Proof
end

