-- ==== Sys2Proof/Machine/State.lean ====
section
/-! DEFINITION. The state of the VX9-M package as plain data, and its value after reset (spec 19 R326). A table is a list of
(key, value) pairs in ascending key order; an unlisted key stands for the value that the accessor in Ops names. -/

namespace Sys2Proof.Machine

/-- A table: (key, value) pairs in ascending key order. -/
abbrev Tab (α : Type) := List (Nat × α)

/-- Memory: bytes by home address, strictly rising, none of them 0 (what an unlisted byte reads as; log 4). A home
address names the unit as well as the byte (`Ops.hbm`, `Ops.bank` and so on). -/
abbrev Memory := List Host.Cell

/-! ## Presence (09 R153) -/

/-- The state of a word. -/
inductive Pres where
  | empty | full | err | defer
deriving DecidableEq, Repr

/-! ## Requests to a home (09 R154 to R158, 10 R177) -/

/-- An operator of a wave: core, frame, the activation's serial number, wave index, slot, and the run of the wave (serial number and
run are the model's own: what a run has asked of homes before a fault answers no later run). -/
structure Who where
  core : Nat
  frame : Nat
  uid : Nat
  wave : Nat
  slot : Nat
  colour : Colour
  run : Nat
deriving DecidableEq, Repr

/-- Who waits for an answer: a task operator, a queue of the hoist, a streamer command, an island command, a collective,
a handler's `fltr` read. -/
inductive Party where
  | task (w : Who)
  | queue (q : Nat)
  | streamer (id : Nat)
  | island (id : Nat)
  | coll (id : Nat)
  | engine
deriving DecidableEq, Repr

/-- The eleven atomics (10 R186). -/
inductive AtomicOp where
  | add | min | max | minn | maxn | and | or | xor | swp | cas | fadd
deriving DecidableEq, Repr

/-- How a word's home treats presence: by its region mask (banks and slices), as a plain page that keeps none, or as a
write-once page (10 R180). -/
inductive PageMode where
  | region | plain | wo
deriving DecidableEq, Repr

/-- What a store writes: bytes, an error token's code (R180), or an engine's bytes each with the code of its word where that is ERR,
or 255 where it is poison (17 R291). -/
inductive StoreVal where
  | bytes (bs : List Byte)
  | err (code : BitVec 8)
  | line (bs : List (Byte × Option (BitVec 8)))
deriving DecidableEq, Repr

/-- The request classes of a reservation (R177). -/
inductive ResKind where
  | store | atomic
deriving DecidableEq, Repr

inductive ReqKind where
  | load
  | ldp
  | store (v : StoreVal)
  | clr
  | atomic (op : AtomicOp) (operand : List Lane)
  | reserve (k : ResKind)
deriving DecidableEq, Repr

/-- One event asked of a home (R157): `len` bytes from home address `addr`, which its issuer knows as address `va` of space `space`. A merged
reduction packet lists further issuers (15 R247). A streamer's `piece` is one more than the tile that it is at work on, or 0. `heard`: its home
has accepted the load and has still to read it (20 R334). -/
structure Req where
  who : Party
  colour : Colour
  piece : Nat
  addr : Nat
  len : Nat
  mode : PageMode
  kind : ReqKind
  issuers : List Party
  noMerge : Bool
  cfg : Nat
  answer : Bool
  space : Space
  va : Nat
  heard : Bool
deriving DecidableEq, Repr

/-- What a home, or another unit, answers. `line` is a read of an engine: each byte with the code of its word where that reads ERR, or 255
where it reads poison (17 R291). -/
inductive AnsVal where
  | bytes (bs : List Byte)
  | err (code : BitVec 8)
  | poison
  | ldp (bits : Lane) (p : Pres)
  | ack
  | granted
  | refused (code : Nat)
  | lanes (ls : List Lane)
  | line (bs : List (Byte × Option (BitVec 8)))
deriving DecidableEq, Repr

structure Ans where
  who : Party
  piece : Nat
  val : AnsVal
deriving DecidableEq, Repr

/-- An entry of a deferral pool (09 R156): its number, the request, and the word it is parked on. -/
structure PoolEntry where
  idx : Nat
  req : Req
  word : Nat
deriving DecidableEq, Repr

/-- A reservation held at a home (10 R177): the words it covers. -/
structure Resv where
  who : Party
  first : Nat
  words : Nat
deriving DecidableEq, Repr

/-! ## Capsules (07) -/

/-- A capsule image (R129 to R131): eight header words, fifteen itinerary entries, the tile's bytes. `hurt` are the tile's 64-bit words that a
soft error has struck beyond correction in a buffer (09 R173). -/
structure Capsule where
  header : List Word
  itin : List Word
  tile : List Byte
  hurt : List Nat
deriving DecidableEq, Repr

/-- A capsule held by an activation: the configuration that counts it as live (R141), and the other parts of a completed join
that it may read (R140). -/
structure Held where
  cap : Capsule
  home : Nat
  joined : Bool
  parts : List Capsule
deriving DecidableEq, Repr

/-- A change to the held capsule (R144), applied at commit. `leave` and `copy` are what a commit leaves to be done once its
stores are acknowledged (R138): a capsule that goes on, or parks under a code, and a fork's copy. -/
inductive CapAct where
  | new (cls : Nat) (note : Bool) (l : Token) (ret : Lane)
  | adopt (handle : Nat)
  | next (i : Nat)
  | push (e : Word)
  | ins (i : Nat) (e : Word)
  | rep (i : Nat) (e : Word)
  | repPlace (i : Nat) (p : Place)
  | del (i : Nat)
  | fork (i : Nat)
  | go
  | park (code : BitVec 8)
  | st (chunk : Nat) (t : Token)
  | leave (h : Held) (code : Option (BitVec 8))
  | copy (h : Held)
deriving DecidableEq, Repr

/-! ## Engine commands and cluster events -/

/-- Where a reply goes (06 R121): a slot and field of wave `wave` of an activation. -/
structure Reply where
  core : Nat
  colour : Colour
  frame : Nat
  uid : Nat
  wave : Nat
  slot : BitVec 5
  field : Field
deriving DecidableEq, Repr

/-- The commands of the X bodies and of the system (13 R223 to R225; 17 R289 to R303; 21 R355; 22 R364 to R375). -/
inductive CmdKind where
  | mxb (b scale fmtM : Lane)
  | mxz
  | mxr (zero : Bool) (target : Lane)
  | mxck (clear : Bool)
  | cpy (src dst : Space) (sa da : Nat) (len : Nat)
  | gath (src dst ix : Space) (sa da ia : Nat) (cnt size : Nat)
  | scat (src dst ix : Space) (sa da ia : Nat) (cnt size : Nat)
  | tfill (src : Space) (sa tile : Nat)
  | tdrain (dst : Space) (da tile : Nat) (keep : Bool)
  | sealo (slots : List (List Lane))
  | sealc (slots : List (List Lane))
  | seals (slots : List (List Lane))
  | coll (eop : Nat) (red ty : Nat) (det : Bool) (slots : List (List Lane))
  | lnkr (slots : List (List Lane))
  | trgen (slots : List (List Lane))
  | collab (clear : Bool) (slots : List (List Lane))
deriving DecidableEq, Repr

/-- A command on its way to, or at, an engine: who issued it, the token whose sequence its completion carries, where the
completion goes. -/
structure Cmd where
  who : Who
  cfg : Nat
  width : Nat
  l : Token
  reply : Option Reply
  kind : CmdKind
deriving DecidableEq, Repr

/-- Events on a tile, sent at commit to the port of its slice site (13 R221, R229, R230), and `twait` (R222). `spdr` carries the
index of the node whose port its stream leaves through; `elem` is a token of a sparse-accumulator element (R231). -/
inductive TileOp where
  | setEmpty
  | setReady (word : Lane)
  | setBind (word : Lane)
  | setFree
  | spacc (float : Bool) (pairs : List Lane)
  | spdr (level : Nat) (l : Token) (net : Net) (port node : Nat)
  | wait (state : BitVec 2)
  | fill (streamer : Nat)
  | drain (streamer : Nat)
  | elem (id : Nat) (t : Token)
deriving DecidableEq, Repr

structure TileEv where
  who : Who
  cluster : Nat
  tile : Nat
  op : TileOp
deriving DecidableEq, Repr

/-- Events at the tag unit (13 R219, R220): a lookup, or an install or invalidation, first as a check that reserves its way,
then at commit. -/
inductive TagOp where
  | look (a : Nat)
  | ins (a way tidx : Nat)
  | inv (set way : Nat)
deriving DecidableEq, Repr

structure TagEv where
  who : Who
  cluster : Nat
  op : TagOp
  commit : Bool
deriving DecidableEq, Repr

/-- A barrier event on entry `idx` of a scope (12 R213, 13 R232), with the token whose sequence and width an answer takes. -/
structure BarEv where
  who : Who
  scope : Nat
  idx : Nat
  op : BarOp
  l : Token
  reply : Option Reply
deriving DecidableEq, Repr

/-- An activation to be created (06 R121). -/
structure Creation where
  core : Nat
  handle : Nat
  entry : BitVec 6
  colour : Colour
  l : Token
  seq : BitVec 16
  reply : Option Reply
deriving DecidableEq, Repr

/-- What a block does at its commit, recorded when the instruction fires (01 R23, R24). `answer` sends a token to a reply
target, `sink` takes one in the error sink, `drop` releases one (15 R257), `errCount` counts one in the error sink. -/
inductive CAct where
  | frame (n : Nat) (t : Token)
  | out (net : Net) (port : Nat) (t : Token)
  | scaled (net : Net) (port : Nat) (s t : Token)
  | send (net : Net) (port : Nat) (place : Place) (desc : Lane) (t : Token)
  | eos (net : Net) (port : Nat) (seq : BitVec 16) (width : Nat)
  | wedge (net : Net) (port : Nat) (seq : BitVec 16) (width : Nat)
  | demand (net : Net) (port : Nat) (chan : Nat) (count : Nat) (seq : BitVec 16)
  | store (sqo : Nat) (kind : ReqKind) (pieces : List (Nat × Nat × PageMode)) (va : Nat) (answer : Bool) (seq : BitVec 16)
  | spawn (c : Creation)
  | ctxa (frame : Nat) (width : Nat) (l : Token)
  | ctxf (frame : Nat) (l : Token) (t0 t1 : Target)
  | cap (a : CapAct)
  | vcset (entry : Nat) (ctl : Lane)
  | sclset (entry : Nat) (ls : List Lane)
  | tag (e : TagOp)
  | tile (tile : Nat) (e : TileOp)
  | spdr (tile : Nat) (level : Nat) (l : Token) (net : Net) (port : Nat)
  | bar (e : BarEv)
  | cmd (c : Cmd)
  | sysw (reg : Nat) (ls : List Lane) (l : Token) (reply : Option Reply)
  | resume (skip : Bool) (rcd : List Lane) (l : Token) (reply : Option Reply)
  | yield (newest : Bool) (seq : BitVec 16) (reply : Option Reply)
  | cntrClear (index : Nat) (l : Token) (reply : Option Reply)
  | fltrClear (key : Nat)
  | answer (r : Reply) (t : Token)
  | sink (t : Token)
  | drop
  | errCount
deriving DecidableEq, Repr

/-! ## Waves and activations (01 R11) -/

/-- A slot of a block window: its fields with their presence, which fields have had a token in this wave (R41), and
whether its instruction has fired or been nullified. -/
structure Slot where
  l : Option Token
  r : Option Token
  p : Option Token
  seenL : Bool
  seenR : Bool
  seenP : Bool
  fired : Bool
deriving DecidableEq, Repr

/-- What an operator that has fired still waits for. -/
inductive PendKind where
  | load (size : Size)
  | ldp
  | link (hops limit : Nat) (wide : Bool)
  | dsb (elemLen scaleVa scaleLen : Nat)
  | store (kind : ReqKind) (sqo : Nat)
  | fltr (clear : Bool) (key : Nat)
  | look
  | tinst (op : TagOp)
  | twait
  | cntr
  | buffer
deriving DecidableEq, Repr

/-- Where an operator's current piece stands: waiting for a translation, at its home, or to be issued next (R157). -/
inductive Stage where
  | walk | home | issue
deriving DecidableEq, Repr

/-- A pending operator: its slot, its operand token, the pieces not yet answered as (address, length) with the first
current, the bytes answered so far, and the bytes of the activation's own uncommitted stores that it reads (R28). -/
structure Pend where
  slot : Nat
  kind : PendKind
  tok : Token
  space : Space
  base : Nat
  pieces : List (Nat × Nat)
  done : List (Nat × Nat × PageMode)
  data : List Byte
  ovl : List (Nat × StoreVal)
  bad : Option Token
  stage : Stage
deriving DecidableEq, Repr

/-- What a wave's exit fixed (06 R119). -/
inductive Exit where
  | block (b : BitVec 6)
  | ret (l : Token)
  | retire
deriving DecidableEq, Repr

/-- A wave (R11): its index in the activation (its number is the index modulo 256), its block, its window, and what it has
done so far. `bound` are the copies kept for re-execution (R25), `run` the times that it has been dropped. -/
structure Wave where
  idx : Nat
  block : BitVec 6
  slots : List Slot
  exit : Option Exit
  exitsNull : Nat
  stores : Nat
  outputs : Nat
  own : BitVec 5
  succ : BitVec 5
  memDone : Nat
  acts : List (Nat × CAct)
  bound : List (Nat × Field × Token)
  chans : List Nat
  framed : Bool
  pend : List Pend
  outside : Bool
  fault : Bool
  skip : Option Nat
  order : Nat
  buffer : Bool
  run : Nat
deriving DecidableEq, Repr

inductive ActKind where
  | default | explicit | capsule
deriving DecidableEq, Repr

/-- What the wave after the last allocated one runs (R13). -/
inductive NextBlock where
  | block (b : BitVec 6)
  | unknown
  | ended
deriving DecidableEq, Repr

/-- An enrolment at a barrier entry (13 R232). -/
structure Enrolment where
  scope : Nat
  idx : Nat
deriving DecidableEq, Repr

/-- An activation (R11). `answers` are its committed atomics not yet answered, by wave and slot, with their reply targets and
sequences (10 R185); `owed` counts the replies still to come into a wave (R121); `tagged` are the tokens that wait for a
window to which they are addressed, with its wave index; `after` what its commits have still to do once their stores are
acknowledged, for which an activation that has ended (`ending`) waits. -/
structure Activation where
  colour : Colour
  frame : Nat
  uid : Nat
  width : Nat
  node : Nat
  cfg : Nat
  kind : ActKind
  slots : Tab Token
  seq : BitVec 16
  reply : Option Reply
  next : NextBlock
  count : Nat
  waves : List Wave
  unacked : Nat
  answers : List (Nat × Nat × Option Reply × BitVec 16)
  cmdsOut : Tab Nat
  fault : Option Nat
  held : Option Held
  after : List (Nat × CAct)
  enrol : List Enrolment
  owed : Tab Nat
  tagged : List (Option Nat × Token)
  spilled : Bool
  ending : Bool
deriving DecidableEq, Repr

/-! ## Nodes and cores (09 R151) -/

/-- An input channel of a node for one colour (01 R29, R30; 03 R74; 15 R244). -/
structure ChanState where
  closed : Bool
  wedged : Bool
  hold : Option Token
  queue : List Token
  arrived : Nat
  held : List (Token × Nat)
deriving DecidableEq, Repr

/-- An output port of a node for one colour (R29, R124, R264): EOS sent, credit, tokens sent on its dynamic edge, and the
outputs held behind the stream of an `spdr` (13 R230), each with whether it takes a credit as it leaves. -/
structure PortState where
  eosSent : Bool
  credit : Nat
  sent : Nat
  backlog : List (Bool × CAct)
deriving DecidableEq, Repr

/-- A resident node: its record, its blocks by index, its channels by (channel, colour), its ports by (network, port,
colour), the colours whose default activation has been opened and has ended, and those whose EOS it has sent. `hurt` are the words
of its code that a soft error has struck, by (block, slot), the header as slot 32, each with whether it cannot be corrected (02
R59). -/
structure NodeState where
  cfg : Nat
  info : NodeRec
  blocks : Tab Block
  chans : Tab ChanState
  ports : Tab PortState
  opened : BitVec 256
  ended : BitVec 256
  eosDone : BitVec 256
  wedges : List Colour
  frozen : Bool
  admitting : Bool
  hurt : List (Nat × Nat × Bool)
deriving DecidableEq, Repr

/-- A virtual-channel table entry (09 R165, 10 R189). -/
structure VcEntry where
  ctl : BitVec 32
  scale : BitVec 128
  locked : Bool
deriving DecidableEq, Repr

/-- A request for a capsule buffer (07 R134). -/
inductive BufReq where
  | land (h : Held)
  | fire (frame uid wave slot : Nat) (colour : Colour)
  | resume (frame uid : Nat) (colour : Colour)
deriving DecidableEq, Repr

/-- A spilled token with its ordering key, or an answer to a load (09 R163). -/
inductive Spilled where
  | chan (node chan : Nat) (t : Token) (ahead : Option Nat)
  | tag (t : Token)
  | reply (r : Reply) (t : Token)
  | sent (desc : Lane) (t : Token)
  | answer (w : Who) (piece : Nat) (v : AnsVal)
deriving DecidableEq, Repr

/-- A translation held in a cache (15 R261): colour, first 64 KiB page, pages covered, the leaf. -/
structure Trans where
  colour : Colour
  page : Nat
  pages : Nat
  leaf : BitVec 64
deriving DecidableEq, Repr

/-- An event that a commit sends: a store-class one, which with `after` goes only once the one before it has been acknowledged
(09 R157), or one of the cluster (13 R218). -/
inductive OutEvent where
  | req (after : Bool) (r : Req)
  | tag (e : TagEv)
  | tile (e : TileEv)
  | bar (e : BarEv)
  | cmd (island : Nat) (c : Cmd)
deriving DecidableEq, Repr

/-- The events that an activation's commits have still to send, in order (10 R177, 13 R218); `waiting` records that the first waits for
an acknowledgement. -/
structure OutQueue where
  waiting : Bool
  events : List OutEvent
deriving DecidableEq, Repr

/-- A core (09 R151). `arrived` are the capsules in its input queues that land once their configuration is restored (07 R147). -/
structure CoreState where
  nodes : Tab NodeState
  acts : Tab Activation
  nextUid : Nat
  nextOrder : Nat
  vc : Tab VcEntry
  region : BitVec 16
  buffers : List (Nat × Colour)
  bufReqs : List BufReq
  arrived : List Held
  occupants : List Colour
  waiting : List Colour
  evicted : List Colour
  rrVector : BitVec 8
  rrMemory : BitVec 8
  spill : List Spilled
  creations : List Creation
  tlb : List Trans
  outs : Tab OutQueue
deriving DecidableEq, Repr

/-! ## Homes, clusters and dies -/

/-- A barrier entry (12 R212) with its waiters and the units enrolled (R213): unit = (core, frame, uid). `marks` are the
units that have arrived in this generation, `again` the further arrivals held, `last` the generation of each unit's last arrival
(13 R232), `broke` the units whose last arrival's generation broke. A unit of another package has its core numbered from 2^20 times one more than the package's ID (22 R376). -/
structure BarState where
  st : BitVec 2
  colour : Colour
  exp : Nat
  enr : Nat
  pnd : Nat
  arr : Nat
  gen : BitVec 6
  units : List (Nat × Nat × Nat)
  marks : List (Nat × Nat × Nat)
  again : List BarEv
  waiters : List BarEv
  last : List ((Nat × Nat × Nat) × BitVec 6)
  broke : List (Nat × Nat × Nat)
deriving DecidableEq, Repr

/-- What a slice port holds (12 R199): a memory request, with the tile that holds it (none where it waits only behind an
earlier one of its issuer), or a tile event. -/
inductive PortHeld where
  | req (r : Req) (tile : Option Nat)
  | tile (e : TileEv)
deriving DecidableEq, Repr

/-- A reservation of a way at the tag unit (13 R220): set, way, who, and the colour and line that an install will tag. -/
structure TagResv where
  set : Nat
  way : Nat
  who : Who
  line : Option (Colour × Nat)
deriving DecidableEq, Repr

/-- A cluster (12 R195): tag and tile tables (`copies` are COL, LEN and BASE as the tag unit holds them, R197), held accesses
of each slice port in arrival order, region masks of the slice sites, multicast groups, the cluster's translation and place
caches, its clock's stretch (19 R325), and the tag entries that a soft error has struck, each with whether it cannot be corrected
(R215). -/
structure ClusterState where
  tags : Tab (BitVec 64)
  resv : List TagResv
  tiles : Tab (BitVec 32)
  copies : Tab (BitVec 32)
  held : List (Nat × PortHeld)
  masks : Tab (BitVec 64)
  groups : Tab (BitVec 128)
  tlb : List Trans
  places : List (Nat × Nat × Lane)
  stretched : Bool
  tagHurt : List (Nat × Bool)
deriving DecidableEq, Repr

/-- The value of a number's pattern (03 R64): `fin neg m e` is (-1)^neg × m × 2^e; a zero keeps its sign. -/
inductive FVal where
  | nan
  | inf (neg : Bool)
  | fin (neg : Bool) (m : Nat) (e : Int)
deriving DecidableEq, Repr

/-- A sum S_g of a matrix island (03 R81): exact, or invalid under a code. -/
inductive GroupSum where
  | exact (v : FVal)
  | bad (code : BitVec 8)
deriving DecidableEq, Repr

/-- An A row whose row group is not complete (12 R205): its accumulator row, its sums S_g by group and column, and those that its
checks give. -/
structure SumRow where
  row : Nat
  sums : List (List GroupSum)
  checks : List (List GroupSum)
deriving DecidableEq, Repr

/-- What has reached a matrix island (13 R223): a token on a channel, or a command. -/
inductive IslandIn where
  | beat (chan : Nat) (t : Token)
  | cmd (c : Cmd)
deriving DecidableEq, Repr

/-- A matrix island (12 R202 to R205, 13 R223 to R225): B as `mxb` read it, `acc` the accumulator elements by row (+0 where
unlisted; in a float row an element that holds a NaN pattern is invalid, its low byte the code), `rowErr` the rows marked by an
error beat, or by a poison beat (255), `poison` the accumulator rows marked by a check (R205), `group` the rows of the row group that
is not complete, `beats` what has been taken of the next row on each channel with its scale token, `inbox` what has reached the
island and is not taken, in arrival order, `eosSent` the colours whose EOS has left. `waiting`: the line of B whose read waits at its home, `got` the lines that have been answered so;
`stuck`: the oldest command is frozen by a fault. -/
structure IslandState where
  cfg : Nat
  node : Nat × Nat
  out : List Dest
  latency : Nat
  fmt : BitVec 5
  owner : Option Colour
  bFmt : BitVec 5
  bBytes : List Byte
  bScale : List Byte
  m : Nat
  rowCount : Nat
  acc : Tab (List Lane)
  rowErr : Tab (BitVec 8)
  poison : BitVec 64
  group : List SumRow
  beats : List (Nat × Option Token × Token)
  held : Tab Token
  eos : List (Nat × Colour)
  wedges : List (Nat × Colour)
  inbox : List IslandIn
  missed : Nat
  corrected : Nat
  eosSent : List Colour
  waiting : Option Nat
  got : List (Nat × AnsVal)
  stuck : Bool
  frozen : Bool
deriving DecidableEq, Repr

/-- Where a streamer command stands (17 R291 to R293): its issuer's cluster; how much of it is read and written (bytes, or
elements); the index array read so far; the bytes read and not yet written, each with its word's code where that read ERR, or
255 where poison; the words that did; the lines of its tile; whether its tile event has been sent and performed, whether an access
waits at its home, what the home has answered to it, whether its last write is done, and whether its tile has moved on (R198). -/
structure StreamCmd where
  id : Nat
  cmd : Cmd
  cluster : Nat
  vdev : Nat
  reads : Nat
  wrote : Nat
  idx : List Byte
  buf : List (Byte × Option (BitVec 8))
  badWords : Nat
  extent : Nat
  asked : Bool
  started : Bool
  waiting : Bool
  got : Option AnsVal
  written : Bool
  frozen : Bool
  tileDone : Bool
deriving DecidableEq, Repr

/-- A special element (12 R207) with its buffers: per input the tokens waiting, the colours whose EOS or wedge it has seen, the colours
whose wedge it has sent, the copies that a voter has marked out, and the sequences that it has decided, each with 1 where it ended in poison and with the copies seen so far (19 R323). -/
structure ElemState where
  cfg : Nat
  rcd : ElemRec
  queue : List (Nat × Token)
  eos : List (Nat × Colour)
  eosDone : List Colour
  wedges : List (Nat × Colour)
  wedgeSent : List Colour
  frozen : Bool
  marked : List (Nat × Colour)
  voted : List (Nat × Colour × Token × List Nat)
deriving DecidableEq, Repr

/-- A walk (15 R261): the die whose walker has it, colour, 64 KiB page, the waiting operators in arrival order. -/
structure Walk where
  die : Nat
  colour : Colour
  page : Nat
  waiters : List Who
deriving DecidableEq, Repr

/-! ## Messages in flight (15 R244) -/

/-- What a packet carries. `reject` is a slab's rejection, on its way to the hoist (R254), `cntrRead` a read on its way to the
counter home (17 R302). `tok` is a token on an edge; EOS and wedge on a dynamic edge carry the count of tokens sent
before them (R244). -/
inductive Body where
  | tok (d : Dest) (t : Token) (ahead : Option Nat)
  | tag (core : Nat) (t : Token)
  | reply (r : Reply) (t : Token)
  | sent (core : Nat) (desc : Lane) (t : Token)
  | req (r : Req)
  | ans (a : Ans)
  | spawn (c : Creation)
  | capsule (core : Nat) (cfg : Nat) (c : Capsule)
  | demand (core node : Nat) (port : Nat) (colour : Colour) (count : Nat)
  | demandEntry (cfg port : Nat) (colour : Colour) (count : Nat)
  | tile (e : TileEv)
  | tagEv (e : TagEv)
  | bar (e : BarEv)
  | islandCmd (id : Nat) (c : Cmd)
  | reinject (cfg port : Nat) (colour : Colour) (seq : BitVec 16)
  | reject (cfg core block slot : Nat)
  | cntrRead (who : Who) (i : Nat)
deriving DecidableEq, Repr

/-- The four classes (R244). -/
inductive Cls where
  | q0 | q1 | q2 | q3 | st
deriving DecidableEq, Repr

/-- A beat on the tracks of the static network (15 R241 to R243): its number, which the copies of one beat share, the segment at whose
end it lies (none before its first), and the segments ahead. A segment is 28 times the site whose switch box drives it, plus 7d + t, with the
site at which it ends. -/
structure Trip where
  beat : Nat
  lies : Option (Nat × Nat)
  ahead : List (Nat × Nat)
deriving DecidableEq, Repr

/-- A packet or beat in flight: two of one source, destination and class arrive in the order of this list (R243, R244). -/
structure Msg where
  src : Nat
  dst : Nat
  cls : Cls
  body : Body
  trip : Option Trip
deriving DecidableEq, Repr

/-! ## Configurations (15 R251 to R257, 16 R277) -/

inductive CfgPhase where
  | bidding | loading | resident | gating | wedging | settling | saving | saved | restoring | restored
deriving DecidableEq, Repr

/-- A seed that an entry port keeps (19 R322): sequence, token, times re-injected. -/
structure KeptSeed where
  seq : BitVec 16
  tok : Token
  again : Nat
deriving DecidableEq, Repr

/-- An entry port for one colour (15 R256, R257). -/
structure EntryColour where
  count : Nat
  nextSeq : BitVec 16
  credit : Nat
  eos : Bool
  kept : List KeptSeed
  reinject : List KeptSeed
  sent : Nat
deriving DecidableEq, Repr

structure EntryState where
  rcd : EntryRec
  colours : Tab EntryColour
  gated : Bool
deriving DecidableEq, Repr

/-- An exit port: the colours whose EOS has left, and the tokens that have left (the model's own record of them). -/
structure ExitState where
  rcd : ExitRec
  eos : List Colour
  left : List Token
deriving DecidableEq, Repr

/-- A park (07 R146), which may wait for its colour's spoil quota; `buffer` names the activation on its site whose buffer it
frees. -/
structure ParkWait where
  site : Nat
  buffer : Option Nat
  cfg : Nat
  cap : Capsule
  code : Nat
  detail : Nat
deriving DecidableEq, Repr

/-- What a save holds (16 R277, R278): the rectangle that it was taken from; the cores by site; the bytes and the words not FULL of
its banks and slices, by home address, with what soft errors have struck there and the slices' region masks; the withdrawn loads and reservations, the port accesses,
barrier waits and way reservations; its tiles (cluster, index, entry, the tag unit's copy), tags (cluster, index, entry, with the struck ones
in `tagHurt`) and barrier entries; its
elements, islands, frozen streamer commands, and the beats and buffered tokens on its edges. `stamp` names the bytes that its area has been given
and the seal key under which its sessions' states stand in them (19 R321); colour 0's queues have no area. -/
structure Save where
  oc : Nat
  ot : Nat
  bottom : Bool
  cores : Tab CoreState
  mem : List (Nat × Byte)
  pres : List (Nat × Pres)
  damage : List (Nat × Bool)
  masks : List (Nat × BitVec 64)
  withdrawn : List Req
  resvs : List Resv
  held : List (Nat × Nat × PortHeld)
  waits : List BarEv
  ways : List (Nat × TagResv)
  tiles : List (Nat × Nat × BitVec 32 × BitVec 32)
  tags : List (Nat × Nat × BitVec 64)
  tagHurt : List (Nat × Nat × Bool)
  bars : List (Nat × BarState)
  sharedBars : List (Nat × BarState)
  parks : List ParkWait
  elems : List (Nat × ElemState)
  islands : List (Nat × IslandState)
  streams : List StreamCmd
  beats : List Msg
  stamp : Option (Nat × Nat)
deriving DecidableEq, Repr

/-- A configuration (15 R251 to R257): its place, its ports, its classes (R133), its live capsules (07 R141), its round; whether
its `pk.cfg` has still to end, the queue that tears it down and by force or not, and whether a compaction moves it (16 R275), and the order
of its admission (R274). -/
structure ConfState where
  vdev : Nat
  queue : Nat
  w : Nat
  h : Nat
  oc : Nat
  ot : Nat
  bottom : Bool
  phase : CfgPhase
  launched : Bool
  det : Bool
  per : Nat
  nent : Nat
  nexit : Nat
  ncls : Nat
  imageVa : Nat
  imageLen : Nat
  slabs : List Nat
  image : List (Nat × List Rec)
  entries : List EntryState
  exits : List ExitState
  classes : Tab (Nat × List Word)
  switches : Tab (List Byte)
  done : List Nat
  live : Tab Nat
  entered : List Colour
  meas : List Byte
  pri : Nat
  age : Nat
  bypass : Nat
  yields : List (Reply × BitVec 16)
  save : Option Save
  waitsCfg : Bool
  tearer : Option (Nat × Bool)
  moving : Bool
  moves : List (Nat × Nat)
  admitted : Nat
deriving DecidableEq, Repr

/-! ## Queues (16 R269, R270) -/

/-- The words of a queue descriptor (R269). -/
structure QDesc where
  col : Colour
  vdev : Nat
  die : Nat
  ptr : Nat
  pri : Nat
  st : Nat
  ibd : Nat
  ibret : List Nat
  lpcnt : Nat
  lpadr : Nat
deriving DecidableEq, Repr

/-- A queue that a hoist holds: WAITING in its order or MAPPED in a slot (16 R270, R271). `age` orders its entering WAITING,
`rounds` counts complete rounds spent WAITING, `held` rounds spent MAPPED; `segEnd` is the virtual address after the current
segment, or 0 (19 R316); `fetched` the words fetched ahead (02 R62). Of its current packet: `progress` the seeds entered (21
R351), `parked` that its deferred read waits at its home and `answer` what that read gave, `polled` the round of its last read
(R349). -/
structure QState where
  desc : QDesc
  pri : Nat
  slot : Nat
  served : Bool
  mapped : Bool
  frozen : Bool
  blocked : Bool
  age : Nat
  rounds : Nat
  held : Nat
  selected : Bool
  segEnd : Nat
  fetched : List (Nat × Lane)
  progress : Nat
  parked : Bool
  answer : Option AnsVal
  polled : Option Nat
  passOver : Option (Nat × Nat)
deriving DecidableEq, Repr

/-! ## Seal engines (19 R317 to R321) -/

inductive SealPhase where
  | opened | ended | frozen
deriving DecidableEq, Repr

/-- A session (R317 to R320): the bytes hashed so far, its counts, its record address, how it ended, the measurement of its configuration at that
moment, the lines of its signature already written, and the commands that its record's write answers (R355). -/
structure Session where
  engine : Nat
  index : Nat
  gen : Nat
  cfg : Nat
  elem : Nat
  colour : Colour
  slot : Nat
  sha3 : Bool
  va : Nat
  sid : Lane
  input : List Byte
  count : Nat
  first : BitVec 16
  last : BitVec 16
  faulted : Bool
  status : Nat
  cause : Nat
  phase : SealPhase
  meas : List Byte
  wrote : List Nat
  asks : List Cmd
  who : Who
  seq : BitVec 16
deriving DecidableEq, Repr

/-! ## Fabric (22) -/

/-- A collective at this package (22 R363 to R372). Of its current start: `started` that its checks have passed, `reports` the marks that children
have reported, `reported` that its own report has gone up, `dealt` that the marks have been exchanged, `deal` its (chunk, tree) pairs, `sent` the
chunks whose input has gone up, `wrote` those whose result has been written, `partials` what children have sent, `acks` the acknowledged (chunk,
package) pairs at the root. Of the collective: `tried` that a start has passed, `begun` that chunks have been dealt, `full` the chunks whose MARK
is known FULL here with its value, `marks` those that the engine has written, `status` once an outcome other than its last mark has ended it,
`waiting` that a read waits at its home. -/
structure Coll where
  id : Nat
  cmd : Cmd
  vdev : Nat
  tag : Lane
  admitted : Bool
  started : Bool
  reported : Bool
  dealt : Bool
  tried : Bool
  begun : Bool
  frozen : Bool
  finished : Bool
  waiting : Bool
  gen : Nat
  group : List Nat
  chunks : Nat
  reports : List (Nat × MarkReport)
  full : List (Nat × BitVec 32)
  marks : List Nat
  deal : List (Nat × Nat)
  sent : List Nat
  wrote : List Nat
  partials : List (Nat × Nat × List (List (Option Lane)))
  acks : List (Nat × Nat)
  redone : Nat
  lost : Nat
  status : Option Nat
deriving DecidableEq, Repr

/-- A message to other packages, as it leaves the package (22 R360, R368, R372, R376). -/
inductive FabMsg where
  | flood (c : LltCopy)
  | ack (gen : Nat) (digest : List Byte)
  | marks (k : CollMsg) (report : MarkReport)
  | up (k : CollMsg) (data : List (List (Option Lane)))
  | down (k : CollMsg) (data : List (Option Lane))
  | dstAck (k : CollMsg) (pkg : BitVec 12)
  | commit (k : CollMsg)
  | abort (colour : Colour) (tag : Lane) (group : List Nat)
  | bar (e : FbMsg)
deriving DecidableEq, Repr

/-- A message of a collective that reaches this package (22 R368, R369, R372). -/
inductive CollIn where
  | marks (k : CollMsg) (report : MarkReport)
  | up (k : CollMsg) (pkg : BitVec 12) (data : List (List (Option Lane)))
  | down (k : CollMsg) (row : List (Option Lane))
  | dstAck (k : CollMsg) (pkg : BitVec 12)
  | commit (k : CollMsg)
  | abort (colour : Colour) (tag : Lane)
deriving DecidableEq, Repr

/-- The fabric (22): the package's ID, its local entries, its generation, the copies it holds, the last agreed table with its
generation, the acknowledgements received, the collectives, the messages that wait for theirs in the spoil (R363), what children have
sent and participants have acknowledged for chunks that this package only relays, the packages whose barrier figures have come, the package's own
barrier events that the root has not taken, the barrier messages that wait for a generation or for figures (R376), what has left, and
whether the package has left the fabric over a seam (R361). -/
structure FabricState where
  pkg : BitVec 12
  entries : Tab (BitVec 32)
  gen : Nat
  copies : Tab LltCopy
  agreed : Option (Nat × Tab LltCopy)
  acks : Tab (Nat × List Byte)
  colls : List Coll
  nextColl : Nat
  rrColl : Nat
  early : List CollIn
  relay : List (CollMsg × Nat × List (List (Option Lane)))
  relayMarks : List (CollMsg × Nat × MarkReport)
  relayAcks : List (CollMsg × Nat)
  figures : List Nat
  fbPending : List BarEv
  fbHeld : List FbMsg
  out : List FabMsg
  away : Bool
deriving DecidableEq, Repr

/-! ## The package -/

/-- The management page (19 R327) and BOOT (R330). -/
structure MgmtState where
  phase : BitVec 2
  warm : Bool
  meas : BitVec 384
  vdsel : BitVec 5
  vdcmd : BitVec 2
  vdent : List (BitVec 64)
  qtab : Nat
  c0root : Nat
  c0farea : Nat
  c0nrec : Nat
  c0spoil : BitVec 64
  c0ptab : Nat
  boot : Nat
deriving DecidableEq, Repr

/-- A parked capsule in the spoil (07 R146): its handle, colour and image, and the configuration whose count it is in, until that is torn
down (R141). -/
structure Parked where
  handle : Nat
  colour : Colour
  cfg : Option Nat
  cap : Capsule
deriving DecidableEq, Repr

/-- A part that waits at a join entry (07 R140), by (colour, GRP, place). -/
structure JoinPart where
  colour : Colour
  grp : Nat
  place : Nat
  cfg : Nat
  cap : Capsule
deriving DecidableEq, Repr

/-- The tables and units of the package. `copies` are the payloads that fault records name by their handles (16 R281).
`damage` are the memory words (home address / 4) that a soft error has struck, each with whether it cannot be corrected (09 R173, 19
R324). `savedBanks` are the save areas that hold a released counter bank (16 R268); `hostOut` and
`hostAnswers` are the messages and the answers that the host has had, none for an error completion (21 R352, 19 R313). -/
structure PkgState where
  vdevs : Tab (BitVec 256)
  colours : Tab (BitVec 256)
  counters : Tab (BitVec 64)
  savedBanks : List Nat
  faultNum : Tab Nat
  spoilUse : Tab Nat
  gated : List Colour
  confs : Tab ConfState
  queues : Tab QState
  hoistRound : Tab Nat
  nextAge : Nat
  bids : List Nat
  walks : List Walk
  pools : Tab (List PoolEntry)
  resvs : List Resv
  refused : List (Nat × PortHeld)
  islands : Tab IslandState
  streams : List StreamCmd
  nextStream : Nat
  rrStream : Tab Nat
  elems : List (Nat × ElemState)
  bars : Tab BarState
  parked : List Parked
  copies : List (Nat × Token)
  damage : List (Nat × Bool)
  beats : Nat
  nextHandle : Nat
  parkWaits : List ParkWait
  joins : List JoinPart
  sessions : List Session
  gens : Tab Nat
  sealKey : Nat
  mgmt : MgmtState
  errc : Tab (BitVec 64)
  cxlDown : List Nat
  seams : List Nat
  clockSteps : Nat
  throttled : List Nat
  stopped : List Nat
  hostOut : List (Nat × BitVec 8 × List Lane)
  hostReady : Bool
  hostAnswers : List (Option (List Byte))
  sysPending : List (Nat × List Lane × Token × Option Reply × Colour)
deriving DecidableEq, Repr

/-! ## The machine -/

/-- The indices by which an event names those inside the part that it happens to. -/
structure At where
  core : Nat
  node : Nat
  frame : Nat
  colour : Nat
  k : Nat
  j : Nat
  id : Nat
  cfg : Nat
  die : Nat
  queue : Nat
  cluster : Nat
  tile : Nat
  chunk : Nat
  port : Nat
  seam : Nat
deriving DecidableEq, Repr

/-- What comes from outside the part and no row of the table names: soft errors, each with whether it cannot be corrected, in a
memory word (home address / 4; a CXL device's poison is one), in a word of a node's code (slot 32 the header), in an operand, a frame
slot, a 64-bit word of the tile in a capsule buffer, a token that waits for its window, a queued token (none: the held scale token) or a tag entry, in an accumulator row, and a disturbed sum of the row group at work
(02 R59, 09 R173, 12 R205, R215, 19 R312, R324); the host's write of its own memory, and its reading of the management page (19 R313,
R314). -/
inductive Outside where
  | word (w : Nat) (unc : Bool)
  | code (core node block slot : Nat) (unc : Bool)
  | operand (core frame wave slot : Nat) (f : Field) (unc : Bool)
  | frameSlot (core frame n : Nat) (unc : Bool)
  | buffer (core frame word : Nat) (unc : Bool)
  | waiting (core frame k : Nat) (unc : Bool)
  | queued (core node chan : Nat) (c : Colour) (k : Option Nat) (unc : Bool)
  | tag (cluster entry : Nat) (unc : Bool)
  | accum (island row : Nat) (unc : Bool)
  | sum (island k g n : Nat) (v : FVal)
  | hostOwn (h : Nat) (bs : List Byte)
  | page (off n : Nat)
deriving DecidableEq, Repr

/-- What moves next (log 1): an event with its indices, a core's issue of one instruction of a class (09 R166), a queue's next packet
(21 R345), or what comes from outside. -/
inductive Item where
  | outside (x : Outside)
  | event (i : Instr) (at_ : At)
  | issue (core : Nat) (memory : Bool)
  | packet (queue : Nat)
  | fetch (queue : Nat)
deriving DecidableEq, Repr

/-- The slot that an instruction fires in: core, frame, wave index, slot (log 2). -/
structure Cur where
  core : Nat
  frame : Nat
  wave : Nat
  slot : Nat
  queue : Nat
deriving DecidableEq, Repr

/-- Everything but memory and presence. -/
structure Machine where
  agenda : List Item
  at_ : At
  cur : Cur
  free : Nat
  net : List Msg
  cores : Tab CoreState
  clusters : Tab ClusterState
  pkg : PkgState
  fab : FabricState
deriving DecidableEq, Repr

/-- The state of the package. `pres` lists the words (home address / 4) that are not FULL, in rising order. -/
structure State where
  mem : Memory
  pres : Tab Pres
  m : Machine
deriving DecidableEq, Repr

/-! ## Stops -/

/-- Why the machine stops. A fault of the spec (00 R5) is no stop: it is a next state with its record written. -/
inductive Fault where
  /-- Raised by step where the agenda names as an event an instruction or a packet: those run only through a fetch. Safe: it
  is the model's own item, which no unit of the part makes (log 1). -/
  | notAnEvent
deriving DecidableEq, Repr

/-- Why an instruction has no meaning. -/
inductive Refusal where
  /-- Raised by exec for an instruction that is not modelled, by its mnemonic. Safe: nothing is claimed of it. -/
  | notModelled (mnemonic : String)
deriving DecidableEq, Repr

/-! ## Reset -/

def At.zero : At := ⟨0, 0, 0, 0, 0, 0, 0, 0, 0, 0, 0, 0, 0, 0, 0⟩

def Cur.zero : Cur := ⟨0, 0, 0, 0, 0⟩

/-- The management page after reset (19 R327): PHASE starting, every register zero; MEAS and BOOT by log 7. -/
def MgmtState.reset : MgmtState := ⟨0, false, 0, 0, 0, [0, 0, 0, 0], 0, 0, 0, 0, 0, 0, 0⟩

/-- The package's tables after reset: none remain, caches cleared (19 R326); colour 0's tables are on the page. -/
def PkgState.reset : PkgState where
  vdevs := []
  colours := []
  counters := []
  savedBanks := []
  faultNum := []
  spoilUse := []
  gated := []
  confs := []
  queues := []
  hoistRound := []
  nextAge := 0
  bids := []
  walks := []
  pools := []
  resvs := []
  refused := []
  islands := []
  streams := []
  nextStream := 0
  rrStream := []
  elems := []
  bars := []
  parked := []
  copies := []
  damage := []
  beats := 0
  nextHandle := 1
  parkWaits := []
  joins := []
  sessions := []
  gens := []
  sealKey := 0
  mgmt := MgmtState.reset
  errc := []
  cxlDown := []
  seams := []
  clockSteps := 0
  throttled := []
  stopped := []
  hostOut := []
  hostReady := true
  hostAnswers := []
  sysPending := []

/-- The fabric's state after reset: every local entry down (22 R358). -/
def FabricState.reset : FabricState := ⟨0, [], 0, [], none, [], [], 0, 0, [], [], [], [], [], [], [], [], false⟩

def Machine.reset : Machine where
  agenda := []
  at_ := At.zero
  cur := Cur.zero
  free := 0
  net := []
  cores := []
  clusters := []
  pkg := PkgState.reset
  fab := FabricState.reset

/-- The machine right after reset (19 R326): no configuration, every word FULL, memory with nothing listed. -/
def State.reset : State := ⟨[], [], Machine.reset⟩

end Sys2Proof.Machine
end

