-- ==== Sys2Proof/Machine/Float.lean ====
section
/-! DEFINITION. Floating-point formats, values and rounding (spec 03 R64 to R67, R76, R78, R83). Every value is exact: a
sign, a magnitude that is a fraction of natural numbers, and one rounding at the end. -/

namespace Sys2Proof.Machine

/-! ## Codes of error tokens (R67) -/

abbrev ErrCode := BitVec 8

def errArithInv : ErrCode := 0x01
def errArithDiv0 : ErrCode := 0x02
def errOverflow : ErrCode := 0x03
def errNanIn : ErrCode := 0x04
def errScaleRes : ErrCode := 0x05
def errUnpaired : ErrCode := 0x06
def errWidth : ErrCode := 0x07
def errStopMix : ErrCode := 0x08
def errBarBroken : ErrCode := 0x09

/-! ## Formats (R64) -/

/-- What the patterns of the greatest exponent stand for. -/
inductive Specials where
  | ieee   -- infinity, and NaN patterns
  | e4m3   -- one NaN pattern per sign, no infinity
  | none   -- every pattern is finite
deriving DecidableEq, Repr

/-- A row of the table of R64. -/
structure FFmt where
  ebits : Nat
  fbits : Nat
  bias : Nat
  special : Specials
deriving DecidableEq, Repr

def FFmt.f32 : FFmt := ⟨8, 23, 127, .ieee⟩
def FFmt.f16 : FFmt := ⟨5, 10, 15, .ieee⟩
def FFmt.bf16 : FFmt := ⟨8, 7, 127, .ieee⟩
def FFmt.e4m3 : FFmt := ⟨4, 3, 7, .e4m3⟩
def FFmt.e5m2 : FFmt := ⟨5, 2, 15, .ieee⟩
def FFmt.e2m3 : FFmt := ⟨2, 3, 1, .none⟩
def FFmt.e3m2 : FFmt := ⟨3, 2, 3, .none⟩
def FFmt.e2m1 : FFmt := ⟨2, 1, 1, .none⟩

/-- The number of bits of an element. -/
def FFmt.bits (f : FFmt) : Nat := 1 + f.ebits + f.fbits

/-- The exponent of the least normal number. -/
def FFmt.emin (f : FFmt) : Int := 1 - (f.bias : Int)

/-- The pattern of the largest finite magnitude. -/
def FFmt.maxFinite (f : FFmt) : Nat :=
  match f.special with
  | .ieee => (2 ^ f.ebits - 1) * 2 ^ f.fbits - 1
  | .e4m3 => 2 ^ (f.ebits + f.fbits) - 2
  | .none => 2 ^ (f.ebits + f.fbits) - 1

def FFmt.hasInf (f : FFmt) : Bool := f.special = .ieee

/-- The pattern of an infinity. -/
def FFmt.infPat (f : FFmt) : Nat := (2 ^ f.ebits - 1) * 2 ^ f.fbits

/-- A pattern with its sign bit. -/
def FFmt.signed (f : FFmt) (neg : Bool) (pat : Nat) : Nat := pat + (if neg then 2 ^ (f.ebits + f.fbits) else 0)

/-! ## Values -/

/-- The value of an element's pattern (R64, R65). -/
def FFmt.decode (f : FFmt) (x : Nat) : FVal :=
  let frac := x % 2 ^ f.fbits
  let ex := x / 2 ^ f.fbits % 2 ^ f.ebits
  let neg := x / 2 ^ (f.ebits + f.fbits) % 2 == 1
  let top := 2 ^ f.ebits - 1
  let special : Option FVal :=
    match f.special with
    | .ieee => if ex = top then some (if frac = 0 then .inf neg else .nan) else none
    | .e4m3 => if ex = top && frac == 2 ^ f.fbits - 1 then some .nan else none
    | .none => none
  match special with
  | some v => v
  | none =>
    if ex = 0 then .fin neg frac (f.emin - f.fbits)
    else .fin neg (2 ^ f.fbits + frac) (f.emin + ex - 1 - f.fbits)

def FVal.isNan : FVal → Bool
  | .nan => true
  | _ => false

def FVal.neg : FVal → FVal
  | .nan => .nan
  | .inf n => .inf (!n)
  | .fin n m e => .fin (!n) m e

def FVal.signBit : FVal → Bool
  | .nan => false
  | .inf n => n
  | .fin n _ _ => n

def FVal.isZero : FVal → Bool
  | .fin _ 0 _ => true
  | _ => false

/-- A finite value as a signed integer at the scale 2^s, for s at most its exponent. -/
def FVal.atScale (s : Int) : FVal → Int
  | .fin neg m e =>
    let z : Int := (m * 2 ^ (e - s).toNat : Nat)
    if neg then -z else z
  | _ => 0

def FVal.exp : FVal → Int
  | .fin _ _ e => e
  | _ => 0

/-- The order of R45 and R112 on numbers: −0 equals +0, infinities at the ends. -/
def FVal.lt (a b : FVal) : Bool :=
  match a, b with
  | .inf true, .inf true => false
  | .inf true, _ => true
  | _, .inf true => false
  | .inf false, _ => false
  | _, .inf false => true
  | a, b =>
    let s := min a.exp b.exp
    a.atScale s < b.atScale s

/-! ## Rounding (R76) -/

inductive Rnd where
  | rne | rna | rtz | rdn | rup | rto
deriving DecidableEq, Repr

def Rnd.ofCode : Nat → Rnd
  | 1 => .rna
  | 2 => .rtz
  | 3 => .rdn
  | 4 => .rup
  | 5 => .rto
  | _ => .rne

/-- The quotient n / d of a magnitude of the given sign, rounded to an integer (R76). -/
def Rnd.quot (r : Rnd) (neg : Bool) (n d : Nat) : Nat :=
  let q := n / d
  let m := n % d
  if m = 0 then q
  else
    match r with
    | .rne => if 2 * m < d then q else if d < 2 * m then q + 1 else q + q % 2
    | .rna => if 2 * m < d then q else q + 1
    | .rtz => q
    | .rdn => if neg then q + 1 else q
    | .rup => if neg then q else q + 1
    | .rto => if q % 2 = 0 then q + 1 else q

/-- ⌊log2 (n / d)⌋ for n, d > 0. -/
def flog (n d : Nat) : Int :=
  let k : Int := (Nat.log2 n : Int) - (Nat.log2 d : Int)
  if k < 0 then (if n * 2 ^ (-k).toNat < d then k - 1 else k) else (if n < d * 2 ^ k.toNat then k - 1 else k)

/-- The magnitude n / d rounded as though the exponent range were unbounded above (R78): the pattern, which may
exceed the format's largest finite one. -/
def FFmt.roundPat (f : FFmt) (r : Rnd) (neg : Bool) (n d : Nat) : Nat :=
  if n = 0 then 0
  else
    let ex := max (flog n d) f.emin
    let ulp := ex - f.fbits
    let q := if ulp < 0 then r.quot neg (n * 2 ^ (-ulp).toNat) d else r.quot neg n (d * 2 ^ ulp.toNat)
    (ex - f.emin).toNat * 2 ^ f.fbits + q

/-- What overflow without saturation leaves in a format with infinities (R78, IEEE 754). -/
def FFmt.overflow (f : FFmt) (r : Rnd) (neg : Bool) : Nat :=
  let toInf := match r with
    | .rne => true
    | .rna => true
    | .rtz => false
    | .rto => false
    | .rdn => neg
    | .rup => !neg
  f.signed neg (if toInf then f.infPat else f.maxFinite)

/-- The magnitude n / d of a sign rounded once into a format with infinities, as IEEE 754 does (R112). -/
def FFmt.encode (f : FFmt) (r : Rnd) (neg : Bool) (n d : Nat) : Nat :=
  let p := f.roundPat r neg n d
  if f.maxFinite < p then f.overflow r neg else f.signed neg p

/-- The fraction m × 2^e. -/
def dyadic (m : Nat) (e : Int) : Nat × Nat := if e < 0 then (m, 2 ^ (-e).toNat) else (m * 2 ^ e.toNat, 1)

/-- The integer z × 2^e rounded once; the sign of zero is given. -/
def FFmt.encodeInt (f : FFmt) (r : Rnd) (z : Int) (e : Int) (zeroNeg : Bool) : Nat :=
  if z = 0 then f.signed zeroNeg 0
  else
    let (n, d) := dyadic z.natAbs e
    f.encode r (z < 0) n d

/-! ## Exact sums of products (R83) -/

/-- A term of an exact sum. -/
def FVal.mul (a b : FVal) : FVal :=
  match a, b with
  | .nan, _ => .nan
  | _, .nan => .nan
  | .fin na ma ea, .fin nb mb eb => .fin (na ^^ nb) (ma * mb) (ea + eb)
  | .inf n, b => if b.isZero then .nan else .inf (n ^^ b.signBit)
  | a, .inf n => if a.isZero then .nan else .inf (n ^^ a.signBit)

/-- The exact sum of a list of terms: an invalid sum is `nan`; an exact zero is −0 only where every term is −0 (R83). -/
def sumTerms (ts : List FVal) : FVal :=
  if ts.any FVal.isNan then .nan
  else
    let pos := ts.any (· = .inf false)
    let negi := ts.any (· = .inf true)
    if pos && negi then .nan
    else if pos then .inf false
    else if negi then .inf true
    else
      let s : Int := ts.foldl (fun a t => min a t.exp) 0
      let z : Int := ts.foldl (fun a t => a + t.atScale s) 0
      if z = 0 then .fin (ts.all FVal.signBit) 0 s else .fin (z < 0) z.natAbs s

/-- A value rounded once by RNE to a format with infinities; a NaN result is ARITH_INV (R66, R112). -/
def FFmt.result (f : FFmt) (v : FVal) : Except ErrCode Nat :=
  match v with
  | .nan => .error errArithInv
  | .inf n => .ok (f.signed n f.infPat)
  | .fin n m e => let (a, b) := dyadic m e; .ok (f.encode .rne n a b)

/-- The exact sum of terms, rounded once by RNE. -/
def FFmt.sum (f : FFmt) (ts : List FVal) : Except ErrCode Nat := f.result (sumTerms ts)

/-! ## Quotients and square roots -/

/-- ⌊√x⌋, bit by bit: `n` bits of the root are still to be found and `r` has been. -/
def isqrtFrom : Nat → Nat → Nat → Nat
  | 0, r, _ => r
  | n + 1, r, x =>
    let r' := r + 2 ^ n
    isqrtFrom n (if r' * r' ≤ x then r' else r) x

def isqrt (x : Nat) : Nat := isqrtFrom (Nat.log2 x / 2 + 1) 0 x

/-- √(n / d) rounded once by RNE: the root is found to 64 bits beyond the binary point of an even scale, and its last bit
is set where the root is inexact, which no tie and no boundary of the format can match. -/
def FFmt.sqrt (f : FFmt) (n d : Nat) : Nat :=
  let k := 2 * (Nat.log2 d + 64)
  let x := n * 2 ^ (2 * k) / d
  let q := isqrt x
  let exact := q * q * d == n * 2 ^ (2 * k)
  f.encode .rne false (2 * q + (if exact then 0 else 1)) (2 ^ (k + 1))

/-- 1 / a (R113). -/
def frcpVal (f : FFmt) (v : FVal) : Except ErrCode Nat :=
  match v with
  | .nan => .error errNanIn
  | .inf n => .ok (f.signed n 0)
  | .fin n 0 _ => .ok (f.signed n f.infPat)
  | .fin n m e => let (a, b) := dyadic m e; .ok (f.encode .rne n b a)

/-- √a (R113). -/
def fsqrtVal (f : FFmt) (v : FVal) : Except ErrCode Nat :=
  match v with
  | .nan => .error errNanIn
  | .inf n => if n then .error errArithInv else .ok f.infPat
  | .fin n 0 _ => .ok (f.signed n 0)
  | .fin n m e => if n then .error errArithInv else let (a, b) := dyadic m e; .ok (f.sqrt a b)

/-- 1 / √a (R113). -/
def frsqVal (f : FFmt) (v : FVal) : Except ErrCode Nat :=
  match v with
  | .nan => .error errNanIn
  | .inf n => if n then .error errArithInv else .ok 0
  | .fin n 0 _ => .ok (f.signed n f.infPat)
  | .fin n m e => if n then .error errArithInv else let (a, b) := dyadic m e; .ok (f.sqrt b a)

/-- `fround`: an integral value in the operand's own format, with the sign of the operand (R112). -/
def froundPat (f : FFmt) (r : Rnd) (x : Nat) : Except ErrCode Nat :=
  match f.decode x with
  | .nan => .error errNanIn
  | .inf n => .ok (f.signed n f.infPat)
  | .fin n m e =>
    if 0 ≤ e then .ok (x % 2 ^ f.bits)
    else
      let z := r.quot n m (2 ^ (-e).toNat)
      .ok (f.signed n (f.roundPat .rne n z 1))

end Sys2Proof.Machine
end

