-- ==== Sys2Proof/Machine/Operands.lean ====
section
/-! DEFINITION. Operand forms: the elements of lanes (spec 03 R63, R64), immediates (02 R44, R47), and element-wise
evaluation with the error precedence of R68. -/

namespace Sys2Proof.Machine

/-- What an instruction computes: the lanes of its result, or the code of an error token (R68). -/
abbrev Result := Except ErrCode (List Lane)

/-! ## Elements -/

/-- The element size in bits of a type code (R43). -/
def eltBits (ty : Nat) : Nat :=
  match ty with
  | 0 | 4 | 8 => 32
  | 1 => 64
  | 2 | 5 | 9 | 10 => 16
  | 3 | 6 | 11 | 12 => 8
  | _ => 32

/-- Whether a type reads its elements as two's complement (R43). -/
def tySigned (ty : Nat) : Bool := ty ≤ 3

/-- The float format of a type code (R43, R64). -/
def tyFloat (ty : Nat) : FFmt :=
  match ty with
  | 9 => .bf16
  | 10 => .f16
  | 11 => .e4m3
  | 12 => .e5m2
  | _ => .f32

def isFloatTy (ty : Nat) : Bool := 8 ≤ ty && ty ≤ 12

/-- The k elements of n bits of x, the lowest first. -/
def splitNat (n : Nat) : Nat → Nat → List Nat
  | 0, _ => []
  | k + 1, x => x % 2 ^ n :: splitNat n k (x / 2 ^ n)

/-- The number whose elements of n bits are given, the lowest first. -/
def joinNat (n : Nat) : List Nat → Nat
  | [] => 0
  | x :: xs => x % 2 ^ n + 2 ^ n * joinNat n xs

/-- Lanes in pairs, the low lane first (R43). -/
def lanePairs : List Lane → List Nat
  | a :: b :: rest => (a.toNat + 2 ^ 32 * b.toNat) :: lanePairs rest
  | _ => []

/-- The elements of a token's lanes, in ascending lane and element order (R63). -/
def elems (ty : Nat) (ls : List Lane) : List Nat :=
  if ty = 1 then lanePairs ls else ls.flatMap fun l => splitNat (eltBits ty) (32 / eltBits ty) l.toNat

/-- The first k elements of a list. -/
def chunks (k : Nat) : Nat → List Nat → List (List Nat)
  | 0, _ => []
  | n + 1, xs => xs.take k :: chunks k n (xs.drop k)

/-- The lanes that hold elements in ascending order. -/
def ofElems (ty : Nat) (xs : List Nat) : List Lane :=
  if ty = 1 then xs.flatMap fun x => [BitVec.ofNat 32 x, BitVec.ofNat 32 (x / 2 ^ 32)]
  else
    let k := 32 / eltBits ty
    (chunks k (xs.length / k) xs).map fun c => BitVec.ofNat 32 (joinNat (eltBits ty) c)

/-- The results of a list, or its first error (R68). -/
def allOk {α : Type} : List (Except ErrCode α) → Except ErrCode (List α)
  | [] => .ok []
  | .error e :: _ => .error e
  | .ok x :: rest => (allOk rest).map (x :: ·)

/-- An element-wise result over three operands. -/
def zip3 (f : Nat → Nat → Nat → Except ErrCode Nat) : List Nat → List Nat → List Nat → List (Except ErrCode Nat)
  | a :: as, b :: bs, c :: cs => f a b c :: zip3 f as bs cs
  | _, _, _ => []

def elementwise (ty : Nat) (f : Nat → Nat → Nat → Except ErrCode Nat) (a b c : List Lane) : Result :=
  (allOk (zip3 f (elems ty a) (elems ty b) (elems ty c))).map (ofElems ty)

/-- A lane-wise result over three operands. -/
def zipLanes (f : Lane → Lane → Lane → Except ErrCode Lane) : List Lane → List Lane → List Lane → List (Except ErrCode Lane)
  | a :: as, b :: bs, c :: cs => f a b c :: zipLanes f as bs cs
  | _, _, _ => []

/-! ## Immediates -/

/-- One lane, or one lane pair, of an expanded immediate (R44). -/
def immLane (ty : Nat) (imm : BitVec 25) : List Lane :=
  match ty with
  | 1 => let x := imm.signExtend 64; [x.extractLsb' 0 32, x.extractLsb' 32 32]
  | 2 | 5 | 10 => let h : BitVec 16 := imm.extractLsb' 0 16; [h ++ h]
  | 3 | 6 => let b : BitVec 8 := imm.extractLsb' 0 8; [b ++ (b ++ (b ++ b))]
  | 8 => [imm ++ (0 : BitVec 7)]
  | 9 => let h : BitVec 16 := imm.extractLsb' 9 16; [h ++ h]
  | _ => [imm.signExtend 32]

/-- An immediate over w lanes (R44). -/
def immLanes (ty : Nat) (imm : BitVec 25) (w : Nat) : List Lane :=
  ((List.replicate w (immLane ty imm)).flatten).take w

/-- The lanes of `imm` (R47, R110): an odd width gives WIDTH for the paired kinds. -/
def immKind (kind : Nat) (imm : BitVec 32) (w : Nat) : Result :=
  match kind with
  | 0 => .ok (List.replicate w imm)
  | 1 => .ok (imm :: List.replicate (w - 1) 0)
  | _ =>
    if w % 2 = 1 then .error errWidth
    else
      let hi : Lane := if kind = 2 && imm.msb then BitVec.allOnes 32 else 0
      .ok (List.replicate (w / 2) [imm, hi]).flatten

/-- A number in n lanes, low one first. -/
def natLanes : Nat → Nat → List Lane
  | 0, _ => []
  | n + 1, x => BitVec.ofNat 32 x :: natLanes n (x / 2 ^ 32)

end Sys2Proof.Machine
end

