-- ==== Sys2Proof/Machine/Flags.lean ====
section
/-! DEFINITION. Conditions and classes: the part has no status register (01); what stands for flags is the condition of a
compare (spec 02 R45), the predicate bit that a result sends (R41), and the class mask of `fclass` (05 R112). -/

namespace Sys2Proof.Machine

/-- A condition of R45 from "less than" and "equal". -/
def condHolds (cond : Nat) (lt eq : Bool) : Bool :=
  match cond with
  | 0 => eq
  | 1 => !eq
  | 2 => lt
  | 3 => lt || eq
  | 4 => !(lt || eq)
  | 5 => !lt
  | _ => false

/-- A condition on integers. -/
def condInt (cond : Nat) (a b : Int) : Bool := condHolds cond (a < b) (a = b)

/-- A condition on float values: −0 equals +0 (R45). -/
def condFloat (cond : Nat) (a b : FVal) : Bool := condHolds cond (a.lt b) (!a.lt b && !b.lt a)

/-- An element as the integer its type reads (R63). -/
def readElem (ty x : Nat) : Int := if tySigned ty then sInt (eltBits ty) x else (x % 2 ^ eltBits ty : Nat)

/-- The class mask (R112): one bit. -/
def classMask (f : FFmt) (x : Nat) : Nat :=
  match f.decode x with
  | .nan => 2 ^ 8
  | .inf n => if n then 2 ^ 0 else 2 ^ 7
  | .fin n m _ =>
    if m = 0 then (if n then 2 ^ 3 else 2 ^ 4)
    else if m < 2 ^ f.fbits then (if n then 2 ^ 2 else 2 ^ 5)
    else if n then 2 ^ 1 else 2 ^ 6

/-- The bit that a result sends as a predicate: lane 0 bit 0 (R41). -/
def predBit (ls : List Lane) : Bool := (ls.headD 0).getLsbD 0

end Sys2Proof.Machine
end

