-- ==== Sys2Proof/Config.lean ====
section
/-! DEFINITION. What the spec leaves open: the free values (opaque, no body), and the constants of the part (R1). -/

namespace Sys2Proof.Config

/-- The core's local cycle count that `sysr z_cycle` reads (R297): the spec fixes no rate against events (R3).
A free value, applied to the counter `free` of the state (log 3). -/
opaque freeCycle : Nat → BitVec 64

/-- A signature of a key slot over a record's bytes (R320): the private key never leaves the root of trust (R317).
A free value (log 9). -/
opaque signature : Nat → List Byte → List Byte

/-- The algorithm of a key slot (R317): 0 ECDSA P-384, 1 Ed25519, 2 ML-DSA-65. Provisioned, hence free (log 9). -/
opaque slotAlg : Nat → BitVec 2

/-- Whether a key slot is provisioned for a virtual device (R355, status 3). Free (log 9). -/
opaque slotProvisioned : Nat → Nat → Bool

/-- The measurement of the management firmware that a start takes (R326, R327 MEAS): 48 bytes, free (log 7). -/
opaque measurement : Nat → BitVec 384

/-- The form in which an evicted or saved state is written is known to the device alone (R278); whether a sealed
state whose area has been altered still authenticates on restore (R321) is free (log 9). -/
opaque sealAuthentic : Nat → Bool

/-- Capacity in bytes that the decoders of a CXL port report (R311): fixed by the devices attached, free (log 10). -/
opaque cxlCapacity : Nat → Nat

/-- Where the spec states no value for what a special function's rounding search leaves undecided (it never does in
the formats of the part): the free value the model falls back to (log 11). -/
opaque freeRounding : Nat → Nat

/-- The sequence number of a control token that no activation makes: the EOS of a node without input channels (01 R29), the
wedges of a round (R277). The spec gives none; a free value, applied to the counter `free` of the state (log 22). -/
opaque freeSeq : Nat → BitVec 16

/-- The output slots that an island misses in a release (12 R203): a matter of timing, which the spec leaves to the true latency.
A free value, applied to the counter `free` of the state (log 23). -/
opaque freeMiss : Nat → Nat

/-- A byte of B that an island reads from a word that reads ERR or poison (13 R224): the spec states no value. A free value, by
the counter `free` of the state and the byte's place (log 24). So are the bytes of a save area, whose form the device alone knows (16 R278,
log 41). -/
opaque freeByte : Nat → Nat → BitVec 8

/-- Whether the host's receiver, having taken a message, takes the next at once (21 R352 lets it refuse). A free value, by the
counter `free` of the state (log 28). -/
opaque hostStaysReady : Nat → Bool

/-- Whether a start fails (19 R327 PHASE 0b10), by the count of starts: what its self-test, training and measurement meet is the module's. Free
(log 141). -/
opaque startFails : Nat → Bool

/-- The package ID that the management core sets at a start (22 R357), by the count of starts. Free (log 141). -/
opaque packageId : Nat → BitVec 12

end Sys2Proof.Config
end

