-- ==== Sys2Proof/Machine/Special.lean ====
section
/-! DEFINITION. The special functions (spec 05 R113): the exact value of the function, rounded once by RNE. The value is
enclosed between two fixed-point numbers that lie 2^-340 apart or less; the rounding is decided where both ends round
alike, which they do for every argument of the part's formats (the exact cases are answered before). Where they did not,
the result would be a free value (log 11). -/

namespace Sys2Proof.Machine.Special

/-- Working precision: a fixed-point number z stands for z × 2^-prec. -/
def prec : Nat := 400

/-- 1 in fixed point. -/
def one : Int := (2 ^ prec : Nat)

/-- The product of two fixed-point numbers, truncated to -∞: an error of at most one unit. -/
def fmul (a b : Int) : Int := a * b / one

/-- The quotient of two fixed-point numbers, b positive. -/
def fdiv (a b : Int) : Int := a * one / b

/-- The sum of n terms of a power series: `t` is the current term, `x` the ratio's argument, `den k` the k-th divisor. -/
def series (x : Int) (den : Nat → Int) : Nat → Nat → Int → Int → Int
  | 0, _, _, acc => acc
  | n + 1, k, t, acc => let t' := fmul t x / den k; series x den n (k + 1) t' (acc + t')

/-- e^x for |x| ≤ 1. -/
def exp1 (x : Int) : Int := series x (fun k => (k : Int) + 1) 110 0 one one

/-- Σ z^(2k+1) × s^k / (2k+1) over n terms, s the sign of the series: atanh for s = 1, arctan for s = -1. -/
def oddSeries (z2 : Int) (s : Int) : Nat → Nat → Int → Int → Int
  | 0, _, _, acc => acc
  | n + 1, k, p, acc => oddSeries z2 s n (k + 1) (s * fmul p z2) (acc + p / (2 * (k : Int) + 1))

/-- atanh z for |z| ≤ 1/3. -/
def atanh1 (z : Int) : Int := oddSeries (fmul z z) 1 140 0 z 0

/-- ln 2 = 2 atanh (1/3). -/
def ln2 : Int := 2 * atanh1 (one / 3)

/-- Σ (-1)^k / ((2k+1) n^(2k+1)) at the scale 2^p. -/
def arctanInv (n : Int) : Nat → Nat → Int → Int → Int
  | 0, _, _, acc => acc
  | j + 1, k, p, acc => arctanInv n j (k + 1) (-(p / (n * n))) (acc + p / (2 * (k : Int) + 1))

/-- π/2 at 150 bits beyond the working precision, by Machin's formula. -/
def halfPiWide : Int :=
  let s : Int := (2 ^ (prec + 150) : Nat)
  8 * arctanInv 5 130 0 (s / 5) 0 - 2 * arctanInv 239 40 0 (s / 239) 0

/-- A finite value in fixed point: exact for every value of the part's formats. -/
def ofVal (neg : Bool) (m : Nat) (e : Int) : Int :=
  let z : Int := if e + prec < 0 then (m / 2 ^ (-(e + prec)).toNat : Nat) else (m * 2 ^ (e + prec).toNat : Nat)
  if neg then -z else z

/-- A number between two bounds. -/
def clamp (lo hi x : Int) : Int := if x < lo then lo else if hi < x then hi else x

/-- e^x as a mantissa in fixed point and an exponent of two. -/
def expScaled (x : Int) : Int × Int :=
  let n := x / ln2
  (exp1 (x - n * ln2), n)

/-- e^x in fixed point, for x ≤ 1. -/
def expNeg (x : Int) : Int :=
  let (v, n) := expScaled x
  if n < 0 then v / (2 ^ (-n).toNat : Nat) else v * (2 ^ n.toNat : Nat)

/-- The distance of the enclosure's ends from the computed value, in units: far above the sum of all truncations. -/
def radius : Int := (2 ^ 50 : Nat)

/-- A fixed-point enclosure times 2^x, rounded once by RNE. -/
def round (f : FFmt) (v : Int) (x : Int) : Nat :=
  let lo := f.encodeInt .rne (v - radius) (x - prec) (v < 0)
  let hi := f.encodeInt .rne (v + radius) (x - prec) (v < 0)
  if lo = hi then lo else Config.freeRounding v.natAbs % 2 ^ f.bits

/-- 2^a. -/
def exp2 (f : FFmt) : FVal → Except ErrCode Nat
  | .nan => .error errNanIn
  | .inf n => .ok (if n then 0 else f.infPat)
  | .fin neg m e =>
    let a := clamp (-400 * one) (400 * one) (ofVal neg m e)
    let n := a / one
    let r := a - n * one
    if r = 0 then let (p, q) := dyadic 1 n; .ok (f.encode .rne false p q)
    else .ok (round f (exp1 (fmul r ln2)) n)

/-- log2 a. -/
def log2 (f : FFmt) : FVal → Except ErrCode Nat
  | .nan => .error errNanIn
  | .inf n => if n then .error errArithInv else .ok f.infPat
  | .fin _ 0 _ => .ok (f.signed true f.infPat)
  | .fin neg m e =>
    if neg then .error errArithInv
    else
      let k := Nat.log2 m
      let ex : Int := e + k
      if m = 2 ^ k then .ok (f.encodeInt .rne ex 0 false)
      else
        let y := fdiv (m : Int) (2 ^ k : Nat)
        .ok (round f (ex * one + fdiv (2 * atanh1 (fdiv (y - one) (y + one))) ln2) 0)

/-- tanh a = (1 - q) / (1 + q) with q = e^(-2|a|). Beyond 32 the result rounds as at 32. -/
def tanh (f : FFmt) : FVal → Except ErrCode Nat
  | .nan => .error errNanIn
  | .inf n => .ok (f.encode .rne n 1 1)
  | .fin neg 0 _ => .ok (f.signed neg 0)
  | .fin neg m e =>
    let q := expNeg (-2 * clamp 0 (32 * one) (ofVal false m e))
    let t := fdiv (one - q) (one + q)
    .ok (round f (if neg then -t else t) 0)

/-- 1 / (1 + e^-a). Beyond 128 on either side the result rounds as at 128. -/
def sig (f : FFmt) : FVal → Except ErrCode Nat
  | .nan => .error errNanIn
  | .inf n => .ok (if n then 0 else f.encode .rne false 1 1)
  | .fin _ 0 _ => .ok (f.encode .rne false 1 2)
  | .fin neg m e =>
    let q := expNeg (-(clamp 0 (128 * one) (ofVal false m e)))
    .ok (round f (fdiv (if neg then q else one) (one + q)) 0)

/-- The quadrant of a and its remainder in [-π/4, π/4], the argument reduced exactly enough (R113). -/
def reduce (neg : Bool) (m : Nat) (e : Int) : Int × Int :=
  let a := ofVal neg m e * (2 ^ 150 : Nat)
  let n := (2 * a + halfPiWide) / (2 * halfPiWide)
  (n, (a - n * halfPiWide) / (2 ^ 150 : Nat))

def sin1 (r : Int) : Int :=
  r + series (-(fmul r r)) (fun k => (2 * (k : Int) + 2) * (2 * k + 3)) 60 0 r 0

def cos1 (r : Int) : Int :=
  one + series (-(fmul r r)) (fun k => (2 * (k : Int) + 1) * (2 * k + 2)) 60 0 one 0

/-- sin of the quadrant's angle. -/
def sinQ (n r : Int) : Int :=
  match (n % 4).toNat with
  | 0 => sin1 r
  | 1 => cos1 r
  | 2 => -(sin1 r)
  | _ => -(cos1 r)

def sin (f : FFmt) : FVal → Except ErrCode Nat
  | .nan => .error errNanIn
  | .inf _ => .error errArithInv
  | .fin neg 0 _ => .ok (f.signed neg 0)
  | .fin neg m e => let (n, r) := reduce neg m e; .ok (round f (sinQ n r) 0)

def cos (f : FFmt) : FVal → Except ErrCode Nat
  | .nan => .error errNanIn
  | .inf _ => .error errArithInv
  | .fin _ 0 _ => .ok (f.encode .rne false 1 1)
  | .fin neg m e => let (n, r) := reduce neg m e; .ok (round f (sinQ (n + 1) r) 0)

/-- erf a = (2/√π) e^(-a²) Σ 2^n a^(2n+1) / (1·3·…·(2n+1)). Beyond 6 the result rounds as at 6. -/
def erf (f : FFmt) : FVal → Except ErrCode Nat
  | .nan => .error errNanIn
  | .inf n => .ok (f.encode .rne n 1 1)
  | .fin neg 0 _ => .ok (f.signed neg 0)
  | .fin neg m e =>
    let a := clamp 0 (6 * one) (ofVal false m e)
    let s := a + series (2 * fmul a a) (fun k => 2 * (k : Int) + 3) 400 0 a 0
    let rootPi : Int := isqrt (2 * halfPiWide * (2 ^ (prec - 150) : Nat)).toNat
    let t := fdiv (2 * fmul (expNeg (-(fmul a a))) s) rootPi
    .ok (round f (if neg then -t else t) 0)

end Sys2Proof.Machine.Special
end

