-- ==== Sys2Proof/Machine/Alu.lean ====
section
/-! DEFINITION. What the computing instructions compute (spec 05 R107 to R113), element by element; dot products lane by
lane. Pure functions of the operands (R115). -/

namespace Sys2Proof.Machine

/-- An integer element-wise operation that cannot fail. -/
def intOp (ty : Nat) (f : Nat → Nat → Nat → Nat) (a b c : List Lane) : Result :=
  elementwise ty (fun x y z => .ok (f x y z)) a b c

/-- An operation on the integers the type reads, wrapped (R63). -/
def wrapOp (ty : Nat) (f : Int → Int → Int → Int) : List Lane → List Lane → List Lane → Result :=
  intOp ty fun x y z => wrap (eltBits ty) (f (readElem ty x) (readElem ty y) (readElem ty z))

/-- The upper half of the exact product (R108). -/
def mulHigh (ty : Nat) : List Lane → List Lane → List Lane → Result :=
  wrapOp ty fun a b _ => a * b / (2 : Int) ^ eltBits ty

/-- Division by zero gives ARITH_DIV0 (R63, R108). -/
def divOp (ty : Nat) (f : Int → Int → Int) : List Lane → List Lane → List Lane → Result :=
  elementwise ty fun x y _ =>
    if y % 2 ^ eltBits ty = 0 then .error errArithDiv0
    else .ok (wrap (eltBits ty) (f (readElem ty x) (readElem ty y)))

/-- An operation with a shift count b mod n (R108). -/
def shiftOp (ty : Nat) (f : Nat → Nat → Nat) : List Lane → List Lane → List Lane → Result :=
  intOp ty fun x y _ => f x (y % eltBits ty) % 2 ^ eltBits ty

/-- Shift right, copies of the element's top bit in, whatever the type (R108). -/
def sarElem (n x s : Nat) : Nat := wrap n (sInt n x / (2 : Int) ^ s)

def rolElem (n x s : Nat) : Nat := x * 2 ^ s % 2 ^ n + x / 2 ^ (n - s)

/-- The number of one bits among the low n of x. -/
def popElem : Nat → Nat → Nat
  | 0, _ => 0
  | n + 1, x => x % 2 + popElem n (x / 2)

def ctzElem : Nat → Nat → Nat
  | 0, _ => 0
  | n + 1, x => if x % 2 = 1 then 0 else 1 + ctzElem n (x / 2)

def clzElem (n x : Nat) : Nat := if x = 0 then n else n - 1 - Nat.log2 x

/-- A sum clamped to the range of the element type (R108). -/
def clampElem (ty : Nat) (z : Int) : Nat :=
  let n := eltBits ty
  let lo : Int := if tySigned ty then -(2 : Int) ^ (n - 1) else 0
  let hi : Int := if tySigned ty then (2 : Int) ^ (n - 1) - 1 else (2 : Int) ^ n - 1
  wrap n (max lo (min hi z))

/-- The field of `bfx` and `bfi`: position and width (R109). -/
def fieldOf (b : Nat) : Nat × Nat :=
  let pos := b % 32
  (pos, min (min (b / 2 ^ 8 % 2 ^ 6) 32) (32 - pos))

def bfxElem (signed : Bool) (a b : Nat) : Nat :=
  let (pos, len) := fieldOf b
  let f := a / 2 ^ pos % 2 ^ len
  if signed && 0 < len && f / 2 ^ (len - 1) == 1 then f + (2 ^ 32 - 2 ^ len) else f

def bfiElem (a b c : Nat) : Nat :=
  let (pos, len) := fieldOf b
  c % 2 ^ pos + a % 2 ^ len * 2 ^ pos + c / 2 ^ (pos + len) * 2 ^ (pos + len)

/-- An integer dot product with an optional accumulator, one 32-bit result a lane (R108). -/
def dotInt (ty : Nat) (acc : Bool) (a b c : List Lane) : Result :=
  allOk (zipLanes (fun x y z =>
    let xs := (elems ty [x]).map (readElem ty)
    let ys := (elems ty [y]).map (readElem ty)
    let s := (xs.zipWith (· * ·) ys).foldl (· + ·) (0 : Int)
    .ok (BitVec.ofNat 32 (wrap 32 (s + (if acc then (z.toNat : Int) else 0))))) a b c)

/-! ## Float -/

/-- The first NaN pattern among an instruction's float operands is NAN_IN (R66, R112). -/
def noNan (f : FFmt) (xs : List Nat) (r : Except ErrCode Nat) : Except ErrCode Nat :=
  if xs.any fun x => (f.decode x).isNan then .error errNanIn else r

/-- A float operation on the elements a and b. -/
def floatOp2 (ty : Nat) (g : FFmt → Nat → Nat → Except ErrCode Nat) : List Lane → List Lane → List Lane → Result :=
  elementwise ty fun x y _ => noNan (tyFloat ty) [x, y] (g (tyFloat ty) x y)

/-- A float operation on the element a. -/
def floatOp1 (ty : Nat) (g : FFmt → Nat → Except ErrCode Nat) : List Lane → List Lane → List Lane → Result :=
  elementwise ty fun x _ _ => noNan (tyFloat ty) [x] (g (tyFloat ty) x)

def faddElem (f : FFmt) (x y : Nat) : Except ErrCode Nat := f.sum [f.decode x, f.decode y]
def fsubElem (f : FFmt) (x y : Nat) : Except ErrCode Nat := f.sum [f.decode x, (f.decode y).neg]
def fmulElem (f : FFmt) (x y : Nat) : Except ErrCode Nat := f.result ((f.decode x).mul (f.decode y))

/-- `ffma`: one rounding of a × b + c (R83, R112). -/
def ffmaOp (ty : Nat) : List Lane → List Lane → List Lane → Result :=
  elementwise ty fun x y z =>
    let f := tyFloat ty
    noNan f [x, y, z] (f.sum [(f.decode x).mul (f.decode y), f.decode z])

/-- `fmin` and `fmax`: −0 orders below +0 (R112). -/
def fminElem (f : FFmt) (x y : Nat) : Nat :=
  let a := f.decode x
  let b := f.decode y
  if a.lt b then x else if b.lt a then y else if a.signBit then x else y

def fmaxElem (f : FFmt) (x y : Nat) : Nat :=
  let a := f.decode x
  let b := f.decode y
  if a.lt b then y else if b.lt a then x else if a.signBit then y else x

def fabsElem (f : FFmt) (x : Nat) : Nat := x % 2 ^ (f.bits - 1)
def fnegElem (f : FFmt) (x : Nat) : Nat := if x / 2 ^ (f.bits - 1) % 2 = 1 then x % 2 ^ (f.bits - 1) else x + 2 ^ (f.bits - 1)

/-- A dot product of a lane's float elements, exact and rounded once to FP32 (R83, R112). -/
def dotFloat (ty : Nat) (acc : Bool) (a b c : List Lane) : Result :=
  let f := tyFloat ty
  allOk (zipLanes (fun x y z =>
    let xs := (elems ty [x]).map f.decode
    let ys := (elems ty [y]).map f.decode
    let cs := if acc then [FFmt.f32.decode z.toNat] else []
    if (xs ++ ys ++ cs).any FVal.isNan then .error errNanIn
    else (FFmt.f32.sum (xs.zipWith FVal.mul ys ++ cs)).map (BitVec.ofNat 32)) a b c)

/-! ## Combining functions of reductions and scans (R82) -/

/-- The sum of two elements: wrapped for integers, rounded by RNE for floats. -/
def addElem (ty x y : Nat) : Except ErrCode Nat :=
  if isFloatTy ty then noNan (tyFloat ty) [x, y] (faddElem (tyFloat ty) x y)
  else .ok (wrap (eltBits ty) (readElem ty x + readElem ty y))

def maxElem (ty x y : Nat) : Except ErrCode Nat :=
  if isFloatTy ty then noNan (tyFloat ty) [x, y] (.ok (fmaxElem (tyFloat ty) x y))
  else .ok (if readElem ty x < readElem ty y then y else x)

def minElem (ty x y : Nat) : Except ErrCode Nat :=
  if isFloatTy ty then noNan (tyFloat ty) [x, y] (.ok (fminElem (tyFloat ty) x y))
  else .ok (if readElem ty y < readElem ty x then y else x)

end Sys2Proof.Machine
end

