-- ==== Sys2Proof/Machine/Ops.lean ====
section
/-! DEFINITION. The named operations over the state: tables, memory and presence at their homes, effects, cores and waves,
messages, answers to deferred readers, counters, fault records, parking a capsule, taking a fault and returning from one. -/

namespace Sys2Proof.Machine

/-! ## Tables -/

def tget? {α : Type} : Tab α → Nat → Option α
  | [], _ => none
  | (k, v) :: rest, i => if k = i then some v else tget? rest i

def tgetD {α : Type} (d : α) (t : Tab α) (i : Nat) : α := (tget? t i).getD d

def tput {α : Type} : Tab α → Nat → α → Tab α
  | [], i, x => [(i, x)]
  | (k, v) :: rest, i, x =>
    if i < k then (i, x) :: (k, v) :: rest else if i = k then (i, x) :: rest else (k, v) :: tput rest i x

def tdel {α : Type} : Tab α → Nat → Tab α
  | [], _ => []
  | (k, v) :: rest, i => if k = i then rest else (k, v) :: tdel rest i

/-- Writing a table whose unlisted keys read as d: writing d removes the entry. -/
def tset {α : Type} [DecidableEq α] (d : α) (t : Tab α) (i : Nat) (x : α) : Tab α := if x = d then tdel t i else tput t i x

/-- The canonical form: keys strictly rising, no entry equal to what an unlisted key reads as. -/
def Tab.wf {α : Type} [DecidableEq α] (d : α) : Tab α → Bool
  | [] => true
  | [(_, v)] => v != d
  | (k, v) :: (k', v') :: rest => k < k' && v != d && Tab.wf d ((k', v') :: rest)

/-- The canonical form of memory. -/
def Memory.wf (m : Memory) : Bool := Tab.wf (0 : Byte) m

/-- Item n of a list replaced. -/
def setAt {α : Type} : List α → Nat → α → List α
  | [], _, _ => []
  | _ :: xs, 0, y => y :: xs
  | x :: xs, n + 1, y => x :: setAt xs n y

/-- The list without item n. -/
def dropAt {α : Type} : List α → Nat → List α
  | [], _ => []
  | _ :: xs, 0 => xs
  | x :: xs, n + 1 => x :: dropAt xs n

/-- The numbers from a to a + n - 1. -/
def upFrom : Nat → Nat → List Nat
  | 0, _ => []
  | n + 1, a => a :: upFrom n (a + 1)

/-! ## Sites and home addresses (20 R332, 19 R308 to R313) -/

/-- A site: die, x, y (15 R239). -/
def siteId (die x y : Nat) : Nat := die * 2048 + y * 64 + x
def siteDie (c : Nat) : Nat := c / 2048
def siteX (c : Nat) : Nat := c % 64
def siteY (c : Nat) : Nat := c / 64 % 32

/-- Whether a site is a core: a slice site has x mod 8 = 7 (R239). -/
def isCore (c : Nat) : Bool := siteX c % 8 != 7 && c < 16384

/-- The cluster of a site (R239). -/
def clusterOf (c : Nat) : Nat := siteDie c * 16 + siteY c / 8 * 4 + siteX c / 16

/-- The package slab of a site. -/
def slabOf (site : Nat) : Nat :=
  let die := siteDie site
  let sy := siteY site / 4
  (if die < 4 then sy else 15 - sy) * 32 + die % 4 * 8 + siteX site / 8

/-- A site in the layout of R249 with V = 1. -/
def siteWord (c : Nat) : Lane :=
  BitVec.ofNat 32 (2 ^ 31 + siteDie c * 2 ^ 28 + siteX c * 2 ^ 22 + siteY c * 2 ^ 17)

/-- Home addresses: HBM bytes stand for themselves; the other memories lie above (the model's own numbering). -/
def hbmSize : Nat := 960 * 2 ^ 30
def cxlAddr (a : Nat) : Nat := 2 ^ 44 + a
def hostAddr (h : Nat) : Nat := 2 ^ 56 + h
def bankAddr (core off : Nat) : Nat := 2 ^ 60 + core * 2 ^ 16 + off
def sliceAddr (cluster off : Nat) : Nat := 2 ^ 61 + cluster * 2 ^ 22 + off

/-- The unit that is home to a home address: a bank port (its core), a slice port, an HBM channel, a CXL port, the UCIe
bridge (09 R152, 12 R196, 19 R309, R311, R314). -/
def unitOf (a : Nat) : Nat :=
  if 2 ^ 61 ≤ a then 20000 + (a - 2 ^ 61) / 2 ^ 18
  else if 2 ^ 60 ≤ a then (a - 2 ^ 60) / 2 ^ 16
  else if 2 ^ 56 ≤ a then 42000
  else if 2 ^ 44 ≤ a then 41000 + (a - 2 ^ 44) / 2 ^ 42
  else 40000 + a / 2048 % 512

def isBankUnit (u : Nat) : Bool := u < 20000
def isSliceUnit (u : Nat) : Bool := 20000 ≤ u && u < 40000
def isCxlUnit (u : Nat) : Bool := 41000 ≤ u && u < 42000

/-- The entries of a unit's deferral pool (09 R156); the bridge's size is a design choice (log 13). -/
def poolSize (u : Nat) : Nat := if isBankUnit u then 32 else if isSliceUnit u then 128 else 1024

/-- A number for the n-th unit of a kind of which there is no fixed number. -/
def farUnit (kind n : Nat) : Nat := 2 ^ 24 + 8 * n + kind

/-- The unit that a party's answers go to, and the issuer behind whose held access its later ones wait (12 R199): R199 does not say whether that is a
streamer island or one command of it; the model takes each command, and each unit of the engines, as an issuer (log 148). -/
def Party.unit : Party → Nat
  | .task w => w.core
  | .queue q => 50000 + q
  | .streamer id => farUnit 3 id
  | .island id => 70000 + id
  | .coll id => farUnit 4 id
  | .engine => 80000

/-! ## Effects -/

/-- One change of the state. -/
inductive Eff where
  | m (x : Machine)
  | byte (a : Nat) (b : Byte)
  | pres (w : Nat) (p : Pres)

/-- The bytes and the presence bits change only here, so both tables keep their canonical form. -/
def State.eff (s : State) : Eff → State
  | .m x => { s with m := x }
  | .byte a b => { s with mem := tset 0 s.mem a b }
  | .pres w p => { s with pres := tset .full s.pres w p }

def State.effs (s : State) : List Eff → State
  | [] => s
  | e :: es => (s.eff e).effs es

/-- What happens in a step: the changes, from the state it happens in. -/
abbrev Act := State → List Eff

def Act.quiet : Act := fun _ => []

def Act.run (a : Act) (s : State) : State := s.effs (a s)

/-- One thing after another. -/
def Act.andThen (a b : Act) : Act := fun s => a s ++ b (s.effs (a s))

/-- A list of things in order. -/
def Act.seq : List Act → Act
  | [] => .quiet
  | a :: as => a.andThen (Act.seq as)

/-- The same thing for each of a list. -/
def Act.each {α : Type} (xs : List α) (f : α → Act) : Act := Act.seq (xs.map f)

def Act.when (c : Bool) (a : Act) : Act := if c then a else .quiet

/-- What is decided from the state in which it happens. -/
def Act.look (f : State → Act) : Act := fun s => f s s

/-- A change of the machine. -/
def Act.mod (f : Machine → Machine) : Act := fun s => [.m (f s.m)]

/-- A change of the package's tables. -/
def Act.pkg (f : PkgState → PkgState) : Act := .mod fun m => { m with pkg := f m.pkg }

def Act.fab (f : FabricState → FabricState) : Act := .mod fun m => { m with fab := f m.fab }

/-! ## Memory -/

def State.byteAt (s : State) (a : Nat) : Byte := tgetD 0 s.mem a

def State.bytesAt (s : State) (a : Nat) : Nat → List Byte
  | 0 => []
  | n + 1 => s.byteAt a :: s.bytesAt (a + 1) n

/-- The presence of the word that holds a byte. -/
def State.presAt (s : State) (a : Nat) : Pres := tgetD .full s.pres (a / 4)

def State.nat (s : State) (a n : Nat) : Nat := leNat (s.bytesAt a n)

/-- The words (home address / 4) that a range of bytes covers. -/
def wordsOf (a n : Nat) : List Nat := if n = 0 then [] else upFrom ((a + n - 1) / 4 - a / 4 + 1) (a / 4)

def writeBytes : Nat → List Byte → Act
  | _, [] => .quiet
  | a, b :: bs => fun s => .byte a b :: writeBytes (a + 1) bs s

def setPres (ws : List Nat) (p : Pres) : Act := fun _ => ws.map fun w => .pres w p

/-- Lanes as the bytes of memory and back (00 R2). -/
def laneBytes (ls : List Lane) : List Byte := ls.flatMap fun l => leBytes 4 l.toNat

def bytesLanes (bs : List Byte) : Nat → List Lane
  | 0 => []
  | n + 1 => BitVec.ofNat 32 (leNat (bs.take 4)) :: bytesLanes (bs.drop 4) n

/-! ## Cores, activations, waves -/

def CoreState.zero : CoreState where
  nodes := []
  acts := []
  nextUid := 0
  nextOrder := 0
  vc := []
  region := 0
  buffers := []
  bufReqs := []
  arrived := []
  occupants := []
  waiting := []
  evicted := []
  rrVector := 0
  rrMemory := 0
  spill := []
  creations := []
  tlb := []
  outs := []

def ClusterState.zero : ClusterState := ⟨[], [], [], [], [], [], [], [], [], false, []⟩

/-- x before the first of a list that it ranks above. -/
def insertRel {α : Type} (above : α → α → Bool) (x : α) : List α → List α
  | [] => [x]
  | y :: ys => if above x y then x :: y :: ys else y :: insertRel above x ys

/-- A list in rank order; equals keep theirs. -/
def sortRel {α : Type} (above : α → α → Bool) (xs : List α) : List α := xs.foldl (fun acc x => insertRel above x acc) []

def Machine.core (m : Machine) (c : Nat) : CoreState := tgetD CoreState.zero m.cores c
def Machine.cluster (m : Machine) (c : Nat) : ClusterState := tgetD ClusterState.zero m.clusters c

def modCore (c : Nat) (f : CoreState → CoreState) : Act :=
  .mod fun m => { m with cores := tput m.cores c (f (m.core c)) }

def modCluster (c : Nat) (f : ClusterState → ClusterState) : Act :=
  .mod fun m => { m with clusters := tput m.clusters c (f (m.cluster c)) }

def Machine.act? (m : Machine) (c frame : Nat) : Option Activation := tget? (m.core c).acts frame
def Machine.node? (m : Machine) (c node : Nat) : Option NodeState := tget? (m.core c).nodes node

def modAct (c frame : Nat) (f : Activation → Activation) : Act :=
  modCore c fun k =>
    match tget? k.acts frame with
    | some a => { k with acts := tput k.acts frame (f a) }
    | none => k

def modNode (c node : Nat) (f : NodeState → NodeState) : Act :=
  modCore c fun k =>
    match tget? k.nodes node with
    | some n => { k with nodes := tput k.nodes node (f n) }
    | none => k

def Activation.wave? (a : Activation) (idx : Nat) : Option Wave := a.waves.find? fun w => w.idx == idx

def Activation.modWave (a : Activation) (idx : Nat) (f : Wave → Wave) : Activation :=
  { a with waves := a.waves.map fun w => if w.idx = idx then f w else w }

def modWave (c frame idx : Nat) (f : Wave → Wave) : Act := modAct c frame fun a => a.modWave idx f

/-- The operator of a slot of a wave, in the wave's present run. -/
def Activation.who (a : Activation) (core frame idx slot : Nat) : Who :=
  ⟨core, frame, a.uid, idx, slot, a.colour, ((a.wave? idx).map Wave.run).getD 0⟩

/-- The activation that an operator names, if it still stands. -/
def Machine.actOf? (m : Machine) (w : Who) : Option Activation :=
  (m.act? w.core w.frame).bind fun a => if a.uid = w.uid then some a else none

/-- Whether the run in which an operator asked something of a home still goes on. -/
def Machine.runs (m : Machine) (w : Who) : Bool :=
  match (m.actOf? w).bind fun a => a.wave? w.wave with
  | some v => v.run == w.run
  | none => false

/-! ## Tokens -/

/-- A token of a result (01 R18, R21). -/
def mkTok (colour : Colour) (kind : Kind) (seq : BitVec 16) (lanes : List Lane) : Token :=
  ⟨colour, kind, 0, 0, 0, 0, seq, 0, lanes, []⟩

/-- `error_token(code)` at width w (00 R5). -/
def errTok (colour : Colour) (code : ErrCode) (seq : BitVec 16) (w : Nat) : Token :=
  mkTok colour .error seq (code.setWidth 32 :: List.replicate (w - 1) 0)

/-- `error_token(code)` of the token that caused it: its colour, width, frame, wave and sequence (00 R5). -/
def errFor (t : Token) (code : ErrCode) : Token :=
  { errTok t.colour code t.seq t.lanes.length with frame := t.frame, wave := t.wave }

/-- w lanes of which the first are given, the others zero. -/
def padLanes (w : Nat) (ls : List Lane) : List Lane := (ls ++ List.replicate w 0).take w


/-! ## Messages (15 R244) -/

def elemUnit (id : Nat) : Nat := farUnit 2 id

def send (src dst : Nat) (cls : Cls) (b : Body) : Act := .mod fun m => { m with net := m.net ++ [⟨src, dst, cls, b, none⟩] }

/-- The edge that a token travels on, for the tracks of the static networks (15 R243). -/
def Msg.edge (x : Msg) : Option Dest :=
  match x.body with
  | .tok d _ _ => some d
  | _ => none

/-- The sources of a packet: those of the packets merged into it besides its own (R247). -/
def Msg.sources (x : Msg) : List Nat :=
  match x.body with
  | .req r => x.src :: r.issuers.map Party.unit
  | _ => [x.src]

/-- Whether message k may arrive: none sent before it has its source, destination and class (R244); on a static track, its edge
(R243). -/
def Machine.first (m : Machine) (k : Nat) (x : Msg) : Bool :=
  !(m.net.take k).any fun y => y.sources.contains x.src && y.dst == x.dst && y.cls == x.cls && (x.cls != .st || y.edge == x.edge)

/-- The die that a unit lies on: a core, a slice port, an HBM channel (19 R309). -/
def unitDie (u : Nat) : Option Nat :=
  if u < 20000 then some (siteDie u)
  else if u < 22048 then some ((u - 20000) / 256)
  else if 40000 ≤ u && u < 40512 then some ((u - 40000) / 64)
  else none

/-- Whether a route between dies, first along X and then along Y, crosses a seam (19 R308, 22 R358). -/
def crossesSeam (a b seam : Nat) : Bool :=
  if seam < 6 then
    let k := seam % 3
    a / 4 == seam / 3 && min (a % 4) (b % 4) ≤ k && k < max (a % 4) (b % 4)
  else b % 4 == seam - 6 && a / 4 != b / 4

/-- The dies of a route (19 R308). -/
def routeDies (a b : Nat) : List Nat :=
  ((upFrom 4 0).filter fun k => min (a % 4) (b % 4) ≤ k && k ≤ max (a % 4) (b % 4)).map (a / 4 * 4 + ·) ++
    (if a / 4 = b / 4 then [] else [b])

/-- Whether the way from one die to another is cut: at a seam that is down (22 R361), or on a die whose clocks have stopped (19 R325). -/
def PkgState.cut (p : PkgState) (a b : Nat) : Bool := p.seams.any (crossesSeam a b) || (routeDies a b).any p.stopped.contains

/-- The die of a unit: a fixed one's, an element's, a streamer's (its issuer's), an entry or exit port's (its configuration's queue's, log 134), a
barrier home's, a tag unit's, an island's, a hoist's. A collective's, the management port's and the bridge's are not given. -/
def PkgState.dieOf (p : PkgState) (u : Nat) : Option Nat :=
  let queue (q : Nat) : Option Nat := (tget? p.queues q).map fun x => x.desc.die
  if 2 ^ 24 ≤ u then
    let n := (u - 2 ^ 24) / 8
    match (u - 2 ^ 24) % 8 with
    | 0 => (tget? p.confs (n / 64)).bind fun f => queue f.queue
    | 1 => (tget? p.confs (n / 64)).bind fun f => queue f.queue
    | 2 => (p.elems.find? fun e => e.1 == n).map fun e => siteDie e.2.rcd.core
    | 3 => (p.streams.find? fun x => x.id == n).map fun x => siteDie x.cmd.who.core
    | _ => none
  else if 6000000 ≤ u then some ((u - 6000000) / 16)
  else if 5000000 ≤ u then
    match (u - 5000000) / 2 ^ 14 with
    | 0 => some (siteDie (u - 5000000))
    | 1 => some ((u - 5000000) % 2 ^ 14 / 16)
    | 2 => some ((u - 5000000) % 2 ^ 14)
    | _ => none
  else if 70000 ≤ u && u < 80000 then (tget? p.islands (u - 70000)).map fun i => siteDie i.node.1
  else if 50000 ≤ u && u < 60000 then queue (u - 50000)
  else unitDie u

/-- Whether a message waits on its way. -/
def Machine.seamHolds (m : Machine) (x : Msg) : Bool :=
  match m.pkg.dieOf x.src, m.pkg.dieOf x.dst with
  | some a, some b => m.pkg.cut a b
  | some a, none => m.pkg.stopped.contains a
  | none, some b => m.pkg.stopped.contains b
  | none, none => false

/-- Whether the clocks of a site's die have stopped (19 R325). -/
def State.halted (s : State) (site : Nat) : Bool := s.m.pkg.stopped.contains (siteDie site)

/-- Whether an access from a die to a home waits on its way. -/
def State.away (s : State) (die a : Nat) : Bool :=
  match s.m.pkg.dieOf (unitOf a) with
  | some d => s.m.pkg.cut die d
  | none => s.m.pkg.stopped.contains die

/-- Message k, where it may arrive: a beat at the end of its tracks. -/
def Machine.msg? (m : Machine) (k : Nat) : Option Msg :=
  m.net[k]?.bind fun x => if m.first k x && !m.seamHolds x && x.trip.all (·.ahead.isEmpty) then some x else none

/-- No segment: it stands ahead of a beat that no switch box's output takes (15 R242). -/
def noSegment : Nat × Nat := (28 * 2 ^ 14, 0)

/-- The beats that a segment holds: two at its end (15 R243), and eight more in the stage of a die seam that it crosses (19 R308). -/
def segmentRoom (seg : Nat × Nat) : Nat :=
  if seg = noSegment then 0 else if siteDie (seg.1 / 28) = siteDie seg.2 then 2 else 10

/-- Whether a segment has room for a beat; the copies of one beat share its place. -/
def Machine.roomOn (m : Machine) (seg : Nat × Nat) (beat : Nat) : Bool :=
  let there := m.net.filterMap fun y => y.trip.bind fun t => if t.lies == some seg && t.beat != beat then some t.beat else none
  there.eraseDups.length < segmentRoom seg

/-- Whether message k, x, may go one hop on: a beat on tracks where the buffer ahead has room and no earlier beat of its edge has still
to take it (15 R243). -/
def Machine.mayHop (m : Machine) (k : Nat) (x : Msg) : Bool :=
  match x.trip with
  | some ⟨beat, _, seg :: _⟩ => m.roomOn seg beat &&
      !(m.net.take k).any fun y => y.src == x.src && y.edge == x.edge && y.trip.any fun u => u.ahead.contains seg
  | _ => true

/-- A message one hop on. -/
def Msg.hopped (x : Msg) : Msg :=
  match x.trip with
  | some ⟨beat, _, seg :: rest⟩ => { x with trip := some ⟨beat, some seg, rest⟩ }
  | _ => x

def takeMsg (k : Nat) : Act := .mod fun m => { m with net := dropAt m.net k }

def answer (home : Nat) (who : Party) (piece : Nat) (v : AnsVal) : Act :=
  send home who.unit .q1 (.ans ⟨who, piece, v⟩)

/-! ## Colours and counters (16 R266 to R268) -/

def State.colourWord (s : State) (c : Colour) (i : Nat) : Nat :=
  ((tgetD (0 : BitVec 256) s.m.pkg.colours c.toNat).toNat / 2 ^ (64 * i)) % 2 ^ 64

/-- Whether a colour is bound; colour 0 always is (R267). -/
def State.bound (s : State) (c : Colour) : Bool := c == 0 || s.colourWord c 0 / 2 ^ 63 == 1

def State.vdevOf (s : State) (c : Colour) : Nat := s.colourWord c 0 / 2 ^ 58 % 32

/-- The index of a colour's counter of a role: colour 0's own, which unbound colours share, stand after the 32 banks. -/
def State.counterIdx (s : State) (c : Colour) (role : Nat) : Nat :=
  if c != 0 && s.bound c then s.vdevOf c * 64 + (s.colourWord c 0 / 2 ^ 52 % 64 + role) % 64 else 2048 + role

/-- A counter saturates (R268). -/
def count (c : Colour) (role n : Nat) : Act := fun s =>
  let i := s.counterIdx c role
  let v := (tgetD (0 : BitVec 64) s.m.pkg.counters i).toNat
  Act.pkg (fun p => { p with counters := tput p.counters i (BitVec.ofNat 64 (min (v + n) (2 ^ 64 - 1))) }) s

def countDiscard (c : Colour) : Act := count c 0 1
def countSink (c : Colour) : Act := count c 1 1
def countSpill (c : Colour) : Act := count c 2 1
def countLost (c : Colour) : Act := count c 3 1

/-- The die's error counters (17 R297): index 2 × die, corrected; 2 × die + 1, uncorrectable. -/
def countErr (die : Nat) (uncorrectable : Bool) : Act :=
  .pkg fun p =>
    let i := 2 * die + (if uncorrectable then 1 else 0)
    let v := (tgetD (0 : BitVec 64) p.errc i).toNat
    { p with errc := tput p.errc i (BitVec.ofNat 64 (min (v + 1) (2 ^ 32 - 1))) }

/-! ## Soft errors (09 R173, 19 R324) -/

/-- The words (home address / 4) under one check with a range: from the first on, and before the last. An HBM line, and a CXL
device's, has one check (19 R324); a word of a bank or a slice has its own (09 R173). -/
def checkSpan (a n : Nat) : Nat × Nat :=
  if n = 0 then (0, 0) else if a < 2 ^ 56 then (a / 128 * 32, ((a + n - 1) / 128 + 1) * 32) else (a / 4, (a + n - 1) / 4 + 1)

/-- Whether a struck word lies under the check of a range. -/
def underCheck (a n w : Nat) : Bool := (checkSpan a n).1 ≤ w && w < (checkSpan a n).2

/-- Whether an access to a range meets an error that cannot be corrected. -/
def State.damaged (s : State) (a n : Nat) : Bool := s.m.pkg.damage.any fun (w, unc) => unc && underCheck a n w

/-- Words from w on are rewritten, so their checks are right again (log 50). -/
def mend (w n : Nat) : Act := .pkg fun p => { p with damage := p.damage.filter fun (v, _) => v < w || w + n ≤ v }

/-- The whole words of a range: the first, and how many. -/
def wholeSpan (a n : Nat) : Nat × Nat := ((a + 3) / 4, (a + n) / 4 - (a + 3) / 4)

/-- Whether what struck a word can no longer be corrected: its check covers a word that cannot. -/
def State.lostWord (s : State) (w : Nat) : Bool := s.m.pkg.damage.any fun (v, unc) => unc && underCheck (4 * w) 4 v

/-- An access's checks: each single-bit error is corrected in place and counted; one that cannot be corrected is counted and stays. -/
def checked (a n : Nat) : Act := .look fun s =>
  let met := s.m.pkg.damage.filter fun (w, _) => underCheck a n w
  let counts (unc : Bool) : Act := match unitDie (unitOf a) with
    | some die => countErr die unc
    | none => .quiet
  if met = [] then .quiet
  else Act.seq [
    Act.each (met.filter fun (w, _) => !s.lostWord w) fun _ => counts false,
    .when (met.any Prod.snd) (counts true),
    .pkg fun p => { p with damage := p.damage.filter fun (w, _) => s.lostWord w || !underCheck a n w } ]

/-- Bytes written with their words' checks. -/
def putBytes (a : Nat) (bs : List Byte) : Act :=
  (mend (wholeSpan a bs.length).1 (wholeSpan a bs.length).2).andThen (writeBytes a bs)

/-! ## Deferred readers (09 R154 to R156) -/

/-- The lowest word of a range that holds no value. -/
def State.missing (s : State) (a n : Nat) : Option Nat :=
  (wordsOf a n).find? fun w =>
    match s.presAt (4 * w) with
    | .empty => true
    | .defer => true
    | _ => false

/-- The lowest ERR word of a range. -/
def State.errWord (s : State) (a n : Nat) : Option Nat := (wordsOf a n).find? fun w => s.presAt (4 * w) = .err

/-- What a load of a range reads without regard to presence: its bits, or poison (R173). -/
def State.plainLoad (s : State) (a n : Nat) : AnsVal := if s.damaged a n then .poison else .bytes (s.bytesAt a n)

/-- What a load of a range reads where every word holds a value or an error (R155, R173). -/
def State.loaded (s : State) (a n : Nat) : AnsVal :=
  if s.damaged a n then .poison
  else
    match s.errWord a n with
    | some w => .err (s.byteAt (4 * w))
    | none => .bytes (s.bytesAt a n)

def State.pool (s : State) (u : Nat) : List PoolEntry := tgetD [] s.m.pkg.pools u

def setPool (u : Nat) (es : List PoolEntry) : Act := .pkg fun p => { p with pools := tput p.pools u es }

/-- The word's bits name the entry at the head of its list, or the word returns to EMPTY (R156). -/
def headWord (u w : Nat) : Act := .look fun s =>
  match (s.pool u).find? fun e => e.word = w with
  | some e => (writeBytes (4 * w) (leBytes 4 e.idx)).andThen (setPres [w] .defer)
  | none => .quiet

/-- The lowest free entry of a pool. -/
def freeEntry (es : List PoolEntry) (n : Nat) : Option Nat :=
  (upFrom n 0).find? fun i => !es.any fun e => e.idx == i

/-- A request parked on word w: at the end of the word's list. -/
def park (u w idx : Nat) (r : Req) : Act := .look fun s =>
  (setPool u (s.pool u ++ [⟨idx, r, w⟩])).andThen (headWord u w)

/-- Whether a party reads word by word (17 R291, 22 R366). -/
def Party.byWord : Party → Bool
  | .streamer _ => true
  | .island _ => true
  | .coll _ => true
  | _ => false

/-- A range as an engine reads it: each byte with its word's code where that reads ERR, or 255 where it reads poison. -/
def State.lineOf (s : State) (a n : Nat) (keeps : Bool) : List (Byte × Option (BitVec 8)) :=
  (upFrom n a).map fun b =>
    if s.damaged (4 * (b / 4)) 4 then (0, some 255)
    else (s.byteAt b, if keeps && s.presAt b = .err then some (s.byteAt (4 * (b / 4))) else none)

/-- What a load's home answers; `keeps` where it keeps presence. -/
def State.answerOf (s : State) (r : Req) (keeps : Bool) : AnsVal :=
  if r.who.byWord then .line (s.lineOf r.addr r.len keeps)
  else if keeps then s.loaded r.addr r.len else s.plainLoad r.addr r.len

/-- A parked load looked at again after its word has filled: answered, or moved to the next word without a value. -/
def reexamine (u : Nat) (e : PoolEntry) : Act := .look fun s =>
  let rest := (s.pool u).filter fun x => x.idx ≠ e.idx
  match s.missing e.req.addr e.req.len with
  | some w => (setPool u rest).andThen (park u w e.idx e.req)
  | none => Act.seq [setPool u rest, checked e.req.addr e.req.len,
      answer u e.req.who e.req.piece (s.answerOf e.req true)]

/-- Every reader of the words that have just filled, in arrival order (R154). -/
def answerReaders (ws : List Nat) : Act :=
  Act.each ws fun w =>
    Act.look fun s =>
      Act.each ((s.pool (unitOf (4 * w))).filter fun e => e.word = w) fun e => reexamine (unitOf (4 * w)) e

/-- A write of bytes that sets every covered word FULL and answers its readers. -/
def fill (a : Nat) (bs : List Byte) : Act := .look fun s =>
  let ws := wordsOf a bs.length
  let waiting := ws.filter fun w => s.presAt (4 * w) = .defer
  Act.seq [putBytes a bs, setPres ws .full, answerReaders waiting]

/-- An error token's store: ERR with its code, the upper bits zero (R153). -/
def fillErr (a n : Nat) (code : BitVec 8) : Act := .look fun s =>
  let ws := wordsOf a n
  let waiting := ws.filter fun w => s.presAt (4 * w) = .defer
  Act.seq [Act.each ws fun w => putBytes (4 * w) (leBytes 4 code.toNat), setPres ws .err, answerReaders waiting]

/-- A word of list `ws` reserved by an activation (10 R177). -/
def State.reserved (s : State) (ws : List Nat) : Bool :=
  s.m.pkg.resvs.any fun r => ws.any fun w => r.first ≤ w && w < r.first + r.words

/-! ## Codes of fault records (16 R282, 17 R304, 19 R329, 21 R356, 22 R378) -/

namespace Code

def dupOperand : Nat := 0x01
def fieldUnused : Nat := 0x02
def badKind : Nat := 0x03
def badField : Nat := 0x04
def multiExit : Nat := 0x05
def commitCount : Nat := 0x06
def predImbal : Nat := 0x07
def noExit : Nat := 0x08
def retDefault : Nat := 0x09
def spawnColour : Nat := 0x0A
def noReply : Nat := 0x0B
def blockEcc : Nat := 0x0C
def tagCheck : Nat := 0x0D
def lateToken : Nat := 0x0E
def teardownDiscard : Nat := 0x0F
def capNone : Nat := 0x10
def capHeld : Nat := 0x11
def capItin : Nat := 0x12
def capRange : Nat := 0x13
def capJoin : Nat := 0x14
def capExit : Nat := 0x15
def capNogo : Nat := 0x16
def capHandle : Nat := 0x17
def capColour : Nat := 0x18
def capLost : Nat := 0x19
def node : Nat := 0x1A
def colour : Nat := 0x1B
def fit : Nat := 0x1C
def act : Nat := 0x1D
def soft : Nat := 0x1E
def joinDup : Nat := 0x1F
def woRewrite : Nat := 0x20
def woPartial : Nat := 0x21
def woAtomic : Nat := 0x22
def misalign : Nat := 0x23
def bankRange : Nat := 0x24
def peerScope : Nat := 0x25
def place : Nat := 0x26
def rmwRange : Nat := 0x27
def rmwInput : Nat := 0x28
def spoilFull : Nat := 0x29
def sliceRange : Nat := 0x2A
def vcValue : Nat := 0x2B
def vcLocked : Nat := 0x2C
def tileRange : Nat := 0x30
def tileOverlap : Nat := 0x31
def tileColour : Nat := 0x32
def tagDup : Nat := 0x33
def tagAddr : Nat := 0x34
def tagBusy : Nat := 0x35
def tagColour : Nat := 0x36
def barEnrol : Nat := 0x37
def barColour : Nat := 0x38
def barBroken : Nat := 0x39
def barRange : Nat := 0x3A
def barBusy : Nat := 0x3B
def barRejoin : Nat := 0x3C
def barLimit : Nat := 0x3D
def mxFmt : Nat := 0x3E
def mxColour : Nat := 0x3F
def cfgBadop : Nat := 0x40
def pktBadop : Nat := 0x41
def seedKind : Nat := 0x42
def seedColour : Nat := 0x43
def xlate : Nat := 0x44
def slabQuota : Nat := 0x45
def saveShort : Nat := 0x46
def trap : Nat := 0x47
def strParam : Nat := 0x48
def strOverlap : Nat := 0x49
def fltRange : Nat := 0x4A
def fltColour : Nat := 0x4B
def resColour : Nat := 0x4C
def resState : Nat := 0x4D
def cntrRange : Nat := 0x4E
def sysValue : Nat := 0x4F
def sealNosess : Nat := 0x60
def hostWo : Nat := 0x61
def cxlLink : Nat := 0x62
def reinject : Nat := 0x63
def vote : Nat := 0x64
def thermal : Nat := 0x65
def cfgHandle : Nat := 0x66
def cfgState : Nat := 0x67
def seedPort : Nat := 0x68
def colourBind : Nat := 0x69
def pinRange : Nat := 0x6A
def pinConflict : Nat := 0x6B
def pktColour : Nat := 0x6C
def waitErr : Nat := 0x6D
def waitCond : Nat := 0x6E
def collCount : Nat := 0x80
def collParam : Nat := 0x81
def collPart : Nat := 0x82
def lnkParam : Nat := 0x83
def seamDown : Nat := 0x84

end Code

/-! ## Fault records (16 R281, R283) -/

/-- The fields of a record (R281). -/
structure Record where
  code : Nat
  col : Colour
  mkind : Nat
  frz : Bool
  site : Nat
  frame : Nat
  wave : Nat
  blk : Nat
  slot : Nat
  seq : BitVec 16
  detail : Nat
  addr : Nat
  handle : Nat
deriving DecidableEq, Repr

def Record.blank : Record := ⟨0, 0, 5, false, 0, 0, 0, 0, 0, 0, 0, 0, 0⟩

/-- The eight words of a record (R281). -/
def Record.words (r : Record) (num : Nat) : List Lane :=
  [ BitVec.ofNat 32 (r.code * 2 ^ 16 + r.col.toNat * 2 ^ 8 + r.mkind * 2 ^ 5 + (if r.frz then 2 ^ 4 else 0)),
    BitVec.ofNat 32 (siteDie r.site * 2 ^ 29 + siteX r.site * 2 ^ 23 + siteY r.site * 2 ^ 18 + r.frame % 1024 * 2 ^ 8 +
      r.wave % 256),
    BitVec.ofNat 32 (r.blk % 64 * 2 ^ 26 + r.slot % 32 * 2 ^ 21 + r.seq.toNat * 2 ^ 5),
    BitVec.ofNat 32 r.detail,
    BitVec.ofNat 32 r.addr,
    BitVec.ofNat 32 (r.addr / 2 ^ 32),
    BitVec.ofNat 32 r.handle,
    BitVec.ofNat 32 num ]

/-- The colour whose area takes a record of a colour, its base and its size (R283): unbound colours use colour 0's. -/
def State.faultArea (s : State) (c : Colour) : Colour × Nat × Nat :=
  if c != 0 && s.bound c then (c, s.colourWord c 2 % 2 ^ 48, s.colourWord c 3 % 2 ^ 32)
  else (0, s.m.pkg.mgmt.c0farea, s.m.pkg.mgmt.c0nrec)

/-- The address of the next record of a colour's area, whose eight words must be EMPTY (R283); a word on which a handler waits is EMPTY with
a reader (log 14). -/
def State.recordSlot (s : State) (area : Colour) : Option Nat :=
  let (c, base, nrec) := s.faultArea area
  let a := base + tgetD 0 s.m.pkg.faultNum c.toNat % nrec * 32
  if nrec ≠ 0 && (wordsOf a 32).all (fun w => s.presAt (4 * w) = .empty || s.presAt (4 * w) = .defer) then some a else none

/-- A record written into the area of colour `area`: into slot (n - 1) mod NREC, else counted as lost; the numbering advances in either
case (R283). -/
def recordIn (area : Colour) (r : Record) : Act := .look fun s =>
  let (c, _, _) := s.faultArea area
  let num := tgetD 0 s.m.pkg.faultNum c.toNat + 1
  (Act.pkg fun p => { p with faultNum := tput p.faultNum c.toNat num }).andThen
    (match s.recordSlot area with
      | some a => fill a (laneBytes (r.words num))
      | none => countLost c)

/-- The open seal sessions of a record's colour in the configuration that its site belongs to are marked, where its master is frozen and is
none of the hoist's queues (19 R319). -/
def markSessions (r : Record) : Act := .when (r.frz && r.mkind ≠ 3) (.pkg fun p =>
  { p with sessions := p.sessions.map fun x =>
      if x.colour = r.col && x.phase = .opened && (match tget? p.confs x.cfg with
          | some f => f.slabs.contains (slabOf r.site)
          | none => true) then { x with faulted := true } else x })

/-- A record in its own colour's area; one that is written marks the sessions that it concerns. -/
def record (r : Record) : Act := .look fun s =>
  (recordIn r.col r).andThen (.when (s.recordSlot r.col).isSome (markSessions r))

/-- A token discarded with its count (16 R268) and a LATE_TOKEN record, no master frozen (01 R29). -/
def lateToken (site frame : Nat) (t : Token) : Act :=
  (countDiscard t.colour).andThen (record { Record.blank with
    code := Code.lateToken, col := t.colour, site := site, frame := frame, wave := t.wave.toNat, slot := t.slot.toNat,
    seq := t.seq, addr := t.tag.toNat })

/-! ## Releases (15 R257) -/

/-- The count of an (entry port, colour) falls by one, never below zero. -/
def releaseAt (cfg port : Nat) (c : Colour) : Act := .pkg fun p =>
  match tget? p.confs cfg with
  | none => p
  | some f =>
    let es := f.entries.map fun e =>
      if e.rcd.port = port then
        match tget? e.colours c.toNat with
        | some x => { e with colours := tput e.colours c.toNat { x with count := x.count - 1 } }
        | none => e
      else e
    { p with confs := tput p.confs cfg { f with entries := es } }

def releaseOpt (cfg : Nat) (port : Option Nat) (c : Colour) : Act :=
  match port with
  | some p => releaseAt cfg p c
  | none => .quiet

/-- A release at a node. -/
def nodeRelease (core node : Nat) (c : Colour) : Act := .look fun s =>
  match s.m.node? core node with
  | some n => releaseOpt n.cfg n.info.credited c
  | none => .quiet

/-- A token discarded with a count at a node, and its release. -/
def nodeDiscard (core node : Nat) (c : Colour) : Act := (countDiscard c).andThen (nodeRelease core node c)

/-- A token discarded at a node with its count and a LATE_TOKEN record. -/
def nodeLate (core node frame : Nat) (t : Token) : Act := (lateToken core frame t).andThen (nodeRelease core node t.colour)

/-- A token discarded so at a core where no activation stands for it: the release is that of the core's first node of its colour
(log 119). -/
def coreLate (core frame : Nat) (t : Token) : Act := (lateToken core frame t).andThen (.look fun s =>
  match (s.m.core core).nodes.find? fun (_, n) => n.info.colours.getLsbD t.colour.toNat with
  | some (node, _) => nodeRelease core node t.colour
  | none => .quiet)

/-! ## Live capsules (07 R141) -/

/-- A configuration changes. -/
def modConf (cfg : Nat) (f : ConfState → ConfState) : Act := .pkg fun p =>
  match tget? p.confs cfg with
  | some c => { p with confs := tput p.confs cfg (f c) }
  | none => p

/-- The live count of a colour in a configuration rises by `up` and falls by `down`. -/
def liveMod (cfg : Nat) (c : Colour) (up down : Nat) : Act := .pkg fun p =>
  match tget? p.confs cfg with
  | none => p
  | some f => { p with confs := tput p.confs cfg { f with live := tset 0 f.live c.toNat (tgetD 0 f.live c.toNat + up - down) } }

/-! ## Barrier entries (12 R211) -/

/-- The home of a barrier entry of a scope, for a core; and the number of entries there. -/
def barHome (scope core : Nat) : Nat :=
  match scope with
  | 0 => core
  | 1 => clusterOf core
  | 2 => siteDie core
  | _ => 0

def barEntries (scope : Nat) : Nat :=
  match scope with
  | 0 => 8
  | 4 => 16
  | _ => 64

/-- The key of a barrier entry in the package's table. -/
def barKey (scope core idx : Nat) : Nat := (scope * 2 ^ 14 + barHome scope core) * 64 + idx

def barUnit (scope core : Nat) : Nat := 5000000 + scope * 2 ^ 14 + barHome scope core

def sendBar (e : BarEv) : Act := send e.who.core (barUnit e.scope e.who.core) .q0 (.bar e)

/-! ## Capsule headers (07 R129) and parking (R146) -/

/-- Bits [lo + n - 1 : lo] of header word i. -/
def Capsule.get (c : Capsule) (i lo n : Nat) : Nat := bits (c.header.getD i 0).toNat lo n

def Capsule.set (c : Capsule) (i lo n v : Nat) : Capsule :=
  let x := (c.header.getD i 0).toNat
  { c with header := setAt c.header i (BitVec.ofNat 64 (x - bits x lo n * 2 ^ lo + v % 2 ^ n * 2 ^ lo)) }

def Capsule.colour (c : Capsule) : Colour := BitVec.ofNat 8 (c.get 0 56 8)
def Capsule.cid (c : Capsule) : Nat := c.get 0 0 32
def Capsule.seqNo (c : Capsule) : BitVec 16 := BitVec.ofNat 16 (c.get 0 32 16)
def Capsule.width (c : Capsule) : Nat := c.get 1 59 5 + 1
def Capsule.cnt (c : Capsule) : Nat := c.get 1 48 4
def Capsule.cur (c : Capsule) : Nat := c.get 1 44 4
def Capsule.vent (c : Capsule) : Nat := c.get 2 48 4
def Capsule.parts (c : Capsule) : Nat := c.get 3 28 4
def Capsule.pidx (c : Capsule) : Nat := c.get 3 24 4
def Capsule.grp (c : Capsule) : Nat := c.get 3 32 32
def Capsule.entry (c : Capsule) (i : Nat) : Word := c.itin.getD i 0

/-- The chunks of a tile at width w (R131). -/
def Capsule.chunks (c : Capsule) (w : Nat) : Nat := c.tile.length / (4 * w)

def entryPlace (e : Word) : Nat := bits e.toNat 48 16
def entryHandle (e : Word) : Nat := bits e.toNat 36 12
def entryBlk (e : Word) : Nat := bits e.toNat 30 6
def entryFork (e : Word) : Bool := e.getLsbD 29
def entryJoin (e : Word) : Bool := e.getLsbD 28
def entryPark (e : Word) : Bool := e.getLsbD 27
def entryLast (e : Word) : Bool := e.getLsbD 26
def entryArg (e : Word) : Nat := bits e.toNat 0 26

/-- The fault status of a parked capsule (R132) and the code of its record (R282). -/
inductive ParkCode where
  | place | node | colour | fit | act | soft | joinDup
deriving DecidableEq, Repr

def ParkCode.fcode : ParkCode → Nat
  | .place => 1
  | .node => 2
  | .colour => 3
  | .fit => 4
  | .act => 5
  | .soft => 6
  | .joinDup => 7

def ParkCode.code : ParkCode → Nat
  | .place => Code.place
  | .node => Code.node
  | .colour => Code.colour
  | .fit => Code.fit
  | .act => Code.act
  | .soft => Code.soft
  | .joinDup => Code.joinDup

/-! ### Spoil (09 R163, R164) -/

/-- The quota and the guard of a colour's spoil in bytes. -/
def State.spoilQuota (s : State) (c : Colour) : Nat × Nat :=
  let x := if c != 0 && s.bound c then s.colourWord c 1 else s.m.pkg.mgmt.c0spoil.toNat
  (bits x 44 20 * 2 ^ 16, bits x 24 20 * 2 ^ 16)

def State.spoilUsed (s : State) (c : Colour) : Nat := tgetD 0 s.m.pkg.spoilUse c.toNat

/-- Usage grows; at the quota the colour's entry ports are gated (R164). -/
def spoilAdd (c : Colour) (n : Nat) : Act := .look fun s =>
  let u := s.spoilUsed c + n
  .pkg fun p => { p with
    spoilUse := tput p.spoilUse c.toNat u
    gated := if (s.spoilQuota c).1 ≤ u && !p.gated.contains c then c :: p.gated else p.gated }

/-- The bytes of the spoil that a capsule takes (log 15). -/
def Capsule.size (c : Capsule) : Nat := 192 + c.tile.length

/-- A capsule buffer of an activation is free (07 R134). -/
def freeBuffer (core uid : Nat) : Act := modCore core fun k => { k with buffers := k.buffers.eraseP fun b => b.1 == uid }

/-- The capsule image is written to the colour's spoil with its status and a record, and its buffer is free; no master is frozen
(R146). -/
def parkNow (x : ParkWait) : Act := .look fun s =>
  let handle := s.m.pkg.nextHandle
  let c := x.cap
  Act.seq [
    .pkg fun p => { p with parked := p.parked ++ [⟨handle, c.colour, if (tget? p.confs x.cfg).isSome then some x.cfg else none, c⟩], nextHandle := handle + 1 },
    spoilAdd c.colour c.size,
    (match x.buffer with
      | some uid => freeBuffer x.site uid
      | none => .quiet),
    record { Record.blank with
      code := x.code, col := c.colour, mkind := 1, site := x.site, seq := c.seqNo, detail := x.detail, addr := c.cid,
      handle := handle } ]

/-- A park waits while the colour's quota is exhausted (R146). -/
def parkOrWait (x : ParkWait) : Act := .look fun s =>
  let c := x.cap.colour
  if (s.spoilQuota c).1 ≤ s.spoilUsed c then
    (spoilAdd c 0).andThen (.pkg fun p => { p with parkWaits := p.parkWaits ++ [x] })
  else parkNow x

/-- `park(c, code)`, with the entry concerned (R146). -/
def parkCapsule (site : Nat) (buffer : Option Nat) (cfg : Nat) (c : Capsule) (code : ParkCode) (ent : Nat) (detail : Nat) : Act :=
  parkOrWait ⟨site, buffer, cfg, ((c.set 2 56 8 code.fcode).set 2 52 4 ent).set 2 32 16 (entryPlace (c.entry ent)), code.code, detail⟩

/-- Usage falls; below three quarters of the quota the gate lifts, and below the quota parks that wait proceed. -/
def spoilSub (c : Colour) (n : Nat) : Act := .look fun s =>
  let u := s.spoilUsed c - n
  let q := (s.spoilQuota c).1
  (Act.pkg fun p => { p with
    spoilUse := tput p.spoilUse c.toNat u
    gated := if 4 * u < 3 * q then p.gated.filter (· != c) else p.gated }).andThen
    (Act.each (s.m.pkg.parkWaits.filter fun x => x.cap.colour == c) fun x => .look fun s' =>
      Act.when (s'.spoilUsed c < q)
        ((Act.pkg fun p => { p with parkWaits := p.parkWaits.erase x }).andThen (parkNow x)))

/-! ## Ending an activation, and taking a fault (01 R12, R32 to R34) -/

/-- Whether the activation at a frame holds its capsule under an entry with PARK (07 R146). -/
def Activation.parksOnFault (a : Activation) : Bool :=
  a.kind = .capsule && (match a.held with
    | some h => h.cap.vent ≠ 15 && entryPark (h.cap.entry h.cap.vent)
    | none => false)

/-- Reservations and the rest of what a wave has asked of homes are released (10 R177, 13 R220). -/
def releaseWave (w : Who) : Act :=
  (Act.pkg fun p => { p with resvs := p.resvs.filter fun r => r.who ≠ .task { w with slot := 0 } }).andThen
    (modCluster (clusterOf w.core) fun k => { k with resv := k.resv.filter fun r => r.who ≠ { w with slot := 0 } })

/-- A faulted wave as its resumption will find it (01 R25); what it has still asked of homes answers no later run. -/
def Wave.dropped (w : Wave) : Wave :=
  { w with acts := [], pend := [], stores := 0, outputs := 0, exit := none, exitsNull := 0, own := 0, succ := 0, memDone := 0,
           buffer := false, run := w.run + 1 }

/-- An activation is gone: its enrolments are withdrawn (13 R232), tokens that waited for a window of it are late, its frame is
free. -/
def removeAct (core frame : Nat) (a : Activation) : Act :=
  let w : Who := ⟨core, frame, a.uid, a.count, 0, a.colour, 0⟩
  Act.seq [
    Act.each a.enrol fun e => sendBar ⟨w, e.scope, e.idx, .leave, mkTok a.colour .data a.seq [], none⟩,
    Act.each a.tagged fun (_, t) => nodeLate core a.node frame t,
    modCore core fun k => { k with acts := tdel k.acts frame } ]

/-- The other parts of a completed join wait at their entry again, for part 0's next landing there (07 R140, log 109). -/
def rejoinParts (place : Nat) (h : Held) : Act := .pkg fun p =>
  { p with joins := p.joins ++ h.parts.map fun c => ⟨c.colour, c.grp, place, h.home, c⟩ }

/-- Once every earlier wave has committed, with its stores acknowledged and what they let go gone (R139), a faulted capsule
activation on an entry with PARK parks its capsule with ACT and is gone (07 R146). The image is the one that the faulting block started from: where
an earlier wave's `capnx` has moved CUR, R146's CUR = VENT + 1 does not hold of it, and CUR stays as that wave left it (log 129). -/
def settleFault (core frame : Nat) : Act := .look fun s =>
  match s.m.act? core frame with
  | none => .quiet
  | some a =>
    match a.fault, a.held with
    | some code, some h =>
      if a.parksOnFault && (match a.waves with | w :: _ => w.fault | [] => false) && a.unacked == 0 && a.answers == [] &&
          a.after == [] then
        Act.seq [
          Act.each a.waves fun w => releaseWave ⟨core, frame, a.uid, w.idx, 0, a.colour, w.run⟩,
          removeAct core frame a,
          rejoinParts (entryPlace (h.cap.entry h.cap.vent)) h,
          parkCapsule core (some a.uid) h.home h.cap .act h.cap.vent code]
      else .quiet
    | _, _ => .quiet

/-- An activation ends (01 R12): a capsule that it still holds is discarded with CAP_LOST, whatever it exited by (07 R137, log
110), and its buffer is free. -/
def endActivation (core frame : Nat) : Act := .look fun s =>
  match s.m.act? core frame with
  | none => .quiet
  | some a => Act.seq [
      removeAct core frame a,
      (match a.held with
        | some h =>
          let c := h.cap.colour
          Act.seq [
            nodeDiscard core a.node c,
            record { Record.blank with
              code := Code.capLost, col := c, mkind := 1, site := core, frame := frame, seq := h.cap.seqNo, addr := h.cap.cid },
            liveMod h.home c 0 1,
            rejoinParts (entryPlace (h.cap.entry h.cap.vent)) h,
            modCore core fun k => { k with buffers := k.buffers.filter fun b => b.1 ≠ a.uid } ]
        | none => .quiet),
      .when (a.kind = .default) (modNode core a.node fun n => { n with ended := n.ended ||| (1#256 <<< a.colour.toNat) }) ]

/-- Taking a fault (00 R5, 01 R33): the wave's block commits nothing, waves after it stop, and a record carrying the code
goes to the colour's fault area, unless the entry parks the capsule instead, whose record then carries the code. -/
def takeFault (w : Who) (code detail addr : Nat) (seq : BitVec 16) (handle : Nat) : Act := .look fun s =>
  match s.m.actOf? w with
  | none => .quiet
  | some a =>
    let blk := match a.wave? w.wave with
      | some v => v.block.toNat
      | none => 0
    let taken := a.waves.any fun v => v.idx = w.wave && v.buffer
    Act.seq [
      releaseWave w,
      .when taken (freeBuffer w.core a.uid),
      modAct w.core w.frame fun a =>
        { a.modWave w.wave fun v => { v.dropped with fault := true } with
          fault := some code, next := if w.wave + 1 = a.count then .unknown else a.next },
      if a.parksOnFault then settleFault w.core w.frame
      else record ⟨code, w.colour, 0, true, w.core, w.frame, w.wave, blk, w.slot, seq, detail, addr, handle⟩ ]

/-- A fault for a token that is not matched: the record holds its tag, its sequence and the handle of a copy of its payload (01 R17,
R20, R32). -/
def tokenFault (w : Who) (code : Nat) (t : Token) : Act := .look fun s =>
  match s.m.actOf? w with
  | none => .quiet
  | some a =>
    if a.parksOnFault then takeFault w code 0 t.tag.toNat t.seq 0
    else (takeFault w code 0 t.tag.toNat t.seq s.m.pkg.nextHandle).andThen
      (.pkg fun p => { p with copies := p.copies ++ [(p.nextHandle, t)], nextHandle := p.nextHandle + 1 })

/-- The window of a block with its operands as at block start: the kept copies back in place (01 R25). -/
def restoreWindow (slots : Nat) (bound : List (Nat × Field × Token)) : List Slot :=
  bound.foldl (fun ws (i, f, t) =>
    match ws[i]? with
    | some x => setAt ws i (match f with
      | .l => { x with l := some t, seenL := true }
      | .r => { x with r := some t, seenR := true }
      | .p => { x with p := some t, seenP := true })
    | none => ws) (List.replicate slots ⟨none, none, none, false, false, false, false⟩)

/-- The waves of an activation as a restart of it finds them: `skip` names the wave and the slot that is treated as nullified (17
R300). -/
def skipSlot (core frame : Nat) (skip : Option (Nat × Nat)) : Act :=
  modAct core frame fun a => { a with waves := a.waves.map fun w =>
    { w with skip := skip.bind fun (v, i) => if w.idx % 256 = v then some i else none } }

/-- Return from a fault (01 R34): the frozen wave runs again from its block-start state. -/
def resumeAct (core frame : Nat) : Act :=
  modAct core frame fun a =>
    { a with
      fault := none
      waves := a.waves.map fun w =>
        if w.fault then { w with slots := restoreWindow w.slots.length w.bound, fault := false } else w }

/-- Whether an activation is frozen: a wave has faulted and every wave before it has committed (01 R33). -/
def Activation.frozen (a : Activation) : Bool :=
  a.fault.isSome && (match a.waves with | w :: _ => w.fault | [] => true)

end Sys2Proof.Machine
end

