-- ==== Sys2Proof/Machine/Fire.lean ====
section
/-! DEFINITION. The firing rule (spec 01 R20, R21): what an instruction uses, when a slot may fire, nullification and bad
predicates, operand precedence, delivery to targets (R5, R39 to R41), and the chain of memory operators (R27). -/

namespace Sys2Proof.Machine

/-! ## What an instruction is (02 R56, 05 R103, 06 R117, 07 R142, 10 R178, 13 R216, 17 R287) -/

/-- The opcode and form in a slot of a block. -/
def blockIns (b : Block) (i : Nat) : Option (Nat × Form) :=
  match b.words[i]? with
  | none => none
  | some w =>
    match decodeWord w with
    | .ok ins => ins.opForm.map fun (o, f) => (o.toNat, f)
    | .error _ => none

def formImmf : Form → Bool
  | .a f => f.immf
  | _ => false

def inRange (lo hi o : Nat) : Bool := lo ≤ o && o ≤ hi

/-- The opcodes of arity 0. -/
def arity0 (o : Nat) : Bool := [0x000, 0x001, 0x006, 0x009, 0x021, 0x034, 0x081, 0x101, 0x106, 0x107, 0x109, 0x10C, 0x130,
  0x134, 0x185, 0x187, 0x18D].contains o

/-- The opcodes of arity 2 or 3, in which field R is used unless an immediate takes its place. -/
def arity2 (o : Nat) : Bool :=
  [0x00A, 0x022, 0x023, 0x024, 0x025, 0x02A, 0x02E, 0x036, 0x0D5, 0x0D6, 0x10B, 0x121, 0x132, 0x161, 0x186].contains o ||
    inRange 0x060 0x06D o || inRange 0x06F 0x077 o || inRange 0x07D 0x080 o || inRange 0x082 0x086 o ||
    inRange 0x0C0 0x0C5 o || o == 0x0C8 || inRange 0x124 0x12E o || inRange 0x169 0x16D o

/-- R20: an instruction uses L if its arity is one or more. -/
def usesL (o : Nat) (f : Form) : Bool :=
  match f with
  | .k g => !(arity0 o || (o == 0x102 && g.kvar == 0))
  | _ => !arity0 o

/-- R20: an instruction uses R if its arity is two or three and IMMF is 0; `capn note` has arity 2 (R142), and so has `ld`
with LNK (R178). -/
def usesR (o : Nat) (f : Form) : Bool :=
  match f with
  | .k g => arity2 o || (o == 0x100 && g.kvar == 0 && g.kimm.getLsbD 8)
  | .m g => arity2 o || (o == 0x120 && g.lnk)
  | _ => arity2 o && !formImmf f

/-- R20: field P is used if PM is not 0. -/
def usesP (f : Form) : Bool := f.common.pm ≠ .always

def usesField (o : Nat) (f : Form) : Field → Bool
  | .l => usesL o f
  | .r => usesR o f
  | .p => usesP f

def isExitOp (o : Nat) : Bool := [0x001, 0x002, 0x003, 0x005, 0x006].contains o
def isMemOp (o : Nat) : Bool := inRange 0x120 0x12E o || o == 0x134
def isStoreOp (o : Nat) : Bool := o == 0x121 || inRange 0x123 0x12E o
def isCapsuleOp (o : Nat) : Bool := inRange 0x100 0x10C o

/-- Instructions whose window target T0 is a reply target in the next wave (06 R121, 10 R185, 13 R216, R232, 17 R287): `cntr`
only where it clears. -/
def isReplyOp (o : Nat) (f : Form) : Bool :=
  match f with
  | .x _ => true
  | .a g => [0x170, 0x18A, 0x18D].contains o || (o == 0x18C && g.sub.getLsbD 1)
  | _ => o == 0x004 || inRange 0x124 0x12E o || o == 0x188

/-- 09 R166: vector operations; every other opcode is a memory or routing operation. -/
def isVectorOp (o : Nat) : Bool := inRange 0x02B 0x036 o || inRange 0x060 0x0D6 o

/-- The instructions of a block, with their slots. -/
def blockAll (b : Block) : List (Nat × Nat × Form) :=
  (upFrom b.words.length 0).filterMap fun i => (blockIns b i).map fun (o, f) => (i, o, f)

def blockCount (b : Block) (p : Nat → Bool) : Nat := ((blockAll b).filter fun (_, o, _) => p o).length

/-- Header fields (02 R53). -/
def blockNout (b : Block) : Nat := bits b.h0.toNat 47 6
def blockNst (b : Block) : Nat := bits b.h0.toNat 42 5
def blockNbnd (b : Block) : Nat := bits b.h0.toNat 38 4

/-- An input binding (R54): from a frame slot or a channel, into a slot's field. -/
structure Binding where
  frame : Bool
  src : Nat
  slot : Nat
  field : Field
deriving DecidableEq, Repr

def Binding.ofBits (x : Nat) : Binding :=
  ⟨bits x 15 1 == 1, if bits x 15 1 = 1 then bits x 8 7 else bits x 8 5, bits x 3 5,
    match bits x 1 2 with
    | 0 => .l
    | 1 => .r
    | _ => .p⟩

def blockBinding (b : Block) (i : Nat) : Binding :=
  if i < 2 then .ofBits (bits b.h0.toNat (16 * (1 - i)) 16) else .ofBits (bits b.h1.toNat (16 * (5 - i)) 16)

def blockBindings (b : Block) : List Binding := (upFrom (min (blockNbnd b) 6) 0).map (blockBinding b)

/-! ## Channels and ports of a node -/

/-- A channel's key in a node's table, and a port's. -/
def chanKey (chan : Nat) (c : Colour) : Nat := chan * 256 + c.toNat
def portKey (net : Net) (port : Nat) (c : Colour) : Nat := (net.toBits.toNat * 32 + port) * 256 + c.toNat

def ChanState.zero : ChanState := ⟨false, false, none, [], 0, []⟩

/-- An output port of a node, where its configuration binds one. -/
def outPortOf (n : NodeRec) (net : Net) (p : Nat) : Option OutPort := n.outs.find? fun o => o.net == net && o.port == p

def NodeState.chan (n : NodeState) (chan : Nat) (c : Colour) : ChanState := tgetD ChanState.zero n.chans (chanKey chan c)

/-- A port's state for a colour: at first its initial credit alone (15 R264). -/
def NodeState.portOf (n : NodeState) (net : Net) (p : Nat) (c : Colour) : PortState :=
  tgetD ⟨false, ((outPortOf n.info net p).map OutPort.credit).getD 0, 0, []⟩ n.ports (portKey net p c)

def NodeState.setChan (n : NodeState) (chan : Nat) (c : Colour) (x : ChanState) : NodeState :=
  { n with chans := tput n.chans (chanKey chan c) x }

def NodeState.setPort (n : NodeState) (net : Net) (p : Nat) (c : Colour) (x : PortState) : NodeState :=
  { n with ports := tput n.ports (portKey net p c) x }

/-! ## The slot that fires -/

/-- Where an instruction fires, with what it needs of its surroundings. -/
structure Ctx where
  core : Nat
  frame : Nat
  idx : Nat
  slot : Nat
  a : Activation
  w : Wave
  n : NodeState
  b : Block

def Ctx.who (x : Ctx) : Who := ⟨x.core, x.frame, x.a.uid, x.idx, x.slot, x.a.colour, x.w.run⟩
def Ctx.width (x : Ctx) : Nat := x.a.width
def Ctx.colour (x : Ctx) : Colour := x.a.colour

def ctxAt (s : State) (core frame idx slot : Nat) : Option Ctx :=
  match s.m.act? core frame with
  | none => none
  | some a =>
    match a.wave? idx, s.m.node? core a.node with
    | some w, some n => (tget? n.blocks w.block.toNat).map fun b => ⟨core, frame, idx, slot, a, w, n, b⟩
    | _, _ => none

def ctx? (s : State) : Option Ctx := ctxAt s s.m.cur.core s.m.cur.frame s.m.cur.wave s.m.cur.slot

/-- The context as it stands after earlier effects of the same step. -/
def Ctx.again (x : Ctx) (s : State) : Option Ctx := ctxAt s x.core x.frame x.idx x.slot

def Ctx.fields (x : Ctx) : Slot := x.w.slots.getD x.slot ⟨none, none, none, false, false, false, true⟩

/-- Whether a configuration's sites issue: resident, or wedging, where nodes fire what they can (01 R30, 16 R277). -/
def State.issues (s : State) (cfg : Nat) : Bool :=
  match tget? s.m.pkg.confs cfg with
  | none => true
  | some c =>
    match c.phase with
    | .resident => true
    | .gating => true
    | .wedging => true
    | _ => false

/-- The configuration that a core belongs to. -/
def State.confAt (s : State) (core : Nat) : Option ConfState :=
  (s.m.pkg.confs.find? fun (_, f) => f.slabs.contains (slabOf core)).map Prod.snd

/-- Whether a core's configuration stands, or none does: until its image and its state do, its sites take no token (15 R255). -/
def State.takes (s : State) (core : Nat) : Bool :=
  match s.confAt core with
  | some f => !([CfgPhase.loading, .restoring, .restored].contains f.phase)
  | none => true

/-- No earlier wave of the activation is uncommitted (R24, R104). -/
def Ctx.first (x : Ctx) : Bool := x.a.waves.all fun v => x.idx ≤ v.idx

/-- A wave whose block holds a capsule instruction fires only after every earlier wave has committed (07 R137). -/
def Ctx.capsuleWait (x : Ctx) : Bool := 0 < blockCount x.b isCapsuleOp && !x.first

/-- An uncommitted wave at or before this one holds an `xfence` that is not performed (17 R295). -/
def Ctx.fenced (s : State) (x : Ctx) : Bool :=
  x.a.waves.any fun v => v.idx ≤ x.idx &&
    (match (s.m.node? x.core x.a.node).bind fun n => tget? n.blocks v.block.toNat with
      | some b => (blockAll b).any fun (i, o, _) => o == 0x185 && !((v.slots[i]?.map Slot.fired).getD true)
      | none => false)

/-- R21, R33: the slot has not fired, every field it uses is present, and nothing holds the wave. -/
def Ctx.ready (s : State) (x : Ctx) (o : Nat) (f : Form) : Bool :=
  let fs := x.fields
  !fs.fired && !x.w.fault && !(x.a.waves.any fun v => v.fault && v.idx < x.idx) && !x.a.spilled && !x.n.frozen &&
    s.issues x.a.cfg && !s.halted x.core && !x.capsuleWait &&
    (!usesL o f || fs.l.isSome) && (!usesR o f || fs.r.isSome) && (!usesP f || fs.p.isSome)

/-- R18: the sequence of the first present operand in the order L, R, P, else the activation's. -/
def Ctx.seq (x : Ctx) : BitVec 16 :=
  match x.fields.l, x.fields.r, x.fields.p with
  | some t, _, _ => t.seq
  | _, some t, _ => t.seq
  | _, _, some t => t.seq
  | _, _, _ => x.a.seq

def Ctx.tok (x : Ctx) (kind : Kind) (lanes : List Lane) : Token := mkTok x.colour kind x.seq lanes
def Ctx.data (x : Ctx) (lanes : List Lane) : Token := x.tok .data (padLanes x.width lanes)

/-- A token under the tag that its field gives it (01 R19). -/
def Ctx.tagged (x : Ctx) (t : Token) : Token :=
  { t with frame := BitVec.ofNat 10 x.frame, wave := BitVec.ofNat 8 x.idx }

/-- The operand that an error of the result is laid to: L, else R, else none, at the context's width (log 102). -/
def Ctx.cause (x : Ctx) : Token := (x.fields.l.orElse fun _ => x.fields.r).getD (x.data [])

/-- `error_token(code)` of an operand (00 R5): under its tag, with its width and its sequence (01 R18). -/
def Ctx.errOf (x : Ctx) (t : Token) (code : ErrCode) : Token := errFor (x.tagged t) code

def Ctx.err (x : Ctx) (code : ErrCode) : Token := x.errOf x.cause code

/-- The tag under which an operand lies in its field: what a fault record names (16 R281). -/
def Ctx.tagOf (x : Ctx) (t : Token) : Nat :=
  { t with frame := BitVec.ofNat 10 x.frame, slot := BitVec.ofNat 5 x.slot, wave := BitVec.ofNat 8 x.idx }.tag.toNat

/-- `fault(code)` of the firing instruction (R5). -/
def Ctx.fault (x : Ctx) (code : Nat) : Act := takeFault x.who code 0 0 x.seq 0
def Ctx.faultAt (x : Ctx) (code addr : Nat) : Act := takeFault x.who code 0 addr x.seq 0
def Ctx.faultDetail (x : Ctx) (code detail addr : Nat) : Act := takeFault x.who code detail addr x.seq 0

/-- Whatever follows a fault of the same firing does not happen (R5). -/
def Ctx.unless (x : Ctx) (a : Act) : Act := .look fun s =>
  match x.again s with
  | some y => if y.w.fault then .quiet else a
  | none => .quiet

def Ctx.mod (x : Ctx) (f : Wave → Wave) : Act := modWave x.core x.frame x.idx f

/-- An effect recorded for the commit. -/
def Ctx.record (x : Ctx) (c : CAct) : Act := x.mod fun w => { w with acts := w.acts ++ [(x.slot, c)] }

/-- A wave whose instruction has read an operand, performed an operator or sent a command holds something from outside
(R29). -/
def Ctx.touch (x : Ctx) : Act := x.mod fun w => { w with outside := true }

/-! ## Delivery -/

/-- One more output; beyond the header's count the wave faults (R23). -/
def Ctx.countOut (x : Ctx) : Act := .look fun s =>
  match x.again s with
  | none => .quiet
  | some y =>
    if y.w.outputs + 1 > blockNout x.b then x.fault Code.commitCount else x.mod fun w => { w with outputs := w.outputs + 1 }

/-- One more store performed or nullified (R23). -/
def Ctx.countStore (x : Ctx) : Act := .look fun s =>
  match x.again s with
  | none => .quiet
  | some y =>
    if y.w.stores + 1 > blockNst x.b then x.fault Code.commitCount else x.mod fun w => { w with stores := w.stores + 1 }

def Slot.put (v : Slot) (f : Field) (t : Token) : Slot :=
  match f with
  | .l => { v with l := some t, seenL := true }
  | .r => { v with r := some t, seenR := true }
  | .p => { v with p := some t, seenP := true }

def Slot.seen (v : Slot) : Field → Bool
  | .l => v.seenL
  | .r => v.seenR
  | .p => v.seenP

/-- The field of a slot, if it holds a token. -/
def Slot.get (v : Slot) : Field → Option Token
  | .l => v.l
  | .r => v.r
  | .p => v.p

def Slot.empty : Slot := ⟨none, none, none, false, false, false, false⟩

/-- Whether a field that waits is bound to a channel closed for the colour, from which no token can come any more (R29). -/
def Ctx.closedField (s : State) (x : Ctx) (f : Field) : Bool :=
  !x.fields.seen f && (blockBindings x.b).any fun b =>
    !b.frame && b.slot == x.slot && b.field == f && !x.w.chans.contains b.src && (x.n.chan b.src x.colour).closed &&
      (x.n.chan b.src x.colour).queue == [] &&
      !(s.m.core x.core).spill.any fun y => match y with
        | .chan nd ch t _ => nd == x.a.node && ch == b.src && t.colour == x.colour
        | _ => false

/-- What stands in the slot. -/
def Ctx.ins (x : Ctx) : Option (Nat × Form) := blockIns x.b x.slot

/-- The instructions whose unmatched tokens R31 never replaces: the predicated ones, `steer`, `merge` and `gate`. -/
def imbalanced (o : Nat) (f : Form) : Bool := usesP f || [0x023, 0x024, 0x025].contains o

/-- A token under the tag of a field of the slot. -/
def Ctx.inField (x : Ctx) (f : Field) (t : Token) : Token :=
  { x.tagged t with slot := BitVec.ofNat 5 x.slot, field := f.toBits }

/-- The first token that waits in the slot, in the order L, R, P, with its field. -/
def Ctx.waiting (x : Ctx) : Option (Field × Token) :=
  [Field.l, Field.r, Field.p].findSome? fun f => (x.fields.get f).map fun t => (f, t)

/-- R29, R31: a waiting operand whose partner is bound to a closed channel. The partner is taken as UNPAIRED; in a predicated
instruction, a `steer`, a `merge` or a `gate` it is PRED_IMBAL (log 44). -/
def unpaired (core frame idx slot : Nat) (missing : Field) : Act := .look fun s =>
  match ctxAt s core frame idx slot with
  | none => .quiet
  | some x =>
    match x.ins, x.waiting with
    | some (o, g), some (f, t) =>
      if usesField o g missing && x.closedField s missing && !x.w.fault && !x.fields.fired then
        if imbalanced o g then tokenFault x.who Code.predImbal (x.inField f t)
        else
          x.mod fun v => { v with
            slots := setAt v.slots slot ((v.slots.getD slot Slot.empty).put missing (errFor (x.tagged t) errUnpaired))
            outside := true }
      else .quiet
    | _, _ => .quiet

/-- R29 and R31 for every field of a slot. -/
def unpairedSlot (core frame idx slot : Nat) : Act :=
  Act.seq [unpaired core frame idx slot .l, unpaired core frame idx slot .r, unpaired core frame idx slot .p]

/-- The kinds that no window field takes (R17). -/
def unmatched (k : Kind) : Bool := [Kind.eos, .wedge, .demand, .reserved].contains k

/-- What a restart runs over again: operands that wait on channels closed meanwhile (R29, R31). -/
def sweepAct (core frame : Nat) : Act := .look fun s =>
  match s.m.act? core frame with
  | some a => Act.each a.waves fun w => Act.each (upFrom w.slots.length 0) fun i => unpairedSlot core frame w.idx i
  | none => .quiet

/-- The frozen wave of an activation runs again (R34). -/
def rerunAct (core frame : Nat) : Act := (resumeAct core frame).andThen (sweepAct core frame)

/-- A token into a window field (R20): BAD_KIND, FIELD_UNUSED, DUP_OPERAND with the first token kept, or matched. A token from
outside the wave is copied for re-execution (R25, log 17). -/
def intoWindow (w : Who) (slot : Nat) (f : Field) (t : Token) (outside : Bool) : Act := .look fun s =>
  match ctxAt s w.core w.frame w.wave slot with
  | none => .quiet
  | some x =>
    let bad (code : Nat) : Act := tokenFault x.who code (x.inField f t)
    if unmatched t.kind then bad Code.badKind
    else
      match blockIns x.b slot with
      | none => bad Code.fieldUnused
      | some (o, g) =>
        if !usesField o g f then bad Code.fieldUnused
        else if x.fields.seen f then bad Code.dupOperand
        else (modWave w.core w.frame w.wave fun v => { v with
          slots := setAt v.slots slot ((v.slots.getD slot Slot.empty).put f t)
          outside := v.outside || outside
          bound := if outside then v.bound ++ [(slot, f, t)] else v.bound }).andThen
            (unpairedSlot w.core w.frame w.wave slot)

/-- A predicate leaves on a control port with lane 0 bit 0 alone (R41). -/
def ctlToken (t : Token) : Token := { t with lanes := [t.lane0 &&& 1] }

/-- A token as it leaves (04 R97): error, poison and stop tokens at the width of the activation, or the one that `pack` and `unpack`
give, twice it and half of it (06 R122), with lane 0 kept. -/
def Ctx.fit (x : Ctx) (t : Token) : Token :=
  if t.kind = .data then t
  else
    match x.ins with
    | some (0x00A, _) => { t with lanes := t.lane0 :: List.replicate (2 * x.width - 1) 0 }
    | some (0x00B, _) => { t with lanes := t.lane0 :: List.replicate (x.width / 2 - 1) 0 }
    | _ => { t with lanes := padLanes x.width t.lanes }

/-- `deliver(target, token)` (R5, R39, R40): a window operand at once, anything else at commit. -/
def Ctx.deliver (x : Ctx) (tg : Target) (t : Token) : Act :=
  match tg with
  | .null => .quiet
  | .window s f => x.unless (intoWindow x.who s.toNat f t false)
  | .frame n => x.unless (x.countOut.andThen (x.unless (x.record (.frame n.toNat t))))
  | .port net p =>
    x.unless (x.countOut.andThen (x.unless (x.record (.out net p.toNat (if net = .control then ctlToken t else x.fit t)))))
  | .reply =>
    x.unless (match x.a.reply with
      | none => x.fault Code.noReply
      | some r => x.countOut.andThen (x.unless (x.record (.answer r (x.fit t)))))
  | .sink => x.unless (x.countOut.andThen (x.unless (x.record (.sink t))))

/-- The reply target that a window target T0 of such an instruction names: a slot of the next wave (R121). -/
def Ctx.replyTarget (x : Ctx) (c : Common) : Option Reply :=
  match c.t0 with
  | .window s f => some ⟨x.core, x.a.colour, x.frame, x.a.uid, x.idx + 1, s, f⟩
  | _ => none

/-- A token to T0, which may be a reply target. -/
def Ctx.deliver0 (x : Ctx) (c : Common) (t : Token) : Act :=
  match x.ins, x.replyTarget c with
  | some (o, f), some r => if isReplyOp o f then x.unless (x.record (.answer r (x.fit t))) else x.deliver c.t0 t
  | _, _ => x.deliver c.t0 t

/-- `emit` (R21): to both targets. -/
def Ctx.emit (x : Ctx) (c : Common) (t : Token) : Act :=
  (x.deliver0 c t).andThen (x.deliver c.t1 t)

/-- An error or poison predicate's token to one target: a sink counts as an output, and no counter moves (R21). -/
def Ctx.quietTo (x : Ctx) (tg : Target) (a : Act) : Act :=
  match tg with
  | .sink => x.unless x.countOut
  | _ => a

def Ctx.emitQuiet (x : Ctx) (c : Common) (t : Token) : Act :=
  (x.quietTo c.t0 (x.deliver0 c t)).andThen (x.quietTo c.t1 (x.deliver c.t1 t))

/-- A null output for a target that counts (R21). -/
def Ctx.nullOut (x : Ctx) (tg : Target) : Act :=
  match tg with
  | .null => .quiet
  | .window _ _ => .quiet
  | _ => x.unless x.countOut

def Ctx.nullOuts (x : Ctx) (c : Common) : Act := (x.nullOut c.t0).andThen (x.nullOut c.t1)

/-! ## The chain of memory operators (R27) -/

def Ctx.performed (x : Ctx) (sqo sqs : BitVec 5) : Act :=
  x.mod fun w => { w with own := sqo, succ := sqs, memDone := w.memDone + 1, outside := true }

/-- The memory operators of an uncommitted wave that are still to be performed; a `twait` is performed for later waves when
it is answered (13 R222). -/
def State.memLeft (s : State) (core node : Nat) (v : Wave) : Bool :=
  match (s.m.node? core node).bind fun n => tget? n.blocks v.block.toNat with
  | some b => v.memDone < blockCount b fun o => isMemOp o || o == 0x164
  | none => false

/-- Whether a wave holds an atomic for its commit. -/
def Wave.atomics (v : Wave) : Bool := v.acts.any fun (_, a) =>
  match a with
  | .store _ (.atomic _ _) .. => true
  | _ => false

/-- An operator's place in the chain of its block has come (R27). -/
def Ctx.chainPlace (x : Ctx) (sqp sqo : BitVec 5) : Bool :=
  if x.w.own = 0 && x.w.succ = 0 then sqp = 0 else sqp = x.w.own || (sqp = 31 && x.w.succ = sqo)

/-- R27: whether an operator may go. An atomic of an earlier wave is performed for it once it is answered (10 R185). -/
def Ctx.chainOk (s : State) (x : Ctx) (sqp sqo : BitVec 5) : Bool :=
  !(x.a.waves.any fun v => v.idx < x.idx && (s.memLeft x.core x.a.node v || v.atomics)) && x.a.answers == [] && !x.fenced s &&
    x.chainPlace sqp sqo

/-! ## Operand precedence -/

/-- The greatest stop level among tokens (R29). -/
def maxLevel (ts : List Token) : Nat := ts.foldl (fun m t => max m t.stopLevel) 0

/-- A stop token of a level (R17). -/
def Ctx.stopTok (x : Ctx) (level : Nat) : Token := x.tok .stop (padLanes x.width [BitVec.ofNat 32 level])

/-- A token passed on: at the context width (R11, log 16), with the sequence of R18. -/
def Ctx.pass (x : Ctx) (t : Token) : Token := x.tok t.kind (padLanes x.width t.lanes)

/-- `stop_rule` (R29), and the width check of R21, on operands that are neither error nor poison. -/
def Ctx.mixed (x : Ctx) (ops : List Token) : Option Token :=
  match ops.find? fun u => u.kind = .stop with
  | some u => some (if ops.all fun v => v.kind = .stop then x.stopTok (maxLevel ops) else x.errOf u errStopMix)
  | none => (ops.find? fun u => u.lanes.length ≠ x.width).map fun u => x.errOf u errWidth

/-- What data operands emit before they reach `execute` (R21, R29, R103): `c` is a frame operand, after L and R. -/
def Ctx.early (x : Ctx) (ops : List Token) (c : Option Token) : Option Token :=
  match ops.find? fun t => t.kind = .poison with
  | some t => some (x.pass t)
  | none =>
    match ops.find? fun t => t.kind = .error with
    | some t => some (x.pass t)
    | none =>
      match c with
      | some t =>
        if t.isBad then some (x.pass t) else x.mixed (ops ++ [t])
      | none => x.mixed ops

/-- The token of a computed result (R68). -/
def Ctx.result (x : Ctx) (r : Result) : Token :=
  match r with
  | .ok ls => x.tok .data ls
  | .error e => x.err e

/-! ## Firing -/

/-- The fields are read and the slot is done for this wave (R21). -/
def Ctx.consume (x : Ctx) : Act :=
  x.mod fun w => { w with
    slots := setAt w.slots x.slot { x.fields with l := none, r := none, p := none, fired := true } }

/-- Whether an instruction reads a frame operand c (05 R103): an arity of three, or an accumulating dot product. -/
def readsC (o : Nat) (f : FormA) : Bool :=
  [0x065, 0x07E, 0x07F, 0x0C3].contains o || ([0x085, 0x086, 0x0D5, 0x0D6].contains o && f.sub.getLsbD 4)

/-- Pending loads of a wave. -/
def Pend.isLoad (p : Pend) : Bool :=
  match p.kind with
  | .load _ => true
  | .ldp => true
  | .link _ _ _ => true
  | .dsb _ _ _ => true
  | _ => false

/-- Whether a wave holds a store-class event for its commit. -/
def Wave.stored (v : Wave) : Bool := v.acts.any fun (_, a) =>
  match a with
  | .store .. => true
  | _ => false

/-- 10 R187: every load before it answered, every store-class event of earlier waves committed (log 94), and acknowledged or
answered. -/
def Ctx.fenceOk (x : Ctx) : Bool :=
  !(x.w.pend.any Pend.isLoad) && !(x.a.waves.any fun v => v.idx < x.idx && v.stored) && x.a.unacked == 0 && x.a.answers == []

/-- 17 R295: what an `xfence` of a mask waits for; bit i of the mask is class i of 00 R8. -/
def Ctx.xfenceOk (x : Ctx) (mask : Nat) : Bool :=
  (bits mask 0 1 == 0 || (x.a.unacked == 0 && x.a.answers == [])) &&
    [1, 2, 3, 5].all fun i => bits mask i 1 == 0 || tgetD 0 x.a.cmdsOut i == 0

def xfenceMask (f : FormA) : Nat := f.ty.toNat % 2 * 32 + f.sub.toNat

/-- What an instruction waits for beside its operands: its place in the chain (R27), or every earlier wave's commit (R104,
07 R137, 17 R289, R295). -/
def Ctx.gate (s : State) (x : Ctx) (o : Nat) (f : Form) : Bool :=
  match f with
  | .m g => x.chainOk s g.sqp g.sqo && (o != 0x134 || x.fenceOk)
  | .k _ => x.first
  | .x _ => x.first
  | .a g => if o = 0x185 then x.first && x.xfenceOk (xfenceMask g) else !(readsC o g || o == 0x021) || x.first
  | _ => true

/-- Whether an instruction of the oldest wave is to be performed, now or once what it waits for at homes and units has come: acknowledgements
and answers of earlier waves, its own loads (10 R187), commands (17 R295). -/
def Ctx.due (s : State) (x : Ctx) (o : Nat) (f : Form) : Bool :=
  match f with
  | .m g => x.chainPlace g.sqp g.sqo && !x.fenced s
  | .a _ => o == 0x185 || x.gate s o f
  | _ => x.gate s o f

/-- The instruction targets `rp` in an activation that has no reply target (02 R40). -/
def Ctx.lacksReply (x : Ctx) (c : Common) : Bool := x.a.reply.isNone && (c.t0 = .reply || c.t1 = .reply)

/-- The instruction acts, unless it lacks the reply target that it names (R40, log 103). -/
def Ctx.act (x : Ctx) (c : Common) (body : Ctx → Act) : Act := if x.lacksReply c then x.fault Code.noReply else body x

/-- The firing of the current slot: readiness and the instruction's own gate, then the predicate (R21). `nul` is what a
nullified instruction does beside its null outputs. -/
def fire (o : Nat) (f : Form) (nul : Ctx → Act) (body : Ctx → Act) : Act := .look fun s =>
  match ctx? s with
  | none => .quiet
  | some x =>
    if !(x.ready s o f && x.gate s o f) then .quiet
    else
      let c := f.common
      let off := (x.nullOuts c).andThen (x.unless (nul x))
      (x.consume).andThen
        (if x.w.skip = some x.slot then off
        else
          match c.pm, x.fields.p with
          | .always, _ => x.act c body
          | _, none => .quiet
          | pm, some p =>
            if p.isBad then (x.emitQuiet c (x.pass p)).andThen (x.unless (nul x))
            else if (p.lane0.getLsbD 0) = (pm = .onTrue) then x.act c body
            else off)

def noNull (_ : Ctx) : Act := .quiet

/-! ## Frame slots (R11, R18; 07 R131, R136) -/

/-- Chunk k of a tile at width w (R131). -/
def Capsule.chunk (c : Capsule) (w k : Nat) : List Lane := bytesLanes ((c.tile.drop (4 * w * k)).take (4 * w)) w

/-- Whether a chunk covers a word beyond correction (09 R173). -/
def Capsule.chunkHurt (c : Capsule) (w k : Nat) : Bool := c.hurt.any fun i => 4 * w * k < 8 * i + 8 && 8 * i < 4 * w * (k + 1)

/-- What a read of frame slot n delivers. -/
def Activation.slotTok (a : Activation) (n : Nat) : Token :=
  match a.kind, a.held with
  | .capsule, some h => mkTok a.colour (if h.cap.chunkHurt a.width n then .poison else .data) h.cap.seqNo (h.cap.chunk a.width n)
  | _, _ => tgetD (mkTok a.colour .data a.seq (List.replicate a.width 0)) a.slots n

/-! ## The shape of an instruction that computes (05 R103) -/

/-- L and R, the immediate in R's place. -/
def Ctx.opL (x : Ctx) : List Token := x.fields.l.toList
def Ctx.opR (x : Ctx) : List Token := x.fields.r.toList
def Ctx.lanesL (x : Ctx) : List Lane := (x.fields.l.map Token.lanes).getD []
def Ctx.lanesR (x : Ctx) (f : FormA) : List Lane :=
  if f.immf then immLanes f.ty.toNat f.imm x.width else (x.fields.r.map Token.lanes).getD []

/-- Whether a paired type meets an odd width (R105). -/
def oddPair (ty w : Nat) : Bool := ty == 1 && w % 2 == 1

/-- Arity 1: one data operand. -/
def alu1 (o : Nat) (f : FormA) (op : List Lane → List Lane → List Lane → Result) : Act :=
  fire o (.a f) noNull fun x =>
    x.emit f.c ((x.early x.opL none).getD
      (if oddPair f.ty.toNat x.width then x.err errWidth else x.result (op x.lanesL x.lanesL x.lanesL)))

/-- Arity 2: L, and R or the immediate. -/
def alu2 (o : Nat) (f : FormA) (op : List Lane → List Lane → List Lane → Result) : Act :=
  fire o (.a f) noNull fun x =>
    x.emit f.c ((x.early (x.opL ++ x.opR) none).getD
      (if oddPair f.ty.toNat x.width then x.err errWidth
       else x.result (op x.lanesL (x.lanesR f) (x.lanesR f))))

/-- Arity 3: c from frame slot SUB, as the last committed wave left it (R104). -/
def alu3 (o : Nat) (f : FormA) (op : List Lane → List Lane → List Lane → Result) : Act :=
  fire o (.a f) noNull fun x =>
    let c := x.a.slotTok f.sub.toNat
    x.emit f.c ((x.early (x.opL ++ x.opR) (some c)).getD
      (if oddPair f.ty.toNat x.width then x.err errWidth
       else x.result (op x.lanesL (x.lanesR f) (padLanes x.width c.lanes))))

/-- An accumulating dot product: c from frame slot SUB[3:0] when SUB[4] is set. -/
def aluDot (o : Nat) (f : FormA) (op : Bool → List Lane → List Lane → List Lane → Result) : Act :=
  let acc := f.sub.getLsbD 4
  fire o (.a f) noNull fun x =>
    let c := x.a.slotTok (f.sub.toNat % 16)
    x.emit f.c ((x.early (x.opL ++ x.opR) (if acc then some c else none)).getD
      (x.result (op acc x.lanesL (x.lanesR f) (padLanes x.width c.lanes))))

end Sys2Proof.Machine
end

