-- ==== Sys2Proof/Machine/Arith.lean ====
section
/-! DEFINITION. The integer and address instructions (spec 05 R107 to R110): one meaning each, over the operand shapes of
Fire and the element operations of Alu. -/

namespace Sys2Proof.Machine

/-- R108: (a + b) mod 2^n. -/
def execAdd (f : FormA) (s : State) : Host.Outcome State Fault Refusal :=
  .next ((alu2 0x060 f (wrapOp f.ty.toNat fun a b _ => a + b)).run s)

/-- R108: (a - b) mod 2^n. -/
def execSub (f : FormA) (s : State) : Host.Outcome State Fault Refusal :=
  .next ((alu2 0x061 f (wrapOp f.ty.toNat fun a b _ => a - b)).run s)

/-- R108: (a × b) mod 2^n. -/
def execMul (f : FormA) (s : State) : Host.Outcome State Fault Refusal :=
  .next ((alu2 0x062 f (wrapOp f.ty.toNat fun a b _ => a * b)).run s)

/-- R108: upper half of the signed product. -/
def execMulhi (f : FormA) (s : State) : Host.Outcome State Fault Refusal :=
  .next ((alu2 0x063 f (mulHigh f.ty.toNat)).run s)

/-- R108: upper half of the unsigned product. -/
def execMulhn (f : FormA) (s : State) : Host.Outcome State Fault Refusal :=
  .next ((alu2 0x064 f (mulHigh f.ty.toNat)).run s)

/-- R108: (a × b + c) mod 2^n. -/
def execMad (f : FormA) (s : State) : Host.Outcome State Fault Refusal :=
  .next ((alu3 0x065 f (wrapOp f.ty.toNat fun a b c => a * b + c)).run s)

/-- R108: truncated towards zero. -/
def execDiv (f : FormA) (s : State) : Host.Outcome State Fault Refusal :=
  .next ((alu2 0x066 f (divOp f.ty.toNat Int.tdiv)).run s)

/-- R108: unsigned quotient. -/
def execDivn (f : FormA) (s : State) : Host.Outcome State Fault Refusal :=
  .next ((alu2 0x067 f (divOp f.ty.toNat Int.tdiv)).run s)

/-- R108: with the sign of a. -/
def execRem (f : FormA) (s : State) : Host.Outcome State Fault Refusal :=
  .next ((alu2 0x068 f (divOp f.ty.toNat Int.tmod)).run s)

/-- R108: unsigned remainder. -/
def execRemn (f : FormA) (s : State) : Host.Outcome State Fault Refusal :=
  .next ((alu2 0x069 f (divOp f.ty.toNat Int.tmod)).run s)

/-- R108: bitwise. -/
def execAnd (f : FormA) (s : State) : Host.Outcome State Fault Refusal :=
  .next ((alu2 0x06A f (intOp f.ty.toNat fun a b _ => a &&& b)).run s)

/-- R108: bitwise. -/
def execOr (f : FormA) (s : State) : Host.Outcome State Fault Refusal :=
  .next ((alu2 0x06B f (intOp f.ty.toNat fun a b _ => a ||| b)).run s)

/-- R108: bitwise. -/
def execXor (f : FormA) (s : State) : Host.Outcome State Fault Refusal :=
  .next ((alu2 0x06C f (intOp f.ty.toNat fun a b _ => a ^^^ b)).run s)

/-- R108: a AND NOT b. -/
def execAndn (f : FormA) (s : State) : Host.Outcome State Fault Refusal :=
  .next ((alu2 0x06D f (intOp f.ty.toNat fun a b _ => a - (a &&& b))).run s)

/-- R108: NOT a. -/
def execNot (f : FormA) (s : State) : Host.Outcome State Fault Refusal :=
  .next ((alu1 0x06E f (intOp f.ty.toNat fun a _ _ => 2 ^ eltBits f.ty.toNat - 1 - a)).run s)

/-- R108: zeros in. -/
def execShl (f : FormA) (s : State) : Host.Outcome State Fault Refusal :=
  .next ((alu2 0x06F f (shiftOp f.ty.toNat fun a n => a * 2 ^ n)).run s)

/-- R108: zeros in. -/
def execShr (f : FormA) (s : State) : Host.Outcome State Fault Refusal :=
  .next ((alu2 0x070 f (shiftOp f.ty.toNat fun a n => a / 2 ^ n)).run s)

/-- R108: copies of the top bit in. -/
def execSar (f : FormA) (s : State) : Host.Outcome State Fault Refusal :=
  .next ((alu2 0x071 f (shiftOp f.ty.toNat (sarElem (eltBits f.ty.toNat)))).run s)

/-- R108: rotated left. -/
def execRol (f : FormA) (s : State) : Host.Outcome State Fault Refusal :=
  .next ((alu2 0x072 f (shiftOp f.ty.toNat (rolElem (eltBits f.ty.toNat)))).run s)

/-- R108: rotated right. -/
def execRor (f : FormA) (s : State) : Host.Outcome State Fault Refusal :=
  .next ((alu2 0x073 f (shiftOp f.ty.toNat fun a n => rolElem (eltBits f.ty.toNat) a (eltBits f.ty.toNat - n))).run s)

/-- R108: signed minimum. -/
def execMin (f : FormA) (s : State) : Host.Outcome State Fault Refusal :=
  .next ((alu2 0x074 f (wrapOp f.ty.toNat fun a b _ => min a b)).run s)

/-- R108: signed maximum. -/
def execMax (f : FormA) (s : State) : Host.Outcome State Fault Refusal :=
  .next ((alu2 0x075 f (wrapOp f.ty.toNat fun a b _ => max a b)).run s)

/-- R108: unsigned minimum. -/
def execMinn (f : FormA) (s : State) : Host.Outcome State Fault Refusal :=
  .next ((alu2 0x076 f (wrapOp f.ty.toNat fun a b _ => min a b)).run s)

/-- R108: unsigned maximum. -/
def execMaxn (f : FormA) (s : State) : Host.Outcome State Fault Refusal :=
  .next ((alu2 0x077 f (wrapOp f.ty.toNat fun a b _ => max a b)).run s)

/-- R108: |a| mod 2^n. -/
def execAbs (f : FormA) (s : State) : Host.Outcome State Fault Refusal :=
  .next ((alu1 0x078 f (wrapOp f.ty.toNat fun a _ _ => if a < 0 then -a else a)).run s)

/-- R108: (-a) mod 2^n. -/
def execNeg (f : FormA) (s : State) : Host.Outcome State Fault Refusal :=
  .next ((alu1 0x079 f (wrapOp f.ty.toNat fun a _ _ => -a)).run s)

/-- R108: leading zero bits, n when a = 0. -/
def execClz (f : FormA) (s : State) : Host.Outcome State Fault Refusal :=
  .next ((alu1 0x07A f (intOp f.ty.toNat fun a _ _ => clzElem (eltBits f.ty.toNat) a)).run s)

/-- R108: trailing zero bits, n when a = 0. -/
def execCtz (f : FormA) (s : State) : Host.Outcome State Fault Refusal :=
  .next ((alu1 0x07B f (intOp f.ty.toNat fun a _ _ => ctzElem (eltBits f.ty.toNat) a)).run s)

/-- R108: number of one bits. -/
def execPopc (f : FormA) (s : State) : Host.Outcome State Fault Refusal :=
  .next ((alu1 0x07C f (intOp f.ty.toNat fun a _ _ => popElem (eltBits f.ty.toNat) a)).run s)

/-- R109: field extract, sign-extended for .i32. -/
def execBfx (f : FormA) (s : State) : Host.Outcome State Fault Refusal :=
  .next ((alu2 0x07D f (intOp f.ty.toNat fun a b _ => bfxElem (f.ty == 0) a b)).run s)

/-- R109: field insert into c. -/
def execBfi (f : FormA) (s : State) : Host.Outcome State Fault Refusal :=
  .next ((alu3 0x07E f (intOp f.ty.toNat bfiElem)).run s)

/-- R108: b if a ≠ 0, else c. -/
def execSel (f : FormA) (s : State) : Host.Outcome State Fault Refusal :=
  .next ((alu3 0x07F f (intOp f.ty.toNat fun a b c => if a ≠ 0 then b else c)).run s)

/-- R108: 1 if the condition of R45 holds, else 0. -/
def execCmp (f : FormA) (s : State) : Host.Outcome State Fault Refusal :=
  .next ((alu2 0x080 f (intOp f.ty.toNat fun a b _ =>
    if condInt f.sub.toNat (readElem f.ty.toNat a) (readElem f.ty.toNat b) then 1 else 0)).run s)

/-- R108: (a + b × 2^SUB) mod 2^n. -/
def execLea (f : FormA) (s : State) : Host.Outcome State Fault Refusal :=
  .next ((alu2 0x082 f (wrapOp f.ty.toNat fun a b _ => a + b * 2 ^ f.sub.toNat)).run s)

/-- R108: clamped to the range of the type. -/
def execSadd (f : FormA) (s : State) : Host.Outcome State Fault Refusal :=
  .next ((alu2 0x083 f (intOp f.ty.toNat fun a b _ => clampElem f.ty.toNat (readElem f.ty.toNat a + readElem f.ty.toNat b))).run s)

/-- R108: clamped to the range of the type. -/
def execSsub (f : FormA) (s : State) : Host.Outcome State Fault Refusal :=
  .next ((alu2 0x084 f (intOp f.ty.toNat fun a b _ => clampElem f.ty.toNat (readElem f.ty.toNat a - readElem f.ty.toNat b))).run s)

/-- R108: a0 × b0 + a1 × b1 [+ c]. -/
def execDot2i (f : FormA) (s : State) : Host.Outcome State Fault Refusal :=
  .next ((aluDot 0x085 f (dotInt f.ty.toNat)).run s)

/-- R108: Σ ak × bk [+ c]. -/
def execDot4i (f : FormA) (s : State) : Host.Outcome State Fault Refusal :=
  .next ((aluDot 0x086 f (dotInt f.ty.toNat)).run s)

/-- R110, R47: a token of width w filled from the immediate; only the P field can be bad. -/
def execImm (f : FormI) (s : State) : Host.Outcome State Fault Refusal :=
  .next ((fire 0x081 (.i f) noNull fun x => x.emit f.c (x.result (immKind f.kind.toNat f.imm x.width))).run s)

end Sys2Proof.Machine
end

