-- ==== Sys2Proof/Machine/Convert.lean ====
section
/-! DEFINITION. Block formats and the converters: decoding a token of any format to values (spec 03 R69, R70, R72, R73),
encoding values into any format under a converter word (R71, R77 to R80), and the conversion of a whole token (06 R125). -/

namespace Sys2Proof.Machine

/-! ## Formats (02 R43) -/

def isBlockFmt (fmt : Nat) : Bool := 0x0D ≤ fmt && fmt ≤ 0x14
def isDsb (fmt : Nat) : Bool := fmt == 0x0D || fmt == 0x0E

/-- Lanes per block (R72). -/
def blockLanes (fmt : Nat) : Nat :=
  match fmt with
  | 0x0D | 0x0F | 0x10 | 0x14 => 8
  | 0x11 | 0x12 => 6
  | _ => 4

/-- Bits per element of a block format (R69, R70): a block has 32 elements. -/
def blockBits (fmt : Nat) : Nat := blockLanes fmt

/-- The float element of an MX format; `mxi8` has none (R69). -/
def mxFloat (fmt : Nat) : Option FFmt :=
  match fmt with
  | 0x0F => some .e4m3
  | 0x10 => some .e5m2
  | 0x11 => some .e2m3
  | 0x12 => some .e3m2
  | 0x13 => some .e2m1
  | _ => none

/-- emax of an MX element (R69). -/
def mxEmax (fmt : Nat) : Int :=
  match fmt with
  | 0x0F => 8
  | 0x10 => 15
  | 0x11 => 2
  | 0x12 => 4
  | 0x13 => 2
  | _ => 0

/-- The elements that w lanes hold (R72, R125). -/
def fmtElems (fmt w : Nat) : Nat :=
  if isBlockFmt fmt then w / blockLanes fmt * 32 else if fmt = 1 then w / 2 else w * (32 / eltBits fmt)

/-- Whether a width is too small for a format, or odd for a paired one (R72, R105). -/
def fmtWidthBad (fmt w : Nat) : Bool := if isBlockFmt fmt then w < blockLanes fmt else fmt == 1 && w % 2 == 1

/-- Scale entry b of 128 scale bits (R73). -/
def scaleEntry (fmt scale b : Nat) : Nat := if isDsb fmt then bits scale (16 * b) 16 else bits scale (8 * b) 8

/-! ## Decoding -/

def FVal.scaled (v : FVal) (e : Int) : FVal :=
  match v with
  | .fin n m x => .fin n m (x + e)
  | v => v

/-- One element of a block under its scale entry (R69, R70). -/
def blockElem (fmt entry x : Nat) : FVal :=
  if isDsb fmt then
    let mb := if fmt = 0x0D then 6 else 2
    let e : Nat := if bits x (mb + 1) 1 = 1 then bits entry 8 8 else bits entry 0 8
    .fin (bits x mb 1 == 1) (x % 2 ^ mb) ((e : Int) - 127 - (mb - 1 : Nat))
  else
    let s : Int := (entry : Int) - 127
    match mxFloat fmt with
    | some f => (f.decode x).scaled s
    | none => let z := sInt 8 x; .fin (z < 0) z.natAbs (s - 6)

/-- A reserved scale (R69, R70). -/
def scaleReserved (fmt entry : Nat) : Bool :=
  if isDsb fmt then bits entry 0 8 == 255 || bits entry 8 8 == 255 else entry == 255

/-- The values of an integer or float token. -/
def plainVals (fmt : Nat) (ls : List Lane) : List FVal :=
  (elems fmt ls).map fun x =>
    if isFloatTy fmt then (tyFloat fmt).decode x
    else
      let z : Int := if tySigned fmt then sInt (eltBits fmt) x else (x : Int)
      .fin (z < 0) z.natAbs 0

/-- The lanes of a list as one number, lane 0 lowest. -/
def lanesNat : List Lane → Nat
  | [] => 0
  | l :: ls => l.toNat + 2 ^ 32 * lanesNat ls

/-- The values of a block-format token (R72). -/
def blockVals (fmt scale : Nat) (ls : List Lane) : Except ErrCode (List FVal) :=
  let k := blockLanes fmt
  let bs := List.range (ls.length / k)
  if bs.any fun b => scaleReserved fmt (scaleEntry fmt scale b) then .error errScaleRes
  else .ok (bs.flatMap fun b =>
    (splitNat (blockBits fmt) 32 (lanesNat ((ls.drop (b * k)).take k))).map (blockElem fmt (scaleEntry fmt scale b)))

/-- The values of a token of any format. -/
def fmtVals (fmt scale : Nat) (ls : List Lane) : Except ErrCode (List FVal) :=
  if isBlockFmt fmt then blockVals fmt scale ls else .ok (plainVals fmt ls)

/-! ## Encoding -/

/-- A converter node's configuration word (R77). -/
structure Conv where
  rnd : Rnd
  sat : Bool
  dsk : Nat
  mxr : Bool
deriving DecidableEq, Repr

def Conv.ofWord (w : BitVec 32) : Conv :=
  ⟨Rnd.ofCode (bits w.toNat 29 3), w.getLsbD 28, bits w.toNat 24 4, w.getLsbD 23⟩

/-- A finite magnitude as a fraction. -/
def FVal.frac : FVal → Nat × Nat
  | .fin _ m e => dyadic m e
  | _ => (0, 1)

/-- A magnitude over 2^t, rounded to an integer; none where it is infinite. -/
def FVal.quotient (v : FVal) (r : Rnd) (t : Int) : Option Nat :=
  match v with
  | .fin n m e => let (a, b) := dyadic m (e - t); some (r.quot n a b)
  | _ => none

def FVal.isInf : FVal → Bool
  | .inf _ => true
  | _ => false

/-- |a| < |b|. -/
def FVal.absLt (a b : FVal) : Bool :=
  match a, b with
  | .inf _, _ => false
  | _, .inf _ => true
  | a, b =>
    let (n, d) := a.frac
    let (p, q) := b.frac
    n * q < p * d

/-- The largest magnitude of a block. -/
def maxAbs (vs : List FVal) : FVal := vs.foldl (fun m v => if m.absLt v then v else m) (.fin false 0 0)

/-- An element converted to an integer type (R78). -/
def toInteger (c : Conv) (fmt : Nat) (v : FVal) : Except ErrCode Nat :=
  let n := eltBits fmt
  let lo : Int := if tySigned fmt then -(2 : Int) ^ (n - 1) else 0
  let hi : Int := if tySigned fmt then (2 : Int) ^ (n - 1) - 1 else (2 : Int) ^ n - 1
  match v with
  | .nan => .error errNanIn
  | .inf neg => if c.sat then .ok (wrap n (if neg then lo else hi)) else .error errOverflow
  | .fin neg m e =>
    let (a, b) := dyadic m e
    let q : Int := c.rnd.quot neg a b
    let z := if neg then -q else q
    if lo ≤ z && z ≤ hi then .ok (wrap n z)
    else if c.sat then .ok (wrap n (if z < lo then lo else hi))
    else .error errOverflow

/-- An element converted to a float type (R78). -/
def toFloat (c : Conv) (f : FFmt) (v : FVal) : Except ErrCode Nat :=
  match v with
  | .nan => .error errNanIn
  | .inf neg =>
    if c.sat then .ok (f.signed neg f.maxFinite)
    else if f.hasInf then .ok (f.signed neg f.infPat)
    else .error errOverflow
  | .fin neg m e =>
    let (a, b) := dyadic m e
    let p := f.roundPat c.rnd neg a b
    if p ≤ f.maxFinite then .ok (f.signed neg p)
    else if c.sat then .ok (f.signed neg f.maxFinite)
    else if f.hasInf then .ok (f.overflow c.rnd neg)
    else .error errOverflow

/-- q(x, E) of R71 for magnitude bits mb. -/
def dsbQ (c : Conv) (mb : Nat) (v : FVal) (e : Int) : Option Nat := v.quotient c.rnd (e - 127 - (mb - 1 : Nat))

/-- Whether q is at most MMAX. -/
def fitsQ (q : Option Nat) (mmax : Nat) : Bool :=
  match q with
  | some n => n ≤ mmax
  | none => false

/-- R71: the elements and the two exponents of a block. -/
def dsbEncode (c : Conv) (fmt : Nat) (vs : List FVal) : Except ErrCode (List Nat × Nat) :=
  if vs.any FVal.isNan then .error errNanIn
  else
    let mb := if fmt = 0x0D then 6 else 2
    let mmax := 2 ^ mb - 1
    let top := maxAbs vs
    let e : Int :=
      if top.isZero then 0
      else if top.isInf then 255
      else
        let (n, d) := top.frac
        let e := flog n d + 127
        if vs.any fun v => !fitsQ (dsbQ c mb v e) mmax then e + 1 else e
    let e := max e 0
    if 254 < e && !c.sat then .error errOverflow
    else
      let e0 := min e 254
      let e1 := max (e0 - c.dsk) 0
      .ok (vs.map (fun v =>
        let s := if v.signBit then 2 ^ mb else 0
        if v.isZero then s
        else if e1 ≠ e0 && fitsQ (dsbQ c mb v e1) mmax then 2 ^ (mb + 1) + s + (dsbQ c mb v e1).getD 0
        else s + min ((dsbQ c mb v e0).getD mmax) mmax), e0.toNat + 256 * e1.toNat)

/-- An MX element: rounded, and clamped whatever SAT holds (R80). -/
def mxElement (c : Conv) (fmt : Nat) (x : Int) (v : FVal) : Nat :=
  match mxFloat fmt with
  | some f =>
    match v.scaled (127 - x) with
    | .fin neg m e => let (a, b) := dyadic m e; f.signed neg (min (f.roundPat c.rnd neg a b) f.maxFinite)
    | .inf neg => f.signed neg f.maxFinite
    | .nan => 0
  | none =>
    let q := min ((v.quotient c.rnd (x - 127 - 6)).getD 127) 127
    wrap 8 (if v.signBit then -(q : Int) else q)

/-- Whether the block's maximum, rounded, exceeds the largest finite element (R80). -/
def mxAbove (c : Conv) (fmt : Nat) (x : Int) (v : FVal) : Bool :=
  match mxFloat fmt with
  | some f =>
    match v.scaled (127 - x) with
    | .fin _ m e => let (a, b) := dyadic m e; f.maxFinite < f.roundPat c.rnd false a b
    | _ => true
  | none =>
    let (a, b) := (v.scaled (127 + 6 - x)).frac
    127 < c.rnd.quot false a b

/-- R80: the elements and the scale of a block. -/
def mxEncode (c : Conv) (fmt : Nat) (vs : List FVal) : Except ErrCode (List Nat × Nat) :=
  if vs.any FVal.isNan then .error errNanIn
  else
    let top := maxAbs vs
    let x : Int :=
      if top.isZero then 0
      else if top.isInf then 255
      else
        let (n, d) := top.frac
        let x := flog n d - mxEmax fmt + 127
        if c.mxr && mxAbove c fmt x top then x + 1 else x
    if 254 < x && !c.sat then .error errOverflow
    else
      let x := max (min x 254) 0
      .ok (vs.map (mxElement c fmt x), x.toNat)

def blockEncode (c : Conv) (fmt : Nat) (vs : List FVal) : Except ErrCode (List Nat × Nat) :=
  if isDsb fmt then dsbEncode c fmt vs else mxEncode c fmt vs

/-- Groups of 32. -/
def blocksOf : Nat → List FVal → List (List FVal)
  | 0, _ => []
  | n + 1, vs => vs.take 32 :: blocksOf n (vs.drop 32)

/-- The scale bits of a list of block scales (R73). -/
def scaleBits (fmt : Nat) (ss : List Nat) : Nat := joinNat (if isDsb fmt then 16 else 8) ss

/-- Values encoded as one token of w lanes: its lanes and, for a block format, its scale token's four lanes. -/
def fmtEncode (c : Conv) (fmt w : Nat) (vs : List FVal) : Except ErrCode (List Lane × List Lane) :=
  if isBlockFmt fmt then
    (allOk ((blocksOf (w / blockLanes fmt) vs).map (blockEncode c fmt))).map fun bs =>
      let ls := bs.flatMap fun (es, _) => natLanes (blockLanes fmt) (joinNat (blockBits fmt) es)
      ((ls ++ List.replicate w 0).take w, natLanes 4 (scaleBits fmt (bs.map Prod.snd)))
  else
    (allOk (vs.map fun v => if isFloatTy fmt then toFloat c (tyFloat fmt) v else toInteger c fmt v)).map fun xs =>
      ((ofElems fmt xs ++ List.replicate w 0).take w, [])

/-- What a conversion makes: each target's lanes and scale lanes (R125). -/
structure Converted where
  out0 : List Lane
  scale0 : List Lane
  out1 : List Lane
  scale1 : List Lane
deriving DecidableEq, Repr

def padVals (n : Nat) (vs : List FVal) : List FVal := (vs ++ List.replicate n (FVal.fin false 0 0)).take n

/-- R125 for a data token at the context width. -/
def convert (c : Conv) (src dst scale w : Nat) (ls : List Lane) : Except ErrCode Converted :=
  if fmtWidthBad src w || fmtWidthBad dst w then .error errWidth
  else
    let d := fmtElems dst w
    match fmtVals src scale ls with
    | .error e => .error e
    | .ok vs =>
      match fmtEncode c dst w (padVals d vs) with
      | .error e => .error e
      | .ok (a, sa) =>
        match fmtEncode c dst w (padVals d (vs.drop d)) with
        | .error e => .error e
        | .ok (b, sb) => .ok ⟨a, sa, b, sb⟩

end Sys2Proof.Machine
end

