-- ==== Sys2Proof/Machine/Store.lean ====
section
/-! DEFINITION. The matching store of a core (spec 09 R161 to R163): the lines that a colour holds, its minimum partition,
who occupies the core, and whether lines are granted. -/

namespace Sys2Proof.Machine

/-- The lines of the shared region (R161). -/
def sharedLines : Nat := 380

def frameLines (slots w : Nat) : Nat := (slots * 4 * w + 127) / 128
def windowLines (w : Nat) : Nat := 2 * w
def tokenLines (t : Token) : Nat := if t.lanes.length ≤ 30 then 1 else 2

def sumNat (xs : List Nat) : Nat := xs.foldl (· + ·) 0

/-- What the contexts reserved by `ctxa` and not yet started hold (06 R121). -/
def CAct.reservedLines (frame : Nat) : CAct → Nat
  | .ctxa _ w _ => frameLines frame w + windowLines w
  | _ => 0

/-- The frames that an activation's waves have reserved. -/
def CAct.reservedFrame : CAct → List Nat
  | .ctxa f _ _ => [f]
  | _ => []

/-- The lines of one activation: windows, frame, waiting tokens, reservations. A capsule's frame is its tile (07 R136). -/
def Activation.lines (frame : Nat) (a : Activation) : Nat :=
  a.waves.length * windowLines a.width + (if a.kind = .capsule then 0 else frameLines frame a.width) +
    sumNat (a.tagged.map fun (_, t) => tokenLines t) +
    sumNat (a.waves.flatMap fun w => w.acts.map fun (_, c) => c.reservedLines frame)

def ChanState.lines (x : ChanState) : Nat :=
  sumNat (x.queue.map tokenLines) + sumNat (x.hold.toList.map tokenLines)

/-- The lines that a colour holds at a core (R161). -/
def CoreState.held (k : CoreState) (c : Colour) : Nat :=
  sumNat (k.acts.map fun (_, a) =>
    if a.colour = c then a.lines (((tget? k.nodes a.node).map fun n => n.info.frame).getD 0) else 0) +
  sumNat (k.nodes.map fun (_, n) => sumNat (n.chans.map fun (key, x) => if key % 256 = c.toNat then x.lines else 0))

/-- P(c) (R162). -/
def CoreState.partition (k : CoreState) (c : Colour) : Nat :=
  4 * (k.nodes.foldl (fun m (_, n) => if n.info.colours.getLsbD c.toNat then max m n.info.width else m) 0)

def Spilled.colour : Spilled → Colour
  | .chan _ _ t _ => t.colour
  | .tag t => t.colour
  | .reply _ t => t.colour
  | .sent _ t => t.colour
  | .answer w _ _ => w.colour

/-- The token that a spilled item is; an answer to a load is not yet one. -/
def Spilled.tok? : Spilled → Option Token
  | .chan _ _ t _ => some t
  | .tag t => some t
  | .reply _ t => some t
  | .sent _ t => some t
  | .answer _ _ _ => none

/-- Whether a colour awaits room at a core: a token of it has spilled, a creation waits, or an activation is to have its next window. -/
def CoreState.awaits (k : CoreState) (c : Colour) : Bool :=
  k.spill.any (fun x => x.colour == c) || k.creations.any (fun x => x.colour == c) ||
    k.acts.any fun (_, a) => a.colour == c && a.waves == [] && (match a.next with
      | .block _ => true
      | _ => false)

/-- The occupants that still hold or await something. -/
def CoreState.present (k : CoreState) : List Colour := k.occupants.filter fun c => 0 < k.held c || k.awaits c

/-- The lines that no occupant holds or is promised. -/
def CoreState.freeLines (k : CoreState) : Nat :=
  sharedLines - sumNat (k.present.map fun c => max (k.held c) (k.partition c))

/-- Whether a colour may become an occupant (R162); one that comes back from the spoil brings its lines with it. -/
def CoreState.admits (k : CoreState) (c : Colour) : Bool := max (k.held c) (k.partition c) ≤ k.freeLines

/-- Whether n lines are granted to a colour (R162): up to its minimum always; beyond it while no colour waits. -/
def CoreState.grants (k : CoreState) (c : Colour) (n : Nat) : Bool :=
  k.occupants.contains c &&
    (n = 0 || k.held c + n ≤ k.partition c ||
      (k.waiting = [] && k.held c + n - max (k.held c) (k.partition c) ≤ k.freeLines))

/-- A colour that asks for room at a core becomes an occupant at once where no other waits and its minimum is free; else it
joins the admission order (R162). One that holds nothing any more is no occupant. -/
def CoreState.occupy (k : CoreState) (c : Colour) : CoreState :=
  if k.present.contains c then k
  else if k.waiting = [] && k.admits c then { k with occupants := k.present ++ [c] }
  else { k with occupants := k.present, waiting := if k.waiting.contains c then k.waiting else k.waiting ++ [c] }

/-- The lowest free frame identifier of a core: none of an activation's or a reservation's (log 18). -/
def CoreState.freeFrame (k : CoreState) : Option Nat :=
  let taken := k.acts.flatMap fun (f, a) => f :: a.waves.flatMap fun w => w.acts.flatMap fun (_, c) => c.reservedFrame
  (upFrom 1024 0).find? fun f => !taken.contains f

end Sys2Proof.Machine
end

