-- ==== Sys2Proof/Machine/Flow.lean ====
section
/-! DEFINITION. Block control, context, routing, control tokens and conversion (spec 06 R116 to R125): one meaning each. -/

namespace Sys2Proof.Machine

/-! ## Exits (R119, R120) -/

/-- An exit fires: a second one is MULTI_EXIT (R23); the successor's block is known at once (R13). -/
def Ctx.exitTo (x : Ctx) (e : Exit) : Act := .look fun s =>
  match x.again s with
  | none => .quiet
  | some y =>
    if y.w.exit.isSome then x.fault Code.multiExit
    else
      let nb := match e with
        | .block b => NextBlock.block b
        | _ => .ended
      (x.mod fun w => { w with exit := some e }).andThen
        (modAct x.core x.frame fun a => if x.idx + 1 = a.count then { a with next := nb } else a)

/-- A nullified exit has not fired; when every exit of the block is nullified the wave faults (R120). -/
def exitNull (x : Ctx) : Act := .look fun s =>
  match x.again s with
  | none => .quiet
  | some y =>
    if y.w.exitsNull + 1 = blockCount x.b isExitOp then x.fault Code.noExit
    else x.mod fun w => { w with exitsNull := w.exitsNull + 1 }

def Ctx.opTok (x : Ctx) : Token := x.fields.l.getD (x.data [])
def Ctx.selTok (x : Ctx) : Token := x.fields.r.getD (x.data [])

/-- R120: no effect. -/
def execNop (f : FormA) (s : State) : Host.Outcome State Fault Refusal :=
  .next ((fire 0x000 (.a f) noNull fun _ => .quiet).run s)

/-- R119: next = BT0. -/
def execBro (f : FormC) (s : State) : Host.Outcome State Fault Refusal :=
  .next ((fire 0x001 (.c f) exitNull fun x => x.exitTo (.block f.bt0)).run s)

/-- BT1 on error, poison or stop; the first two are counted in the error sink at commit (R119). -/
def Ctx.exitBy (x : Ctx) (f : FormC) (pick : Lane → BitVec 6) : Act :=
  let t := x.opTok
  if t.isBad then (x.exitTo (.block f.bt1)).andThen (x.unless (x.record .errCount))
  else if t.kind = .stop then x.exitTo (.block f.bt1)
  else x.exitTo (.block (pick t.lane0))

/-- R119: BT0 where bit 0 of lane 0 is 1, else BT1. -/
def execBrp (f : FormC) (s : State) : Host.Outcome State Fault Refusal :=
  .next ((fire 0x002 (.c f) exitNull fun x => x.exitBy f fun v => if v.getLsbD 0 then f.bt0 else f.bt1).run s)

/-- R119: BT0 + v where v is at most BT1 - BT0, else BT1. -/
def execBri (f : FormC) (s : State) : Host.Outcome State Fault Refusal :=
  .next ((fire 0x003 (.c f) exitNull fun x => x.exitBy f fun v =>
    if v.toNat ≤ f.bt1.toNat - f.bt0.toNat then BitVec.ofNat 6 (f.bt0.toNat + v.toNat) else f.bt1).run s)

/-- R119: the reply is delivered at commit; RET_DEFAULT in a default activation. -/
def execRet (f : FormC) (s : State) : Host.Outcome State Fault Refusal :=
  .next ((fire 0x005 (.c f) exitNull fun x =>
    if x.a.kind = .default then x.fault Code.retDefault else x.exitTo (.ret x.opTok)).run s)

/-- R119: no successor wave. -/
def execRetire (f : FormC) (s : State) : Host.Outcome State Fault Refusal :=
  .next ((fire 0x006 (.c f) exitNull fun x => x.exitTo .retire).run s)

/-! ## Activations and widths (R121, R122) -/

/-- What a data operand delivers before its instruction acts, else what the instruction does. -/
def Ctx.withData (x : Ctx) (c : Common) (ops : List Token) (act : Act) : Act :=
  match x.early ops none with
  | some t => x.emit c t
  | none => act

/-- R121: at commit, an explicit activation of node `handle` running block `entry`, f0 from L; T0 is a reply target. -/
def execSpawn (f : FormC) (s : State) : Host.Outcome State Fault Refusal :=
  .next ((fire 0x004 (.c f) noNull fun x =>
    x.withData f.c x.opL (x.record (.spawn ⟨x.core, f.handle.toNat, f.entry, x.colour, x.opTok, x.opTok.seq,
      x.replyTarget f.c⟩))).run s)

/-- The widths that `ctxa` tries: r, then ⌈g/2⌉ down to 1 (R121). -/
def ctxWidths : Nat → Nat → List Nat
  | 0, _ => []
  | n + 1, g => if g ≤ 1 then [1] else g :: ctxWidths n ((g + 1) / 2)

/-- R121: the first width for which a frame and the partition's room exist; the reservation is released where the wave does
not commit. -/
def execCtxa (f : FormA) (s : State) : Host.Outcome State Fault Refusal :=
  .next ((fire 0x007 (.a f) noNull fun x =>
    x.withData f.c x.opL (.look fun s =>
      let k := s.m.core x.core
      match k.freeFrame, (ctxWidths 6 (f.sub.toNat + 1)).find? fun g =>
          k.grants x.colour (frameLines x.n.info.frame g + windowLines g) with
      | some fr, some g =>
        (x.record (.ctxa fr g x.opTok)).andThen
          (x.emit f.c (x.data [BitVec.ofNat 32 (g + fr * 2 ^ 16)]))
      | _, _ => x.emit f.c (x.data [0]))).run s)

/-- R121: at commit ends a parked explicit activation of the colour and node; the status leaves then. -/
def execCtxf (f : FormA) (s : State) : Host.Outcome State Fault Refusal :=
  .next ((fire 0x008 (.a f) noNull fun x =>
    let t := x.opTok
    if t.isBad then x.emit f.c (x.pass t)
    else if t.kind = .stop then x.emit f.c (x.err errStopMix)
    else
      Act.seq [x.nullOuts f.c,
        x.unless (x.record (.ctxf (bits t.lane0.toNat 0 10) (x.data []) f.c.t0 f.c.t1))]).run s)

/-- R121: width, wave number, frame and block pointer. -/
def execCtxq (f : FormA) (s : State) : Host.Outcome State Fault Refusal :=
  .next ((fire 0x009 (.a f) noNull fun x =>
    x.emit f.c (x.data [BitVec.ofNat 32 (x.width + x.idx % 256 * 2 ^ 8 + x.frame % 1024 * 2 ^ 16 +
      x.w.block.toNat * 2 ^ 26)])).run s)

/-- R122: one token of width 2w. -/
def execPack (f : FormA) (s : State) : Host.Outcome State Fault Refusal :=
  .next ((fire 0x00A (.a f) noNull fun x =>
    x.withData f.c (x.opL ++ x.opR) (x.emit f.c (x.tok .data (x.lanesL ++ x.selTok.lanes)))).run s)

/-- R122: the halves of L at width w / 2. Of an odd width, which `ctxa` can grant, R122 gives no halves: T0 gets the lower ⌊w / 2⌋ lanes and T1 the
rest (log 146). -/
def execUnpack (f : FormA) (s : State) : Host.Outcome State Fault Refusal :=
  .next ((fire 0x00B (.a f) noNull fun x =>
    x.withData f.c x.opL
      ((x.deliver f.c.t0 (x.tok .data (x.lanesL.take (x.width / 2)))).andThen
        (x.deliver f.c.t1 (x.tok .data (x.lanesL.drop (x.width / 2)))))).run s)

/-! ## Routing (R123) -/

/-- R123: L to both targets. -/
def execMov (f : FormA) (s : State) : Host.Outcome State Fault Refusal :=
  .next ((fire 0x020 (.a f) noNull fun x => x.withData f.c x.opL (x.emit f.c (x.pass x.opTok))).run s)

/-- R123: a frame slot as the last committed wave left it, delivered as it stands. -/
def execLdf (f : FormA) (s : State) : Host.Outcome State Fault Refusal :=
  .next ((fire 0x021 (.a f) noNull fun x =>
    x.emit f.c (x.a.slotTok (f.ty.toNat % 4 * 32 + f.sub.toNat))).run s)

/-- R123: at commit, on port T0, to the activation that R's descriptor names, L or the token that R21 makes of it; a bad or stop
descriptor sends nothing. -/
def execSend (f : FormA) (s : State) : Host.Outcome State Fault Refusal :=
  .next ((fire 0x022 (.a f) noNull fun x =>
    let r := x.selTok
    let t := (x.early x.opL none).getD (x.pass x.opTok)
    if r.isBad then (x.nullOuts f.c).andThen (x.unless (x.record .errCount))
    else if r.kind = .stop then x.nullOuts f.c
    else
      match f.c.t0 with
      | .port net p =>
        x.countOut.andThen (x.unless (x.record
          (.send net p.toNat (BitVec.ofNat 16 (bits r.lane0.toNat 0 16)) r.lane0 t)))
      | _ => .quiet).run s)

/-- What a poison L, the selector R, and then an error or wrong-width L deliver before a routed token (R116; 01 R17, R21; log 106): a
stop in L is routed like data. -/
def Ctx.routed (x : Ctx) (c : Common) (act : Token → Act) : Act :=
  let l := x.opTok
  let r := x.selTok
  if l.kind = .poison then x.emit c (x.pass l)
  else if r.isBad then x.emit c (x.pass r)
  else if r.kind = .stop then x.emit c (x.errOf r errStopMix)
  else if l.kind = .error then x.emit c (x.pass l)
  else if l.kind ≠ .stop && l.lanes.length ≠ x.width then x.emit c (x.errOf l errWidth)
  else act (if l.kind = .stop then x.stopTok l.stopLevel else x.pass l)

/-- R123: to T0 where p is 1, else to T1; the other target records a null output. -/
def execSteer (f : FormA) (s : State) : Host.Outcome State Fault Refusal :=
  .next ((fire 0x023 (.a f) noNull fun x => x.routed f.c fun t =>
    if x.selTok.lane0.getLsbD 0 then (x.deliver f.c.t0 t).andThen (x.nullOut f.c.t1)
    else (x.deliver f.c.t1 t).andThen (x.nullOut f.c.t0)).run s)

/-- R123: L to both targets; R is consumed. -/
def execMerge (f : FormA) (s : State) : Host.Outcome State Fault Refusal :=
  .next ((fire 0x024 (.a f) noNull fun x => x.routed f.c fun t => x.emit f.c t).run s)

/-- R123: L to both targets where p differs from SUB bit 0, else null. -/
def execGate (f : FormA) (s : State) : Host.Outcome State Fault Refusal :=
  .next ((fire 0x025 (.a f) noNull fun x => x.routed f.c fun t =>
    if x.selTok.lane0.getLsbD 0 ≠ f.sub.getLsbD 0 then x.emit f.c t else x.nullOuts f.c).run s)

/-- R123: consumes L; a release of its colour (15 R257). -/
def execDrop (f : FormA) (s : State) : Host.Outcome State Fault Refusal :=
  .next ((fire 0x026 (.a f) noNull fun x => x.record .drop).run s)

/-! ## Control tokens (R124) -/

/-- EOS on one target port, at commit. -/
def Ctx.eosTo (x : Ctx) (tg : Target) : Act :=
  match tg with
  | .port net p => x.unless (x.countOut.andThen (x.unless (x.record (.eos net p.toNat x.seq x.width))))
  | _ => .quiet

/-- R124: EOS on each target port. -/
def execEos (f : FormA) (s : State) : Host.Outcome State Fault Refusal :=
  .next ((fire 0x027 (.a f) noNull fun x => (x.eosTo f.c.t0).andThen (x.eosTo f.c.t1)).run s)

/-- R124: a stop token of level SUB. -/
def execStop (f : FormA) (s : State) : Host.Outcome State Fault Refusal :=
  .next ((fire 0x028 (.a f) noNull fun x => x.emit f.c (x.stopTok f.sub.toNat)).run s)

/-- R124: a stop token of the level in lane 0 [3:0]; null where that is 0. -/
def execStopc (f : FormA) (s : State) : Host.Outcome State Fault Refusal :=
  .next ((fire 0x029 (.a f) noNull fun x =>
    let t := x.opTok
    if t.isBad then x.emit f.c (x.pass t)
    else if t.stopLevel = 0 then x.nullOuts f.c
    else x.emit f.c (x.stopTok t.stopLevel)).run s)

/-- R124: a demand token through port T0; nothing for a count of 0 or a bad or stop R. -/
def execDmd (f : FormA) (s : State) : Host.Outcome State Fault Refusal :=
  .next ((fire 0x02A (.a f) noNull fun x =>
    let r := x.selTok
    let n := bits ((x.lanesR f).headD 0).toNat 0 16
    if !f.immf && r.isBad then (x.nullOuts f.c).andThen (x.unless (x.record .errCount))
    else if (!f.immf && r.kind = .stop) || n = 0 then x.nullOuts f.c
    else
      match f.c.t0 with
      | .port net p => x.countOut.andThen (x.unless (x.record (.demand net p.toNat f.sub.toNat n x.seq)))
      | _ => .quiet).run s)

/-! ## Conversion (R125) -/

/-- The scale bits of a scaled operand (03 R74, R75): its scale token's, or its channel's register as it stands. -/
def Ctx.scaleOf (x : Ctx) (s : State) (t : Token) : Nat :=
  if t.scale ≠ [] then lanesNat t.scale
  else ((tget? (s.m.core x.core).vc t.chan.toNat).map fun v => v.scale.toNat).getD 0

/-- A block-format result to one target: the scale token, then the data token, on a port (03 R74). -/
def Ctx.deliverPair (x : Ctx) (tg : Target) (scale data : Token) : Act :=
  match tg with
  | .port net p => x.unless (x.countOut.andThen (x.unless (x.record (.scaled net p.toNat scale data))))
  | tg => x.deliver tg data

/-- The conversion of L under the node's word, or what L delivers instead. -/
def Ctx.converting (x : Ctx) (f : FormA) (act : Converted → Act) : Act :=
  x.withData f.c x.opL (.look fun s =>
    let t := x.opTok
    match convert (Conv.ofWord (x.n.info.cword.getD 0)) (f.imm.toNat % 32) f.sub.toNat (x.scaleOf s t) x.width t.lanes with
    | .error e => x.emit f.c (x.err e)
    | .ok r => act r)

/-- R125: out0 to T0 and out1 to T1; for a block format each with its scale token, and a second target of a whole result
receives the same pair. -/
def execCvt (f : FormA) (s : State) : Host.Outcome State Fault Refusal :=
  .next ((fire 0x02B (.a f) noNull fun x => x.converting f fun r =>
    if isBlockFmt f.sub.toNat then
      let two := fmtElems f.sub.toNat x.width < fmtElems (f.imm.toNat % 32) x.width
      (x.deliverPair f.c.t0 (x.tok .data r.scale0) (x.tok .data r.out0)).andThen
        (if two then x.deliverPair f.c.t1 (x.tok .data r.scale1) (x.tok .data r.out1)
         else x.deliverPair f.c.t1 (x.tok .data r.scale0) (x.tok .data r.out0))
    else (x.deliver f.c.t0 (x.tok .data r.out0)).andThen (x.deliver f.c.t1 (x.tok .data r.out1))).run s)

/-- R125: out0 to T0, the scale token to T1. -/
def execCvts (f : FormA) (s : State) : Host.Outcome State Fault Refusal :=
  .next ((fire 0x02C (.a f) noNull fun x => x.converting f fun r =>
    (x.deliver f.c.t0 (x.tok .data r.out0)).andThen (x.deliver f.c.t1 (x.tok .data r.scale0))).run s)

end Sys2Proof.Machine
end

