-- ==== Sys2Proof/Machine/Xlate.lean ====
section
/-! DEFINITION. Translation of global addresses by colour (spec 15 R258 to R261) and of places (R249, R240). -/

namespace Sys2Proof.Machine

/-! ## The walk -/

/-- Why an access is not translated (R260). -/
inductive XReason where
  | nomap | cls | write | form | range
deriving DecidableEq, Repr

def XReason.code : XReason → Nat
  | .nomap => 0
  | .cls => 1
  | .write => 2
  | .form => 3
  | .range => 4

/-- Fields of a descriptor (R259). -/
def leafEcm (d : Nat) : Nat := bits d 58 6
def leafWo (d : Nat) : Bool := bits d 57 1 == 1
def leafWr (d : Nat) : Bool := bits d 56 1 == 1
def leafPin (d : Nat) : Bool := bits d 55 1 == 1
def leafTier (d : Nat) : Nat := bits d 52 3
def leafBase (d : Nat) : Nat := bits d 12 40 * 2 ^ 12

/-- Whether a leaf of a page size is well formed (R259, R309, R311, R314). -/
def leafOk (d size : Nat) : Bool :=
  let base := leafBase d
  bits d 2 10 == 0 && base % size == 0 &&
    (match leafTier d with
    | 0 => base + size ≤ hbmSize
    | 1 => !leafWo d && base + size ≤ 2 ^ 44 && base % 2 ^ 42 + size ≤ Config.cxlCapacity (base / 2 ^ 42)
    | 2 => !leafWo d || base + size ≤ 2 ^ 34
    | _ => false)

/-- A virtual device's entry, word i (16 R266). -/
def State.vdevWord (s : State) (v i : Nat) : Nat :=
  (tgetD (0 : BitVec 256) s.m.pkg.vdevs v).toNat / 2 ^ (64 * i) % 2 ^ 64

/-- A table pointer's target: reserved bits zero, in the visible HBM (R259). -/
def tablePtr (d : Nat) : Except XReason Nat :=
  if bits d 0 1 = 0 then .error .nomap
  else if bits d 52 12 ≠ 0 || bits d 1 11 ≠ 0 || hbmSize ≤ leafBase d then .error .form
  else .ok (leafBase d)

/-- A colour's level-0 table (R258). -/
def State.level0 (s : State) (c : Colour) : Except XReason Nat :=
  if c = 0 then (if s.m.pkg.mgmt.c0root < hbmSize then .ok s.m.pkg.mgmt.c0root else .error .form)
  else if !s.bound c then .error .nomap
  else
    let v := s.vdevOf c
    if bits (s.vdevWord v 0) 63 1 = 0 then .error .nomap
    else tablePtr (s.nat (bits (s.vdevWord v 0) 0 48 + 8 * c.toNat) 8)

/-- Table levels: the low index bit, the index width, and the page size of a leaf there, 0 where none may stand. -/
def walkLevels : List (Nat × Nat × Nat) := [(39, 9, 0), (30, 9, 2 ^ 30), (21, 9, 2 ^ 21), (16, 5, 2 ^ 16)]

/-- The walk from a table through the levels left: the leaf and its page size. -/
def walkFrom (s : State) (a : Nat) : Nat → List (Nat × Nat × Nat) → Except XReason (Nat × Nat)
  | _, [] => .error .form
  | t, (lo, n, size) :: rest =>
    let d := s.nat (t + 8 * bits a lo n) 8
    if bits d 0 1 = 0 then .error .nomap
    else if bits d 1 1 = 1 then (if size ≠ 0 && leafOk d size then .ok (d, size) else .error .form)
    else
      match tablePtr d with
      | .error e => .error e
      | .ok t' => walkFrom s a t' rest

/-- The leaf that a colour's tables give for an address (R258). -/
def State.walk (s : State) (c : Colour) (a : Nat) : Except XReason Trans :=
  match s.level0 c with
  | .error e => .error e
  | .ok t =>
    match walkFrom s a t walkLevels with
    | .error e => .error e
    | .ok (d, size) => .ok ⟨c, a / size * size / 2 ^ 16, size / 2 ^ 16, BitVec.ofNat 64 d⟩

/-! ## Checked accesses -/

/-- The home address and the mode of a byte address under a translation. -/
def Trans.home (t : Trans) (a : Nat) : Nat × PageMode :=
  let d := t.leaf.toNat
  let p := leafBase d + (a - t.page * 2 ^ 16)
  ((match leafTier d with
    | 1 => cxlAddr p
    | 2 => hostAddr p
    | _ => p), if leafWo d then .wo else .plain)

/-- A class's access under a translation (R260): class, then write. -/
def Trans.check (t : Trans) (cls : Nat) (write : Bool) (a : Nat) : Except XReason (Nat × PageMode) :=
  let d := t.leaf.toNat
  if bits (leafEcm d) cls 1 = 0 then .error .cls
  else if write && !leafWr d then .error .write
  else .ok (t.home a)

/-- An engine's access, walked as it is made (log 19). -/
def State.xlate (s : State) (c : Colour) (cls : Nat) (write : Bool) (a : Nat) : Except XReason (Nat × PageMode) :=
  if 2 ^ 48 ≤ a then .error .range
  else
    match s.walk c a with
    | .error e => .error e
    | .ok t => t.check cls write a

/-! ## Caches (R261) -/

def Trans.covers (t : Trans) (c : Colour) (a : Nat) : Bool :=
  t.colour == c && t.page ≤ a / 2 ^ 16 && a / 2 ^ 16 < t.page + t.pages

/-- A core's translation: its own cache, then its cluster's. -/
def State.cached (s : State) (core : Nat) (c : Colour) (a : Nat) : Option Trans :=
  ((s.m.core core).tlb.find? fun t => t.covers c a).orElse fun _ =>
    (s.m.cluster (clusterOf core)).tlb.find? fun t => t.covers c a

/-- A cluster cache with a translation put into its set of 4, least recently used out (placement: log 20). -/
def clusterInsert (ts : List Trans) (t : Trans) : List Trans :=
  let rest := ts.filter (· ≠ t)
  let own := rest.filter fun x => x.page % 256 == t.page % 256
  t :: rest.filter fun x => x.page % 256 != t.page % 256 || (own.take 3).contains x

/-- A translation used by a core: the most recent in its cache of 16 and in its cluster's cache. -/
def useTrans (core : Nat) (t : Trans) : Act :=
  (modCore core fun k => { k with tlb := (t :: k.tlb.filter (· ≠ t)).take 16 }).andThen
    (modCluster (clusterOf core) fun k => { k with tlb := clusterInsert k.tlb t })

/-- An operator waits on its die's walk of its page, an existing one where there is one (R261). -/
def waitWalk (w : Who) (page : Nat) : Act := .pkg fun p =>
  let same (x : Walk) : Bool := x.die == siteDie w.core && x.colour == w.colour && x.page == page
  if p.walks.any same then { p with walks := p.walks.map fun x => if same x then { x with waiters := x.waiters ++ [w] } else x }
  else { p with walks := p.walks ++ [⟨siteDie w.core, w.colour, page, [w]⟩] }

/-- The walks in flight at a die's walker: its first 64 (R261). -/
def State.walking (s : State) (die : Nat) : List Walk := (s.m.pkg.walks.filter fun x => x.die == die).take 64

/-! ## Places (R249) -/

/-- The package slab (row × 32 + column) at (a, b) of a rectangle (R240). -/
def ConfState.slabAt (c : ConfState) (a b : Nat) : Nat :=
  let row := c.ot + b
  (if c.bottom then 15 - row else row) * 32 + c.oc + a

/-- The site of index i in a package slab (R239, R240). -/
def slabSite (slab i : Nat) : Nat :=
  let t := slab / 32
  let c := slab % 32
  let (die, sy) := if t < 8 then (c / 8, t) else (c / 8 + 4, 15 - t)
  siteId die (8 * (c % 8) + i % 8) (4 * sy + i / 8)

/-- The site of index i of each slab, slab by slab. -/
def sitesOf (slabs : List Nat) : List Nat := slabs.flatMap fun k => (upFrom 32 0).map (slabSite k)

/-- The index of a site within its slab. -/
def slabIndex (site : Nat) : Nat := siteY site % 4 * 8 + siteX site % 8

/-- Why a place is unreachable (17 R301). -/
inductive PlaceReason where
  | invalid | slice | grant | rect
deriving DecidableEq, Repr

def PlaceReason.code : PlaceReason → Nat
  | .invalid => 1
  | .slice => 2
  | .grant => 3
  | .rect => 4

/-- Whether a configuration's slabs are granted: it is resident (R249). -/
def CfgPhase.granted : CfgPhase → Bool
  | .resident => true
  | .gating => true
  | .wedging => true
  | .settling => true
  | _ => false

def State.granted (s : State) (c : Colour) (site : Nat) : Bool :=
  c == 0 || s.m.pkg.confs.any fun (_, x) =>
    x.vdev == s.vdevOf c && x.phase.granted && x.slabs.contains (slabOf site)

/-- The place table entry of a colour, from a cluster's cache or from HBM. -/
def State.placeEntry (s : State) (cluster : Nat) (c : Colour) (n : Nat) : Lane :=
  let key := if c = 0 then 32 else s.vdevOf c
  match (s.m.cluster cluster).places.find? fun e => e.1 == key && e.2.1 == n with
  | some e => e.2.2
  | none =>
    let base := if c = 0 then s.m.pkg.mgmt.c0ptab else bits (s.vdevWord (s.vdevOf c) 1) 0 48
    BitVec.ofNat 32 (s.nat (base + 4 * n) 4)

/-- A place, translated for a colour in a configuration: a core's site, or why there is none. -/
def State.place (s : State) (cluster : Nat) (c : Colour) (cfg place : Nat) : Except PlaceReason Nat :=
  if 2 ^ 15 ≤ place % 2 ^ 16 then
    match tget? s.m.pkg.confs cfg with
    | none => .error .rect
    | some x =>
      let k := bits place 5 10
      let site := slabSite (x.slabAt (k % x.w) (k / x.w)) (place % 32)
      if x.w * x.h ≤ k || !isCore site then .error .rect else .ok site
  else
    let e := (s.placeEntry cluster c (place % 2 ^ 15)).toNat
    let site := siteId (bits e 28 3) (bits e 22 6) (bits e 17 5)
    if bits e 31 1 = 0 then .error .invalid
    else if !isCore site then .error .slice
    else if !s.granted c site then .error .grant
    else .ok site

/-- A logical place used by a cluster enters its cache of 64. -/
def usePlace (cluster : Nat) (c : Colour) (place : Nat) : Act := .look fun s =>
  if 2 ^ 15 ≤ place % 2 ^ 16 then .quiet
  else
    let n := place % 2 ^ 15
    let e := (if c = 0 then 32 else s.vdevOf c, n, s.placeEntry cluster c n)
    modCluster cluster fun k => { k with places := (e :: k.places.filter (· ≠ e)).take 64 }

end Sys2Proof.Machine
end

