-- ==== Sys2Proof/Machine/Home.lean ====
section
/-! DEFINITION. What homes do (spec 09 R152 to R158, 10 R177, R180, R186): loads, stores, clears, atomics, reservations at a
word's home, the holds of a slice port (12 R199), the replay of refused loads, and the read-modify-write element (R160). -/

namespace Sys2Proof.Machine

/-! ## Regions -/

/-- Whether a bank or slice address lies in a write-once region (09 R151, 12 R196). -/
def State.regionWo (s : State) (a : Nat) : Bool :=
  if 2 ^ 61 ≤ a then
    let off := a - 2 ^ 61
    (tgetD (0 : BitVec 64) (s.m.cluster (off / 2 ^ 22)).masks (off / 2 ^ 18 % 16)).getLsbD (off % 2 ^ 18 / 4096)
  else if 2 ^ 60 ≤ a then
    let off := a - 2 ^ 60
    (s.m.core (off / 2 ^ 16)).region.getLsbD (off % 2 ^ 16 / 4096)
  else false

/-- How a word's home treats an access: write-once, plain with presence, or a page that keeps none (R180). -/
inductive Presence where
  | wo | plain | none
deriving DecidableEq, Repr

def State.presenceOf (s : State) (a : Nat) (m : PageMode) : Presence :=
  match m with
  | .wo => .wo
  | .plain => .none
  | .region => if s.regionWo a then .wo else .plain

/-! ## Performed, for the chain of R27 -/

/-- A task's operator is performed: its slot's own and successor fields become the pair. -/
def performedAt (w : Who) : Act := .look fun s =>
  match ctxAt s w.core w.frame w.wave w.slot with
  | some x =>
    match x.ins with
    | some (_, .m f) => Act.when (s.m.runs w) (x.performed f.sqo f.sqs)
    | _ => .quiet
  | none => .quiet

/-- Whether piece n is the last of a pending operator, and its acceptance therefore performs it. A chase is performed when
its result is delivered (10 R181). -/
def Pend.lastPiece (p : Pend) : Bool :=
  match p.kind with
  | .link _ _ _ => false
  | _ => p.pieces.length ≤ 1

/-- A load accepted at its home is performed (R156), once. -/
def accepted (r : Req) : Act :=
  match r.who with
  | .task w => Act.when (!r.heard) <| .look fun s =>
    match s.m.actOf? w with
    | some a =>
      match (a.wave? w.wave).bind fun v => v.pend.find? fun p => p.slot == w.slot with
      | some p => if p.lastPiece then performedAt w else .quiet
      | none => .quiet
    | none => .quiet
  | _ => .quiet

/-! ## Loads -/

/-- A load answered at its home. -/
def homeAnswer (u : Nat) (r : Req) (v : AnsVal) : Act := Act.seq [accepted r, checked r.addr r.len, answer u r.who r.piece v]

def PortHeld.colour : PortHeld → Colour
  | .req r _ => r.colour
  | .tile e => e.who.colour

/-- An access that finds a pool, or a slice port's hold, full returns to its core, which spills it (R156, 12 R199). -/
def refuse (u : Nat) (h : PortHeld) : Act :=
  (Act.pkg fun p => { p with refused := p.refused ++ [(u, h)] }).andThen (spoilAdd h.colour 256)

/-- A load at its home (R154 to R156): answered, deferred, or refused with the pool full. One that meets an error that cannot be
corrected receives poison (R173), whatever the damaged words' presence (log 50). -/
def homeLoad (u : Nat) (r : Req) : Act := .look fun s =>
  match s.presenceOf r.addr r.mode with
  | .none => homeAnswer u r (s.answerOf r false)
  | .plain => homeAnswer u r (s.answerOf r true)
  | .wo =>
    match (if s.damaged r.addr r.len && !r.who.byWord then none else s.missing r.addr r.len) with
    | none => homeAnswer u r (s.answerOf r true)
    | some w =>
      match freeEntry (s.pool u) (poolSize u) with
      | some i => (accepted r).andThen (park u w i r)
      | none => refuse u (.req r none)

/-- R183: the word's bits and its state; a DEFER word reads as zero, a plain page as FULL. -/
def homeLdp (u : Nat) (r : Req) : Act := .look fun s =>
  let p := if s.presenceOf r.addr r.mode = .none then .full else s.presAt r.addr
  let v : Lane := if p = .defer then 0 else BitVec.ofNat 32 (s.nat r.addr 4)
  homeAnswer u r (if s.damaged r.addr r.len then .poison else .ldp v p)

/-! ## Stores -/

/-- The issuers that an event's acknowledgement goes to (15 R247). -/
def Req.parties (r : Req) : List Party := r.who :: r.issuers

def ackAll (u : Nat) (r : Req) : Act := Act.each r.parties fun p => answer u p r.piece .ack

/-- A reservation is spent by the store it was made for (10 R177). -/
def spendResv (r : Req) : Act := .pkg fun p =>
  { p with resvs := p.resvs.filter fun x =>
      !((match x.who, r.who with
        | .task a, .task b => a == { b with slot := 0 }
        | a, b => a == b) && x.first == r.addr / 4 && x.words == (wordsOf r.addr r.len).length) }

/-- Whether a range covers whole words. -/
def wholeWords (a n : Nat) : Bool := a % 4 == 0 && n % 4 == 0

/-- Why a write-once home refuses a store (R155). -/
def State.woRefuses (s : State) (a n : Nat) : Option Nat :=
  if !wholeWords a n then some Code.woPartial
  else if (wordsOf a n).any fun w => s.presAt (4 * w) = .full || s.presAt (4 * w) = .err then some Code.woRewrite
  else none

/-- A byte as an engine reads it, with the code of its word where that reads ERR, or 255 where it reads poison (R291). -/
abbrev EngByte := Byte × Option (BitVec 8)

def poisonCode : BitVec 8 := 255

/-- Whether a home stands behind a CXL port that is down (19 R312). -/
def State.lostHome (s : State) (a : Nat) : Bool := isCxlUnit (unitOf a) && s.m.pkg.cxlDown.contains (unitOf a - 41000)

/-- A write of bytes as one event: a word with an error byte becomes ERR, or on a plain page is counted and left; one with a
poison byte is left (R291). -/
def engineWrite (c : Colour) (a : Nat) (m : PageMode) (bs : List EngByte) : Act := .look fun s =>
  if s.lostHome a then countDiscard c
  else
    let keeps := s.presenceOf a m ≠ .none
    Act.each (wordsOf a bs.length) fun w =>
      let lo := max a (4 * w)
      let xs := (bs.drop (lo - a)).take (min (a + bs.length) (4 * w + 4) - lo)
      if xs.any fun x => x.2 == some poisonCode then .quiet
      else
        match xs.findSome? Prod.snd with
        | some e => if keeps then fillErr (4 * w) 4 e else countSink c
        | none => if keeps then fill lo (xs.map Prod.fst) else putBytes lo (xs.map Prod.fst)

/-- A store's effect at its home (R154, R180), once nothing refuses it. -/
def storeEffect (r : Req) (v : StoreVal) : Act := .look fun s =>
  match s.presenceOf r.addr r.mode, v with
  | _, .line bs => engineWrite r.colour r.addr r.mode bs
  | .none, .bytes bs => putBytes r.addr bs
  | .none, .err _ => countSink r.colour
  | _, .bytes bs => fill r.addr bs
  | _, .err c => fillErr r.addr r.len c

/-- A store event: a write-once home refuses a store of any party but the reservation's holder; others are performed and
acknowledged. -/
def homeStore (u : Nat) (r : Req) (v : StoreVal) : Act := .look fun s =>
  let own := match r.who with
    | .task _ => true
    | _ => false
  let refusal :=
    if s.presenceOf r.addr r.mode = .wo then
      (s.woRefuses r.addr r.len).orElse fun _ =>
        if !own && s.reserved (wordsOf r.addr r.len) then some Code.woRewrite else none
    else none
  match refusal with
  | some c => answer u r.who r.piece (.refused c)
  | none => Act.seq [spendResv r, storeEffect r v, ackAll u r]

/-- `clr` (R154, R180): FULL and ERR become EMPTY, the bits stay; nothing on a plain page. It rewrites what a soft error has
damaged (R173). -/
def clearWords (a n : Nat) : Act := .look fun s =>
  (mend (a / 4) (wordsOf a n).length).andThen
    (setPres ((wordsOf a n).filter fun w => s.presAt (4 * w) = .full || s.presAt (4 * w) = .err) .empty)

def homeClr (u : Nat) (r : Req) : Act := .look fun s =>
  (if s.presenceOf r.addr r.mode = .none then .quiet else clearWords r.addr r.len).andThen (ackAll u r)

/-! ## Atomics (10 R186) -/

/-- The new value of an n-bit word, or an error code that leaves it unchanged. -/
def atomicNew (op : AtomicOp) (n x : Nat) (ls : List Lane) : Except ErrCode Nat :=
  let v := lanesOf (n / 32) ls
  match op with
  | .add => .ok ((x + v) % 2 ^ n)
  | .min => .ok (if sInt n v < sInt n x then v else x)
  | .max => .ok (if sInt n x < sInt n v then v else x)
  | .minn => .ok (min x v)
  | .maxn => .ok (max x v)
  | .and => .ok (x &&& v)
  | .or => .ok (x ||| v)
  | .xor => .ok (x ^^^ v)
  | .swp => .ok v
  | .cas => .ok (if x = v then lanesOf (n / 32) (ls.drop (n / 32)) else x)
  | .fadd => noNan .f32 [x, v] (faddElem .f32 x v)
where
  /-- The first k lanes as a number. -/
  lanesOf : Nat → List Lane → Nat
    | 0, _ => 0
    | k + 1, ls => (ls.headD 0).toNat + 2 ^ 32 * lanesOf k (ls.drop 1)

/-- One event: the old value answers, or is dropped where T0 is null, and every issuer is acknowledged (R185, 15 R247). A damaged
word answers with poison and stays (R173, log 50). -/
def homeAtomic (u : Nat) (r : Req) (op : AtomicOp) (operand : List Lane) : Act := .look fun s =>
  let pr := s.presenceOf r.addr r.mode
  let say (v : AnsVal) : Act := (checked r.addr r.len).andThen (if r.answer then answer u r.who r.piece v else ackAll u r)
  if pr = .wo then answer u r.who r.piece (.refused Code.woAtomic)
  else if s.damaged r.addr r.len then say .poison
  else
    match (if pr = .none then none else s.errWord r.addr r.len) with
    | some w => say (.err (s.byteAt (4 * w)))
    | none =>
      let x := s.nat r.addr r.len
      match atomicNew op (8 * r.len) x operand with
      | .error e => say (.err e)
      | .ok y =>
        (if pr = .none then putBytes r.addr (leBytes r.len y) else fill r.addr (leBytes r.len y)).andThen
          (say (.bytes (leBytes r.len x)))

/-! ## Reservations (10 R177) -/

/-- Granted where every covered word is EMPTY or DEFER and none is reserved; else WO_PARTIAL, WO_REWRITE or WO_ATOMIC. One whose wave
has faulted since is released as it is granted. -/
def homeReserve (u : Nat) (r : Req) (k : ResKind) : Act := .look fun s =>
  let ws := wordsOf r.addr r.len
  let refusal :=
    if k = .atomic then some Code.woAtomic
    else (s.woRefuses r.addr r.len).orElse fun _ => if s.reserved ws then some Code.woRewrite else none
  match refusal with
  | some c => answer u r.who r.piece (.refused c)
  | none =>
    let holder := match r.who with
      | .task w => Party.task { w with slot := 0 }
      | p => p
    let kept := match r.who with
      | .task w => s.m.runs w
      | _ => true
    (Act.when kept (.pkg fun p => { p with resvs := p.resvs ++ [⟨holder, r.addr / 4, ws.length⟩] })).andThen
      (answer u r.who r.piece .granted)

/-! ## Arrival -/

/-- A request performed at its home. -/
def perform (u : Nat) (r : Req) : Act :=
  match r.kind with
  | .load => homeLoad u r
  | .ldp => homeLdp u r
  | .store v => homeStore u r v
  | .clr => homeClr u r
  | .atomic op v => homeAtomic u r op v
  | .reserve k => homeReserve u r k

/-- A store-class event is one that is acknowledged. -/
def ReqKind.storeClass : ReqKind → Bool
  | .store _ => true
  | .clr => true
  | .atomic _ _ => true
  | _ => false

/-- At a CXL port that is down, loads receive poison and store-class events are acknowledged unperformed (19 R312). -/
def cxlLost (u : Nat) (r : Req) : Act :=
  if r.kind.storeClass then Act.seq [countDiscard r.colour, ackAll u r]
  else (accepted r).andThen (answer u r.who r.piece .poison)

/-! ## Slice ports (12 R197 to R199) -/

def tileSt (e : BitVec 32) : Nat := bits e.toNat 30 2
def tileCol (e : BitVec 32) : Colour := BitVec.ofNat 8 (bits e.toNat 22 8)
def tileLen (e : BitVec 32) : Nat := bits e.toNat 16 6
def tileBase (e : BitVec 32) : Nat := bits e.toNat 0 15
def tileWord (st : Nat) (col : Colour) (len base : Nat) : BitVec 32 :=
  BitVec.ofNat 32 (st * 2 ^ 30 + col.toNat * 2 ^ 22 + len % 64 * 2 ^ 16 + base % 2 ^ 15)

def ClusterState.tile (k : ClusterState) (t : Nat) : BitVec 32 := tgetD 0 k.tiles t
def ClusterState.copyOf (k : ClusterState) (t : Nat) : BitVec 32 := tgetD 0 k.copies t

/-- The lines of the cluster that a request covers. -/
def Req.lines (r : Req) : Nat × Nat := ((r.addr - 2 ^ 61) % 2 ^ 22 / 128, ((r.addr - 2 ^ 61) % 2 ^ 22 + r.len - 1) / 128)

/-- Whether a request is of the streamer at work on a tile. -/
def Req.fills (r : Req) (t : Nat) : Bool :=
  match r.who with
  | .streamer _ => r.piece == t + 1
  | _ => false

/-- The FILLING or DRAINING tile that holds a request; the streamer at work on a tile is not held by it. -/
def ClusterState.blocker (k : ClusterState) (r : Req) : Option Nat :=
  (k.tiles.find? fun (t, e) =>
    (tileSt e == 1 || tileSt e == 3) && !r.fills t && tileBase e ≤ r.lines.2 && r.lines.1 ≤ tileBase e + tileLen e).map
      Prod.fst

/-- The unit whose later accesses wait behind a held one (R199): not a `twait`, which a port may answer in any order (13 R222), nor a
streamer's own fill or drain. -/
def PortHeld.issuer : PortHeld → Option Nat
  | .req r _ => some r.who.unit
  | .tile e =>
    match e.op with
    | .wait _ => none
    | .fill _ => none
    | .drain _ => none
    | .elem id _ => some (elemUnit id)
    | _ => some e.who.core

/-- Whether an earlier held access of an issuer waits at a port. -/
def ClusterState.behind (k : ClusterState) (u issuer : Nat) : Bool :=
  k.held.any fun (p, h) => p == u && h.issuer == some issuer

/-- The accesses that a port holds. -/
def ClusterState.holding (k : ClusterState) (u : Nat) : Nat := (k.held.filter fun (p, _) => p == u).length

/-- Whether an access of an issuer has been refused at a unit and not replayed. -/
def State.refusedBehind (s : State) (u : Nat) (issuer : Option Nat) : Bool :=
  issuer.isSome && s.m.pkg.refused.any fun (v, h) => v == u && h.issuer == issuer

/-- An access takes its place in a slice port's hold. -/
def portPut (cl u : Nat) (h : PortHeld) : Act := modCluster cl fun k => { k with held := k.held ++ [(u, h)] }

/-- An access that cannot be performed yet takes its place at a slice port, or is refused where the hold is full or an earlier one of its
issuer has been (R152, R199). -/
def portHold (cl u : Nat) (h : PortHeld) : Act := .look fun s =>
  if 64 ≤ (s.m.cluster cl).holding u || s.refusedBehind u h.issuer then refuse u h else portPut cl u h

/-- Whether a request finds the CXL port before its home down (19 R312). -/
def State.cxlGone (s : State) (u : Nat) : Bool := isCxlUnit u && s.m.pkg.cxlDown.contains (u - 41000)

/-- Whether a slice port has a reason of its own to hold a request: a tile at work, or an earlier held access of its issuer (R198, R199). -/
def State.portKeeps (s : State) (u : Nat) (r : Req) : Bool :=
  isSliceUnit u && (((s.m.cluster ((u - 20000) / 16)).blocker r).isSome || (s.m.cluster ((u - 20000) / 16)).behind u r.who.unit)

/-- A request at its unit: lost at a dead CXL port, held or refused at a slice port, else performed. -/
def reqArrive (u : Nat) (r : Req) : Act := .look fun s =>
  let cl := (u - 20000) / 16
  if s.cxlGone u then cxlLost u r
  else if s.portKeeps u r || isSliceUnit u && s.refusedBehind u (some r.who.unit) then
    portHold cl u (.req r ((s.m.cluster cl).blocker r))
  else perform u r

/-- A refused request, the oldest of its unit, looked at again (R156, R199): those refused after it stay behind it. -/
def reqReplay (u : Nat) (r : Req) : Act := .look fun s =>
  let cl := (u - 20000) / 16
  if s.cxlGone u then cxlLost u r
  else if s.portKeeps u r then portPut cl u (.req r ((s.m.cluster cl).blocker r))
  else perform u r

/-- Whether a home may accept a request now and read it later: a task's load that keeps no word waiting. -/
def State.mayHear (s : State) (u : Nat) (r : Req) : Bool :=
  r.kind = .load && !r.heard && s.presenceOf r.addr r.mode ≠ .wo && !s.cxlGone u && !s.portKeeps u r &&
    !(isSliceUnit u && s.refusedBehind u (some r.who.unit)) && (match r.who with
      | .task _ => true
      | _ => false)

/-- Message k, a request of the kinds that a row names, arrives. -/
def homeEvent (ok : ReqKind → Bool) : Act := .look fun s =>
  match s.m.msg? s.m.at_.k with
  | some msg =>
    match msg.body with
    | .req r => if ok r.kind then (takeMsg s.m.at_.k).andThen (reqArrive msg.dst r) else .quiet
    | _ => .quiet
  | none => .quiet

/-- A counter's value, low word first (17 R302). -/
def State.counter (s : State) (i : Nat) : List Lane :=
  natLanes 2 (tgetD (0 : BitVec 64) s.m.pkg.counters i).toNat

/-- Message k, a load, is accepted at its home, which reads it in a later event (20 R334): it stays where it is. -/
def hear (k : Nat) (x : Msg) (r : Req) : Act :=
  (accepted r).andThen (.mod fun m => { m with net := setAt m.net k { x with body := .req { r with heard := true } } })

/-- R154: a load or `ldp` reaches the word's home; or message k, a read of a counter, reaches the counter home (17 R302). Where the latch's
`j` is not 0, a home that may do so only accepts the load now (log 133). -/
def execHomeLoad (s : State) : Host.Outcome State Fault Refusal :=
  .next ((Act.look fun s =>
    match s.m.msg? s.m.at_.k with
    | some x =>
      match x.body with
      | .cntrRead w i => (takeMsg s.m.at_.k).andThen (answer 90000 (.task w) 0 (.lanes (s.counter i)))
      | .req r => if s.m.at_.j ≠ 0 && s.mayHear x.dst r then hear s.m.at_.k x r else homeEvent fun k => k = .load || k = .ldp
      | _ => .quiet
    | none => .quiet).run s)

/-- R154: a committed store is performed at its home. -/
def execHomeStore (s : State) : Host.Outcome State Fault Refusal :=
  .next ((homeEvent fun k => match k with
    | .store _ => true
    | _ => false).run s)

/-- R154: a clear at the home. -/
def execHomeClr (s : State) : Host.Outcome State Fault Refusal :=
  .next ((homeEvent fun k => k = .clr).run s)

/-- R158: an atomic as one event. -/
def execHomeAtomic (s : State) : Host.Outcome State Fault Refusal :=
  .next ((homeEvent fun k => match k with
    | .atomic _ _ => true
    | _ => false).run s)

/-- R177: a reservation presented to a write-once home. -/
def execHomeReservation (s : State) : Host.Outcome State Fault Refusal :=
  .next ((homeEvent fun k => match k with
    | .reserve _ => true
    | _ => false).run s)

/-! ## Reduction packets (15 R247) -/

def AtomicOp.mayMerge : AtomicOp → Bool
  | .swp => false
  | .cas => false
  | _ => true

/-- The combined operand of two packets: the operation itself on the two values. -/
def combine (op : AtomicOp) (n : Nat) (a b : List Lane) : Except ErrCode (List Lane) :=
  (atomicNew op n (atomicNew.lanesOf (n / 32) a) b).map fun x => bytesLanes (leBytes (n / 8) x) (n / 32)

/-- Whether two requests may merge, and the packet they make. -/
def merged (a b : Req) : Option Req :=
  match a.kind, b.kind with
  | .atomic p v, .atomic q w =>
    if p = q && p.mayMerge && !a.answer && !b.answer && a.addr == b.addr && a.len == b.len && a.colour == b.colour &&
        a.cfg == b.cfg && a.mode == b.mode && !a.noMerge && !b.noMerge && a.parties.length + b.parties.length ≤ 8 then
      match combine p (8 * a.len) v w with
      | .ok x => some { a with kind := .atomic p x, issuers := a.issuers ++ b.parties }
      | .error _ => none
    else none
  | _, _ => none

/-- Whether a home lies outside a core. -/
def remoteHome (core a : Nat) : Bool := unitOf a ≠ core

/-- Whether packet k, y, can stand in one queue behind packet j: between them nothing stands that arrives before it (15 R244). -/
def Machine.joins (m : Machine) (j k : Nat) (y : Msg) : Bool :=
  !((m.net.take k).drop (j + 1)).any fun z => z.dst == y.dst && z.cls == y.cls && y.sources.any z.sources.contains

/-- R247: packets j and k, waiting in one router queue, merge into one. -/
def execReductionMerge (s : State) : Host.Outcome State Fault Refusal :=
  .next ((Act.look fun s =>
    let j := s.m.at_.j
    let k := s.m.at_.k
    match s.m.net[j]?, s.m.net[k]? with
    | some x, some y =>
      match x.body, y.body with
      | .req a, .req b =>
        if j < k && x.dst = y.dst && s.m.joins j k y && remoteHome x.src a.addr && remoteHome y.src b.addr then
          match merged a b with
          | some r => (takeMsg k).andThen (.mod fun m => { m with net := setAt m.net j { x with body := .req r } })
          | none => .quiet
        else .quiet
      | _, _ => .quiet
    | _, _ => .quiet).run s)

end Sys2Proof.Machine
end

