-- ==== Sys2Proof/Machine/Memory.lean ====
section
/-! DEFINITION. The memory operators of a task (spec 10 R175 to R191; 01 R26 to R28): addresses, pieces, a load's reading of
its own uncommitted stores, the checks of a store-class operator, and the channel instructions. -/

namespace Sys2Proof.Machine

/-! ## Addresses and pieces (R175, R176, 09 R157) -/

def sizeScale : Size → Nat
  | .b8 => 1
  | .b16 => 2
  | .b32 => 4
  | .b64 => 8
  | .ln => 128
  | .dsb8 => 32
  | .dsb4 => 16

/-- The bytes of an access at width w. -/
def sizeBytes (z : Size) (w : Nat) : Nat :=
  match z with
  | .ln => 4 * w
  | z => sizeScale z

/-- The address that lanes hold from lane i on: one lane, or two for `.g` (R175). -/
def addrIn (sp : Space) (ls : List Lane) (i : Nat) : Nat :=
  match sp with
  | .g => (ls.getD (2 * i) 0).toNat + 2 ^ 32 * (ls.getD (2 * i + 1) 0).toNat
  | _ => (ls.getD i 0).toNat

/-- A with its displacement: the sums of 32 bits of `.k` and of 64 bits of `.g` wrap (R175). -/
def addrSum (sp : Space) (a disp : Nat) : Nat :=
  match sp with
  | .k => (a + disp) % 2 ^ 32
  | .g => (a + disp) % 2 ^ 64
  | _ => a + disp

/-- The range checks that need no home (R152, R175): the code of a breach. -/
def rangeFault (sp : Space) (a disp len : Nat) : Option Nat :=
  match sp with
  | .k => if 2 ^ 16 < addrSum .k a disp + len then some Code.bankRange else none
  | .p => if 2 ^ 16 < a % 2 ^ 16 + disp + len then some Code.bankRange else none
  | .s => if 2 ^ 22 < a + disp + len then some Code.sliceRange else none
  | .g => if 2 ^ 48 ≤ addrSum .g a disp then some Code.xlate else none

/-- The pieces of a range at line boundaries, in ascending order; n bounds their number. -/
def linePieces : Nat → Nat → Nat → List (Nat × Nat)
  | 0, _, _ => []
  | n + 1, a, len =>
    if len = 0 then []
    else
      let k := min len (128 - a % 128)
      (a, k) :: linePieces n (a + k) (len - k)

/-- The pieces of an access: a misaligned scalar splits at the size's own boundary (R157). -/
def piecesOf (z : Size) (a len : Nat) : List (Nat × Nat) :=
  match z with
  | .b8 | .b16 | .b32 | .b64 => if a % len = 0 then [(a, len)] else [(a, len - a % len), (a + (len - a % len), a % len)]
  | _ => linePieces 40 a len

/-! ## A load's own uncommitted stores (R28) -/

/-- One store, piece by piece: home address, length, mode. -/
def storeOver (v : StoreVal) (pieces : List (Nat × Nat × PageMode)) : List (Nat × StoreVal) :=
  match v with
  | .bytes bs =>
    (pieces.foldl (fun (acc, n) (h, len, _) => (acc ++ [(h, .bytes ((bs.drop n).take len))], n + len))
      (([] : List (Nat × StoreVal)), 0)).1
  | .line _ => []
  | .err c => pieces.flatMap fun (h, len, m) =>
      if m = .plain then [] else (wordsOf h len).map fun w => (4 * w, StoreVal.err c)

/-- The stores recorded in a wave, in the order of the chain. -/
def Wave.storeActs (w : Wave) : List (Nat × StoreVal) :=
  w.acts.flatMap fun (_, c) =>
    match c with
    | .store _ (.store v) pieces _ _ _ => storeOver v pieces
    | _ => []

/-- The store-class request that an event of a commit is. -/
def OutEvent.req? : OutEvent → Option Req
  | .req _ r => some r
  | _ => none

/-- The own stores that a load of a wave may read: those committed and not yet sent, then the waves up to its own. -/
def Ctx.ownStores (s : State) (x : Ctx) : List (Nat × StoreVal) :=
  ((tget? (s.m.core x.core).outs x.a.uid).map fun q => (q.events.filterMap OutEvent.req?).flatMap fun r =>
    match r.kind with
    | .store v => storeOver v [(r.addr, r.len, r.mode)]
    | _ => []).getD [] ++
  ((x.a.waves.filter fun v => v.idx ≤ x.idx).flatMap Wave.storeActs)

/-- What the newest own store leaves at a byte. -/
def overAt (ovl : List (Nat × StoreVal)) (a : Nat) : Option (Except ErrCode Byte) :=
  ovl.foldl (fun acc (h, v) =>
    match v with
    | .bytes bs => if h ≤ a && a < h + bs.length then some (.ok (bs.getD (a - h) 0)) else acc
    | .line _ => acc
    | .err c => if h ≤ a && a < h + 4 then some (.error c) else acc) none

/-- The part of a range that no own store covers: its first byte and length. -/
def uncovered (ovl : List (Nat × StoreVal)) (a n : Nat) : Option (Nat × Nat) :=
  let open_ := (upFrom n a).filter fun b => (overAt ovl b).isNone
  match open_, open_.getLast? with
  | lo :: _, some hi => some (lo, hi + 1 - lo)
  | _, _ => none

/-- The bytes of a range: own stores over what the home answered for `lo` and the bytes after it. -/
def overlaid (ovl : List (Nat × StoreVal)) (a n lo : Nat) (mem : List Byte) : Except ErrCode (List Byte) :=
  allOk ((upFrom n a).map fun b =>
    match overAt ovl b with
    | some v => v
    | none => .ok (mem.getD (b - lo) 0))

/-! ## Pending operators -/

def Ctx.pend (x : Ctx) (p : Pend) : Act := x.mod fun w => { w with pend := w.pend ++ [p], outside := true }

def Ctx.pend? (x : Ctx) : Option Pend := x.w.pend.find? fun p => p.slot == x.slot

def modPend (w : Who) (f : Pend → Pend) : Act := modWave w.core w.frame w.wave fun v =>
  { v with pend := v.pend.map fun p => if p.slot = w.slot then f p else p }

def dropPend (w : Who) : Act := modWave w.core w.frame w.wave fun v => { v with pend := v.pend.filter fun p => p.slot ≠ w.slot }

/-- The operator as it stands: its place and what it waits for. -/
def pendAt (s : State) (w : Who) : Option (Ctx × Pend) :=
  (s.m.actOf? w).bind fun _ => (ctxAt s w.core w.frame w.wave w.slot).bind fun x =>
    if x.w.run = w.run then x.pend?.map fun p => (x, p) else none

/-- A token for a pending operator's targets, with its operand's sequence. -/
def Ctx.late (x : Ctx) (p : Pend) (kind : Kind) (ls : List Lane) : Token := mkTok x.colour kind p.tok.seq ls
def Ctx.lateErr (x : Ctx) (p : Pend) (c : ErrCode) : Token := errFor (x.tagged p.tok) c
def Ctx.latePoison (x : Ctx) (p : Pend) : Token := x.late p .poison (padLanes x.width [])

def Ctx.common (x : Ctx) : Common :=
  match x.ins with
  | some (_, f) => f.common
  | none => ⟨.always, .null, .null⟩

/-- An operator's fault: it waits for nothing more, and the wave faults with the address in the record. -/
def pendFault (w : Who) (p : Pend) (code detail addr : Nat) : Act :=
  (dropPend w).andThen (takeFault w code detail addr p.tok.seq 0)

/-- Where an access stands. -/
inductive Resolved where
  | home (a : Nat) (m : PageMode)
  | miss
  | bad (code detail : Nat)

/-- The home of an address in a space, for a task (R152, R175, 15 R260). -/
def resolve (s : State) (x : Ctx) (sp : Space) (a : Nat) (write : Bool) : Resolved :=
  match sp with
  | .k => .home (bankAddr x.core a) .region
  | .s => .home (sliceAddr (clusterOf x.core) a) .region
  | .p =>
    match s.place (clusterOf x.core) x.colour x.a.cfg (a / 2 ^ 16) with
    | .error _ => .bad Code.place 0
    | .ok site => if clusterOf site = clusterOf x.core then .home (bankAddr site (a % 2 ^ 16)) .region else .bad Code.peerScope 0
  | .g =>
    if 2 ^ 48 ≤ a then .bad Code.xlate XReason.range.code
    else
      match s.cached x.core x.colour a with
      | none => .miss
      | some t =>
        match t.check 0 write a with
        | .ok (h, m) => .home h m
        | .error e => .bad Code.xlate e.code

/-- The caches note the translation that an access used. -/
def noteUse (x : Ctx) (sp : Space) (a : Nat) : Act := .look fun s =>
  match sp with
  | .g =>
    match s.cached x.core x.colour a with
    | some t => useTrans x.core t
    | none => .quiet
  | .p => usePlace (clusterOf x.core) x.colour (a / 2 ^ 16)
  | _ => .quiet

def sendReq (core : Nat) (r : Req) : Act := send core (unitOf r.addr) .q0 (.req r)

def PendKind.isStore : PendKind → Bool
  | .store _ _ => true
  | _ => false

/-! ## Results -/

/-- A load's lanes at width w (R176). -/
def loadLanes (z : Size) (w : Nat) (bs : List Byte) : List Lane :=
  match z with
  | .b8 | .b16 | .b32 => padLanes w [BitVec.ofNat 32 (leNat bs)]
  | .b64 => padLanes w (bytesLanes bs 2)
  | _ => padLanes w (bytesLanes bs w)

/-- A scaled result on both targets: the scale token, then the data (R182). -/
def Ctx.emitPair (x : Ctx) (c : Common) (scale data : Token) : Act :=
  (x.deliverPair c.t0 scale data).andThen (x.deliverPair c.t1 scale data)

/-- The end of a chase: p and the hop count (R181). -/
def chaseEnd (w : Who) (x : Ctx) (p : Pend) (hops : Nat) : Act :=
  let ls := match p.space with
    | .g => [BitVec.ofNat 32 p.base, BitVec.ofNat 32 (p.base / 2 ^ 32)]
    | _ => [BitVec.ofNat 32 p.base]
  Act.seq [dropPend w, performedAt w, x.deliver x.common.t0 (x.late p .data (padLanes x.width ls)),
    x.deliver x.common.t1 (x.late p .data (padLanes x.width [BitVec.ofNat 32 hops]))]

/-- The displacement of the operator in a slot. -/
def Ctx.memForm (x : Ctx) : Option FormM :=
  match x.ins with
  | some (_, .m f) => some f
  | _ => none

def Ctx.disp (x : Ctx) : Nat := (x.memForm.map fun f => f.off.toNat * sizeScale f.sz).getD 0
def Ctx.opSize (x : Ctx) : Size := (x.memForm.map fun f => f.sz).getD .b32

/-- A chase's next hop: the limit reached, a breach, or the pieces of its load. -/
def chaseStep (w : Who) (x : Ctx) (p : Pend) (hops limit : Nat) (wide : Bool) : Act :=
  let n := if wide then 8 else 4
  if limit ≤ hops then chaseEnd w x p hops
  else
    match rangeFault p.space p.base x.disp n with
    | some c => pendFault w p c (if c = Code.xlate then XReason.range.code else 0) (addrSum p.space p.base x.disp)
    | none =>
      modPend w fun _ => { p with
        kind := .link hops limit wide, data := [], bad := none, stage := .issue
        pieces := piecesOf x.opSize (addrSum p.space p.base x.disp) n }

/-- What a completed read delivers (R180 to R183). -/
def finish (w : Who) (x : Ctx) (p : Pend) : Act :=
  let c := x.common
  match p.kind with
  | .load z =>
    (dropPend w).andThen (x.emit c (p.bad.getD (x.late p .data (loadLanes z x.width p.data))))
  | .ldp => (dropPend w).andThen (x.emit c (p.bad.getD (x.latePoison p)))
  | .dsb elemLen _ scaleLen =>
    match p.bad with
    | some t => (dropPend w).andThen (x.emit c t)
    | none =>
      (dropPend w).andThen (x.emitPair c
        (x.late p .data (natLanes 4 (leNat ((p.data.drop elemLen).take scaleLen))))
        (x.late p .data (padLanes x.width (bytesLanes (p.data.take elemLen) (elemLen / 4)))))
  | .link hops limit wide =>
    match p.bad with
    | some t => Act.seq [dropPend w, performedAt w, x.emit c t]
    | none =>
      if leNat p.data = 0 then chaseEnd w x p hops
      else chaseStep w x { p with base := leNat p.data } (hops + 1) limit wide
  | _ => .quiet

/-- The commit effect of a checked store-class operator (R177). -/
def Pend.recordStore (x : Ctx) (p : Pend) (kind : ReqKind) (sqo : Nat) : Act :=
  x.record (.store sqo kind p.done p.base (match kind with
    | .atomic _ _ => x.common.t0 ≠ .null
    | _ => false) p.tok.seq)

/-- Every piece of a store-class operator has been checked: it is performed, and counts as a store. -/
def storeChecked (w : Who) (x : Ctx) (p : Pend) (kind : ReqKind) (sqo : Nat) : Act :=
  Act.seq [dropPend w, p.recordStore x kind sqo, performedAt w, x.unless x.countStore]

/-- Bytes joined to what a read has so far, and the current piece done. -/
def pieceRead (w : Who) (bs : List Byte) : Act :=
  modPend w fun p => { p with data := p.data ++ bs, pieces := p.pieces.drop 1, stage := .issue, ovl := [] }

/-- The current piece read as an error: the first of an operator's is kept (09 R155, 03 R68). -/
def pieceBad (w : Who) (t : Token) (n : Nat) : Act :=
  modPend w fun p => { p with
    bad := some (p.bad.getD t), data := p.data ++ List.replicate n 0, pieces := p.pieces.drop 1, stage := .issue, ovl := [] }

def ReqKind.isAtomic : ReqKind → Bool
  | .atomic _ _ => true
  | _ => false

/-- Whether a store-class operator presents a reservation at a home (R177): its target is write-once and it is no `clr`. -/
def reserves (s : State) (k : ReqKind) (h : Nat) (m : PageMode) : Bool := k ≠ .clr && s.presenceOf h m = .wo

/-- Whether an access of a range stands behind one of its own activation (R28): a `clr` of an earlier wave for a load or a
reservation, any store-class event of an earlier wave for `ldp`, which sees the word at its home (R183). A clear of a plain page
is a null store. -/
def Ctx.behindOwn (s : State) (x : Ctx) (k : PendKind) (h n : Nat) : Bool :=
  let meets (r : ReqKind) (a len : Nat) (m : PageMode) : Bool :=
    decide (a < h + n ∧ h < a + len) && (match r with
      | .clr => m != .plain
      | _ => k == .ldp)
  (x.a.waves.any fun v => v.idx < x.idx && v.acts.any fun (_, c) =>
    match c with
    | .store _ r pieces _ _ _ => pieces.any fun (a, len, m) => meets r a len m
    | _ => false) ||
  (match tget? (s.m.core x.core).outs x.a.uid with
    | some q => (q.events.filterMap OutEvent.req?).any fun r => meets r.kind r.addr r.len r.mode
    | none => false)

/-- The current piece of a pending operator goes: translated, checked, and sent to its home or read from own stores. -/
def issuePiece (w : Who) : Act := .look fun s =>
  match pendAt s w with
  | none => .quiet
  | some (x, p) =>
    match p.pieces with
    | [] =>
      match p.kind with
      | .store k sqo => storeChecked w x p k sqo
      | _ => finish w x p
    | (a, n) :: _ =>
      match resolve s x p.space a p.kind.isStore with
      | .bad c d => pendFault w p c d a
      | .miss => (modPend w fun p => { p with stage := .walk }).andThen (waitWalk w (a / 2 ^ 16))
      | .home h m =>
        (noteUse x p.space a).andThen (
          match p.kind with
          | .store k _ =>
            if reserves s k h m then
              if x.behindOwn s p.kind h n then .quiet
              else (modPend w fun p => { p with stage := .home, ovl := [(h, .bytes [])] }).andThen
                (sendReq w.core ⟨.task w, x.colour, p.pieces.length, h, n, m,
                  .reserve (if k.isAtomic then .atomic else .store), [], false, x.a.cfg, true, p.space, a, false⟩)
            else modPend w fun p => { p with done := p.done ++ [(h, n, m)], pieces := p.pieces.drop 1, stage := .issue }
          | .ldp =>
            if x.behindOwn s p.kind h n then .quiet
            else (modPend w fun p => { p with stage := .home }).andThen
              (sendReq w.core ⟨.task w, x.colour, p.pieces.length, h, n, m, .ldp, [], false, x.a.cfg, true, p.space, a, false⟩)
          | _ =>
            let ovl := x.ownStores s
            if x.behindOwn s p.kind h n then .quiet
            else match uncovered ovl h n with
            | some (lo, k) =>
              (modPend w fun p => { p with stage := .home, ovl := ovl, done := [(h, n, m), (lo, k, m)] }).andThen
                (sendReq w.core ⟨.task w, x.colour, p.pieces.length, lo, k, m, .load, [], false, x.a.cfg, true, p.space, a + (lo - h), false⟩)
            | none =>
              let seen := if p.lastPiece then performedAt w else .quiet
              match overlaid ovl h n h [] with
              | .ok bs => seen.andThen (pieceRead w bs)
              | .error e => seen.andThen (pieceBad w (x.lateErr p e) n))

/-- Whether an operator's next piece may go at once: it is no second piece of a split, which waits for its issue
(09 R157). -/
def goesOn (s : State) (w : Who) : Bool :=
  match pendAt s w with
  | some (_, p) => p.stage = .issue && (p.pieces = [] || p.kind.isStore || (match p.kind with
      | .link _ _ _ => p.data = []
      | _ => false))
  | none => false

/-- The operator goes as far as it can without an answer; n bounds its pieces. -/
def advance : Nat → Who → Act
  | 0, _ => .quiet
  | n + 1, w => (issuePiece w).andThen (.look fun s => if goesOn s w then advance n w else .quiet)

def maxPieces : Nat := 64

/-! ## The answer to a piece -/

/-- An answer of a home reaches the operator that waits for it. -/
def pieceAnswer (w : Who) (piece : Nat) (v : AnsVal) : Act := .look fun s =>
  match pendAt s w with
  | none => .quiet
  | some (x, p) =>
    if p.stage ≠ .home || p.pieces.length ≠ piece then .quiet
    else
      let n := ((p.pieces.headD (0, 0)).2)
      let (h, _, _) := p.done.headD (0, 0, .region)
      let (lo, _, _) := p.done.getD 1 (0, 0, .region)
      let step : Act :=
        match v with
        | .bytes bs =>
          match overlaid p.ovl h n lo bs with
          | .ok ds => pieceRead w ds
          | .error e => pieceBad w (x.lateErr p e) n
        | .err c => pieceBad w (x.lateErr p c) n
        | .poison => pieceBad w (x.latePoison p) n
        | .ldp b q =>
          let st : Lane := match q with
            | .empty => 0
            | .full => 1
            | .err => 2
            | .defer => 3
          Act.seq [dropPend w, x.deliver x.common.t0 (x.late p .data (padLanes x.width [b])),
            x.deliver x.common.t1 (x.late p .data (padLanes x.width [st]))]
        | .granted =>
          modPend w fun p => { p with
            done := p.done ++ [((p.ovl.headD (0, .bytes [])).1, n, (match p.space with
              | .g => .wo
              | _ => .region))], pieces := p.pieces.drop 1, stage := .issue, ovl := [] }
        | .refused c => pendFault w p c 0 ((p.pieces.headD (0, 0)).1)
        | _ => .quiet
      step.andThen (.look fun s' => if goesOn s' w then advance maxPieces w else .quiet)

/-! ## The events of commits, in order (13 R218) -/

def tagUnit (cluster : Nat) : Nat := 6000000 + cluster

def sendTag (e : TagEv) : Act := send e.who.core (tagUnit e.cluster) .q0 (.tagEv e)

def tilePort (cluster base : Nat) : Nat := 20000 + cluster * 16 + base / 2048

/-- The port of a tile's site, for an event that names it: a new entry's own site, else the site of the entry. -/
def TileEv.port (s : State) (e : TileEv) : Nat :=
  match e.op with
  | .setReady w => tilePort e.cluster (tileBase w)
  | .setBind w => tilePort e.cluster (tileBase w)
  | _ => tilePort e.cluster (tileBase ((s.m.cluster e.cluster).copyOf e.tile))

/-- A tile event goes to its port; the tag unit's copy of the entry is as the event will leave it (12 R197). -/
def sendTile (e : TileEv) : Act := .look fun s =>
  let copy (w : Lane) (c : Colour) : Act := modCluster e.cluster fun k =>
    { k with copies := tset 0 k.copies e.tile (tileWord 0 c (tileLen w) (tileBase w)) }
  Act.seq [
    (match e.op with
      | .setReady w => copy w e.who.colour
      | .setBind w => copy w e.who.colour
      | .setFree => copy ((s.m.cluster e.cluster).copyOf e.tile) 0
      | _ => .quiet),
    send e.who.core (e.port s) .q0 (.tile e) ]

def islandUnit (id : Nat) : Nat := (Party.island id).unit

def OutEvent.send (core : Nat) : OutEvent → Act
  | .req _ r => sendReq core r
  | .tag e => sendTag e
  | .tile e => sendTile e
  | .bar e => sendBar e
  | .cmd i c => Machine.send core (islandUnit i) .q0 (.islandCmd i c)

/-- The first event of the queue continues a split store. -/
def continues : List OutEvent → Bool
  | .req after _ :: _ => after
  | _ => false

/-- The events of an activation's commits go in order; one that continues a split store waits until the piece before it
has been acknowledged (R157), and those behind it with it. -/
def sendOuts (core uid : Nat) : Nat → Act
  | 0 => .quiet
  | n + 1 => .look fun s =>
    match tget? (s.m.core core).outs uid with
    | none => .quiet
    | some q =>
      match q.events with
      | [] => modCore core fun k => { k with outs := tdel k.outs uid }
      | e :: rest =>
        if continues q.events && q.waiting then .quiet
        else
          Act.seq [modCore core fun k => { k with outs := tput k.outs uid ⟨continues rest, rest⟩ }, e.send core, sendOuts core uid n]

/-- An activation's commit adds to its events. -/
def queueOuts (core uid : Nat) (es : List OutEvent) : Act := modCore core fun k =>
  let q := (tget? k.outs uid).getD ⟨false, []⟩
  { k with outs := tput k.outs uid { q with events := q.events ++ es } }

/-- R157: the next piece of the split access of the operator that the latch names by core, frame, wave (j) and slot (k), or
of the committed split store of activation `id` of the core. -/
def execSplitPieceIssue (s : State) : Host.Outcome State Fault Refusal :=
  .next ((Act.look fun s =>
    (match s.m.act? s.m.at_.core s.m.at_.frame with
      | none => Act.quiet
      | some a =>
        let w := a.who s.m.at_.core s.m.at_.frame s.m.at_.j s.m.at_.k
        match pendAt s w with
        | some (_, p) => if p.stage = Stage.issue then advance maxPieces w else .quiet
        | none => .quiet).andThen (sendOuts s.m.at_.core s.m.at_.id 4096)).run s)

/-! ## Firing -/

/-- A memory operator that makes no access: performed as it fires, in its place (R27). -/
def Ctx.noAccess (x : Ctx) : Act :=
  match x.memForm with
  | some f => x.unless (x.performed f.sqo f.sqs)
  | none => .quiet

/-- What a nullified memory operator still does: a null store, its place in the chain (R21, R27). -/
def memNull (x : Ctx) : Act :=
  match x.ins with
  | some (o, _) => (Act.when (isStoreOp o) (x.unless x.countStore)).andThen x.noAccess
  | none => .quiet

/-- A null store of an operand: the error sink counts error and poison (R184). -/
def Ctx.nullStore (x : Ctx) (t : Token) : Act :=
  Act.seq [x.unless x.countStore, x.noAccess, Act.when t.isBad (x.unless (x.record .errCount))]

/-- The access begins: the checks of the address and its alignment, then its pieces. -/
def Ctx.begin (x : Ctx) (sp : Space) (z : Size) (align : Nat) (kind : PendKind) (tok : Token) (data : List Byte) : Act :=
  let a := addrIn sp x.lanesL 0
  let n := sizeBytes z x.width
  let va := addrSum sp a x.disp
  match rangeFault sp a x.disp n with
  | some c => x.faultDetail c (if c = Code.xlate then XReason.range.code else 0) va
  | none =>
    if va % align ≠ 0 then x.faultAt Code.misalign va
    else
      (x.pend ⟨x.slot, kind, tok, sp, va, piecesOf z va n, [], data, [], none, .issue⟩).andThen (advance maxPieces x.who)

/-- Alignment that an access must have (R157). -/
def sizeAlign : Size → Nat
  | .ln => 4
  | _ => 1

/-- R180, R182: a load, or a load of blocks with their scales. -/
def execLd (f : FormM) (s : State) : Host.Outcome State Fault Refusal :=
  .next ((fire 0x120 (.m f) memNull fun x =>
    match x.early x.opL none with
    | some t => (x.emit f.c t).andThen x.noAccess
    | none =>
      let tok := { x.opTok with seq := x.seq }
      if f.sz = .dsb8 || f.sz = .dsb4 then
        let fmt := if f.sz = .dsb8 then 0x0D else 0x0E
        let nb := x.width / blockLanes fmt
        let elemLen := nb * sizeScale f.sz
        let a := addrIn f.sp x.lanesL 0
        let b := addrIn f.sp x.lanesL 1
        let sd := f.off.toNat * 2
        let bad (c va : Nat) : Act := x.faultDetail c (if c = Code.xlate then XReason.range.code else 0) va
        match rangeFault f.sp a x.disp elemLen, rangeFault f.sp b sd (2 * nb) with
        | some c, _ => bad c (addrSum f.sp a x.disp)
        | none, some c => bad c (addrSum f.sp b sd)
        | none, none =>
          (x.pend ⟨x.slot, .dsb elemLen b (2 * nb), tok, f.sp, addrSum f.sp a x.disp,
            linePieces 40 (addrSum f.sp a x.disp) elemLen ++ linePieces 40 (addrSum f.sp b sd) (2 * nb), [], [], [], none,
            .issue⟩).andThen (advance maxPieces x.who)
      else x.begin f.sp f.sz (sizeAlign f.sz) (.load f.sz) tok []).run s)

/-- R181: a chase of pointers, hop by hop. -/
def execLdLnk (f : FormM) (s : State) : Host.Outcome State Fault Refusal :=
  .next ((fire 0x120 (.m f) memNull fun x =>
    match x.early (x.opL ++ x.opR) none with
    | some t => (x.emit f.c t).andThen x.noAccess
    | none =>
      let limit := bits x.selTok.lane0.toNat 0 16
      let p : Pend := ⟨x.slot, .link 0 limit (f.sz = .b64), { x.opTok with seq := x.seq }, f.sp, addrIn f.sp x.lanesL 0, [],
        [], [], [], none, .issue⟩
      Act.seq [x.pend p, chaseStep x.who x p 0 limit (f.sz = .b64), .look fun s =>
        if goesOn s x.who then advance maxPieces x.who else .quiet]).run s)

/-- R183: the word and its state, never deferred. -/
def execLdp (f : FormM) (s : State) : Host.Outcome State Fault Refusal :=
  .next ((fire 0x122 (.m f) memNull fun x =>
    match x.early x.opL none with
    | some t => (x.emit f.c t).andThen x.noAccess
    | none => x.begin f.sp .b32 4 .ldp { x.opTok with seq := x.seq } []).run s)

/-- The bytes that a store takes from R (R176). -/
def storeBytes (z : Size) (w : Nat) (ls : List Lane) : List Byte := (laneBytes ls).take (sizeBytes z w)

/-- A data operand of the wrong width is the error token WIDTH (R21, R184). -/
def Ctx.widthed (x : Ctx) (t : Token) : Token := if t.kind = .data && t.lanes.length ≠ x.width then x.errOf t errWidth else t

/-- R184: R is written at commit; a bad or stop address makes a null store. -/
def execSt (f : FormM) (s : State) : Host.Outcome State Fault Refusal :=
  .next ((fire 0x121 (.m f) memNull fun x =>
    let l := x.widthed x.opTok
    let r := x.widthed x.selTok
    if l.kind ≠ .data then x.nullStore l
    else
      match r.kind with
      | .data =>
        x.begin f.sp f.sz (sizeAlign f.sz) (.store (.store (.bytes (storeBytes f.sz x.width r.lanes))) f.sqo.toNat) l []
      | .error => x.begin f.sp f.sz (sizeAlign f.sz) (.store (.store (.err r.code)) f.sqo.toNat) l []
      | _ => x.nullStore { r with kind := .stop }).run s)

/-- R184: every covered word EMPTY at commit. -/
def execClr (f : FormM) (s : State) : Host.Outcome State Fault Refusal :=
  .next ((fire 0x123 (.m f) memNull fun x =>
    let l := x.widthed x.opTok
    if l.kind ≠ .data then x.nullStore l
    else x.begin f.sp f.sz (sizeAlign f.sz) (.store .clr f.sqo.toNat) l []).run s)

/-- R185, R186: checked at performance, executed at commit; a bad or stop operand answers and makes a null store, counted where
the operand, not the answer, is bad. -/
def atomicAt (o : Nat) (op : AtomicOp) (f : FormM) : Act :=
  fire o (.m f) memNull fun x =>
    let ops := x.opL ++ x.opR
    match x.early ops none with
    | some t => (x.emit f.c t).andThen
        (x.nullStore (if !(ops.any Token.isBad) && (ops.any fun u => u.kind = .stop) then { t with kind := .stop } else t))
    | none =>
      x.begin f.sp f.sz (sizeScale f.sz) (.store (.atomic op x.selTok.lanes) f.sqo.toNat) { x.opTok with seq := x.seq } []

/-- R186: (x + v) mod 2^n. -/
def execAadd (f : FormM) (s : State) : Host.Outcome State Fault Refusal := .next ((atomicAt 0x124 .add f).run s)
/-- R186: signed minimum. -/
def execAmin (f : FormM) (s : State) : Host.Outcome State Fault Refusal := .next ((atomicAt 0x125 .min f).run s)
/-- R186: signed maximum. -/
def execAmax (f : FormM) (s : State) : Host.Outcome State Fault Refusal := .next ((atomicAt 0x126 .max f).run s)
/-- R186: unsigned minimum. -/
def execAminn (f : FormM) (s : State) : Host.Outcome State Fault Refusal := .next ((atomicAt 0x127 .minn f).run s)
/-- R186: unsigned maximum. -/
def execAmaxn (f : FormM) (s : State) : Host.Outcome State Fault Refusal := .next ((atomicAt 0x128 .maxn f).run s)
/-- R186: bitwise AND. -/
def execAand (f : FormM) (s : State) : Host.Outcome State Fault Refusal := .next ((atomicAt 0x129 .and f).run s)
/-- R186: bitwise OR. -/
def execAor (f : FormM) (s : State) : Host.Outcome State Fault Refusal := .next ((atomicAt 0x12A .or f).run s)
/-- R186: bitwise XOR. -/
def execAxor (f : FormM) (s : State) : Host.Outcome State Fault Refusal := .next ((atomicAt 0x12B .xor f).run s)
/-- R186: v. -/
def execAswp (f : FormM) (s : State) : Host.Outcome State Fault Refusal := .next ((atomicAt 0x12C .swp f).run s)
/-- R186: the new value where x equals the compare value. -/
def execAcas (f : FormM) (s : State) : Host.Outcome State Fault Refusal := .next ((atomicAt 0x12D .cas f).run s)
/-- R186: the FP32 sum, rounded by RNE. -/
def execAfadd (f : FormM) (s : State) : Host.Outcome State Fault Refusal := .next ((atomicAt 0x12E .fadd f).run s)

/-- R187: performed where its gate lets it fire. -/
def execFence (f : FormM) (s : State) : Host.Outcome State Fault Refusal :=
  .next ((fire 0x134 (.m f) memNull fun x => x.noAccess).run s)

/-! ## Channels (R188 to R191) -/

def Ctx.entry (s : State) (x : Ctx) (e : Nat) : VcEntry := tgetD ⟨0, 0, false⟩ (s.m.core x.core).vc e

/-- A bad or stop operand changes nothing; error and poison are counted (R190). -/
def Ctx.orCount (x : Ctx) (t : Token) (act : Act) : Act :=
  if t.isBad then x.record .errCount else if t.kind = .stop then .quiet else act

/-- A control word that an entry may take (R190). -/
def vcValueOk (v : Lane) : Bool :=
  let fmt := bits v.toNat 0 5
  bits v.toNat 9 23 == 0 && bits v.toNat 5 3 == 0 && fmt != 7 && fmt ≤ 0x14 && (bits v.toNat 8 1 == 0 || isBlockFmt fmt)

/-- R190: the control word replaced at commit; VC_VALUE, VC_LOCKED. -/
def execVcset (f : FormA) (s : State) : Host.Outcome State Fault Refusal :=
  .next ((fire 0x12F (.a f) noNull fun x =>
    let l := x.widthed x.opTok
    x.orCount l (.look fun s =>
      if !vcValueOk l.lane0 then x.fault Code.vcValue
      else if (x.entry s f.sub.toNat).locked then x.fault Code.vcLocked
      else x.record (.vcset f.sub.toNat l.lane0))).run s)

/-- R190: the control word and the scale words, as the width has room. -/
def execVcget (f : FormA) (s : State) : Host.Outcome State Fault Refusal :=
  .next ((fire 0x130 (.a f) noNull fun x => .look fun s =>
    let e := x.entry s f.sub.toNat
    let ws := natLanes 4 e.scale.toNat
    x.emit f.c (x.data (if f.ty = 0 then e.ctl :: ws else ws))).run s)

/-- R190: scale words replaced at commit. -/
def execSclset (f : FormA) (s : State) : Host.Outcome State Fault Refusal :=
  .next ((fire 0x131 (.a f) noNull fun x =>
    let l := x.widthed x.opTok
    x.orCount l (x.record (.sclset f.sub.toNat (l.lanes.take 4)))).run s)

/-- The first n lanes kept, zero above. -/
def keepLanes (n w : Nat) (ls : List Lane) : List Lane := padLanes w (ls.take n)

/-- The scale bits of the blocks that w lanes hold. -/
def liveScale (fmt w scale : Nat) : Nat := scale % 2 ^ ((if isDsb fmt then 16 else 8) * (w / blockLanes fmt))

/-- R191: a scale token from R and block data from L, on each target. -/
def execDec (f : FormA) (s : State) : Host.Outcome State Fault Refusal :=
  .next ((fire 0x132 (.a f) noNull fun x =>
    let fmt := f.sub.toNat
    x.withData f.c (x.opL ++ x.opR)
      (x.emitPair f.c (x.tok .data (natLanes 4 (liveScale fmt x.width (lanesNat (padLanes 4 x.selTok.lanes)))))
        (x.tok .data (keepLanes (x.width / blockLanes fmt * blockLanes fmt) x.width x.lanesL)))).run s)

/-- R191: L's bits to T0, the scale bits that apply to it to T1. -/
def execEnc (f : FormA) (s : State) : Host.Outcome State Fault Refusal :=
  .next ((fire 0x133 (.a f) noNull fun x =>
    let fmt := f.sub.toNat
    x.withData f.c x.opL (.look fun s =>
      (x.deliver f.c.t0 (x.tok .data (keepLanes (x.width / blockLanes fmt * blockLanes fmt) x.width x.lanesL))).andThen
        (x.deliver f.c.t1 (x.data (natLanes 4 (liveScale fmt x.width (x.scaleOf s x.opTok))))))).run s)

end Sys2Proof.Machine
end

