-- ==== Sys2Proof/Machine/Edges.lean ====
section
/-! DEFINITION. Edges (spec 15 R241 to R246, R264; 12 R201): where a port's tokens go, demand credit, EOS on a port, the outputs
held behind a stream. -/

namespace Sys2Proof.Machine

/-! ## Units that edges lead to -/

def exitUnit (cfg port : Nat) : Nat := farUnit 0 (cfg * 64 + port)

def destUnit : Dest → Nat
  | .chan core _ _ => core
  | .elem id _ => elemUnit id
  | .exit cfg port => exitUnit cfg port
  | .island id _ => (Party.island id).unit
  | .group cluster _ _ _ => 20000 + cluster * 16

/-- The class that a network's tokens travel in (15 R244). -/
def netCls : Net → Cls
  | .dynamic => .q0
  | _ => .st

/-- The cores of a multicast group: bit i of the mask names the i-th core of the cluster by row, then column (12 R201,
log 21). -/
def State.groupCores (s : State) (cluster grp : Nat) : List Nat :=
  let mask := tgetD (0 : BitVec 128) (s.m.cluster cluster).groups grp
  let cx := cluster % 4
  let cy := cluster / 4 % 4
  ((upFrom 112 0).filter fun i => mask.getLsbD i).map fun i =>
    siteId (cluster / 16) (16 * cx + i % 14 + i % 14 / 7) (8 * cy + i / 14)

/-- The cores of the groups that a port's edges name: a `send` through it goes to each of them, and its descriptor's place is not used
(12 R201, log 51). -/
def State.portGroup (s : State) (n : NodeState) (net : Net) (p : Nat) : List Nat :=
  ((outPortOf n.info net p).elim [] OutPort.dests).flatMap fun d => match d with
    | .group cl grp _ _ => s.groupCores cl grp
    | _ => []

/-! ## The static network (R241 to R243) -/

/-- Whether an output of a site's switch box takes a source in some slot (R242): a segment 7d + t, or 28 + e for input-channel entry e. -/
def ConfState.takes (f : ConfState) (r src out : Nat) : Bool :=
  let bs := tgetD [] f.switches r
  (upFrom (bs.length / 60) 0).any fun j => bs[60 * j + out]?.any fun b => b.toNat == 128 + src

/-- Where segment 7d + t from a site ends (R241): north is the side of a lower row; no segment, where its track does not enter there or
leaves the rectangle. Sites and rows are the rectangle's own (log 116). -/
def ConfState.segEnd (f : ConfState) (r seg : Nat) : Option Nat :=
  let place := r / 32
  let x := 8 * (place % f.w) + r % 8
  let y := 4 * (place / f.w) + r % 32 / 8
  let len := if seg % 7 < 4 then 1 else if seg % 7 < 6 then 4 else 16
  let at_ (x y : Nat) : Option Nat :=
    if x < 8 * f.w && y < 4 * f.h then some (32 * (y / 4 * f.w + x / 8) + 8 * (y % 4) + x % 8) else none
  match seg / 7 with
  | 0 => if y % len = 0 && len ≤ y then at_ x (y - len) else none
  | 1 => if x % len = 0 then at_ (x + len) y else none
  | 2 => if y % len = 0 then at_ x (y + len) else none
  | _ => if x % len = 0 && len ≤ x then at_ (x - len) y else none

/-- The segments that a switch schedule leads a source through to an entry of a site, each with where it ends, first found in breadth. -/
def ConfState.search (f : ConfState) (goal entry : Nat) :
    Nat → List (Nat × Nat × List (Nat × Nat)) → List (Nat × Nat) → Option (List (Nat × Nat))
  | 0, _, _ => none
  | _ + 1, [], _ => none
  | n + 1, (r, src, path) :: rest, seen =>
    if r = goal && f.takes r src (28 + entry) then some path.reverse
    else
      let next := ((upFrom 28 0).filter (f.takes r src)).filterMap fun g =>
        (f.segEnd r g).bind fun q => if seen.contains (q, g) then none else some (q, g, (28 * r + g, q) :: path)
      f.search goal entry n (rest ++ next) (seen ++ next.map fun (q, g, _) => (q, g))

/-- The core and the channel entry at which a static edge ends: a node's, or the one that feeds a read-modify-write element (09 R159). -/
def State.trackEnd (s : State) : Dest → Option (Nat × Nat)
  | .chan core node chan =>
    some (core, ((s.m.node? core node).bind fun n => n.info.ins.find? fun i => i.chan == chan).elim 0 InChan.entry)
  | .elem id _ => (s.m.pkg.elems.find? fun e => e.1 == id).bind fun (_, e) => match e.rcd.kind with
    | .rmw w => some (e.rcd.core, bits w.toNat 22 5)
    | _ => none
  | _ => none

/-- The segments from a core's static output port to the entry at which an edge ends. Where the configuration's schedule does not lead there, no
output takes the beat, and it stays where it is (R242, R246). -/
def State.track (s : State) (cfg core port : Nat) (d : Dest) : Option (List (Nat × Nat)) :=
  match s.trackEnd d, tget? s.m.pkg.confs cfg with
  | some (goal, entry), some f =>
    let sites := sitesOf f.slabs
    some <| ((f.search (sites.findIdx (· == goal)) entry 16384 [(sites.findIdx (· == core), 32 + port, [])] []).map
      fun p => p.map fun g => (28 * sites.getD (g.1 / 28) 0 + g.1 % 28, sites.getD g.2 0)).getD [noSegment]
  | _, _ => none

/-! ## Edges -/

/-- The port that a token leaves by, where its beats take tracks: configuration, core, static port. -/
structure Outlet where
  cfg : Nat
  core : Nat
  port : Nat
deriving DecidableEq, Repr

/-- A token on one edge; a group's members each receive a copy (12 R201). A beat from a static port takes the tracks of the
configuration's schedule (log 116). -/
def sendEdge (src : Nat) (cls : Cls) (o : Option Outlet) (d : Dest) (t : Token) (ahead : Option Nat) : Act :=
  match d with
  | .group cl grp node chan => .look fun s =>
    Act.each (s.groupCores cl grp) fun core => put (.chan core node chan)
  | d => put d
where
  put (d : Dest) : Act := .look fun s =>
    let trip := (o.bind fun o => s.track o.cfg o.core o.port d).map fun p => ⟨s.m.pkg.beats, none, p⟩
    .mod fun m => { m with net := m.net ++ [⟨src, destUnit d, cls, .tok d t ahead, trip⟩] }

/-- A token on edges; the copies of a beat share its number. -/
def sendEdges (src : Nat) (cls : Cls) (o : Option Outlet) (ds : List Dest) (t : Token) (ahead : Option Nat) : Act :=
  (Act.each ds fun d => sendEdge src cls o d t ahead).andThen
    (.when o.isSome (.pkg fun p => { p with beats := p.beats + 1 }))

/-- The outlet of a node's port: static ports lead onto tracks. -/
def outlet (cfg core : Nat) (net : Net) (port : Nat) : Option Outlet := if net = .static then some ⟨cfg, core, port⟩ else none

/-- EOS or a wedge on edges: on the dynamic network with the number of tokens sent before it (R244). -/
def sendControl (src : Nat) (net : Net) (o : Option Outlet) (ds : List Dest) (t : Token) (sent : Nat) : Act :=
  match net with
  | .dynamic => sendEdges src .q3 none ds t (some sent)
  | _ => sendEdges src .st o ds t none

/-- Whether a control token on a dynamic edge that does not end at a node has every data token before it behind it. -/
def Machine.inOrder (m : Machine) (k : Nat) (x : Msg) : Bool :=
  match x.body with
  | .tok d t (some _) => !(m.net.take k).any fun y =>
      y.src == x.src && y.cls == .q0 && (match y.body with
        | .tok d' t' _ => d' == d && t'.colour == t.colour
        | _ => false)
  | _ => true

/-! ## Output ports -/

/-- A token on a port: after EOS it is discarded and recorded (06 R124). -/
def portToken (core node : Nat) (net : Net) (p : Nat) (t : Token) : Act := .look fun s =>
  match s.m.node? core node with
  | none => .quiet
  | some n =>
    let ps := n.portOf net p t.colour
    if ps.eosSent then nodeLate core node 0 t
    else
      match outPortOf n.info net p with
      | none => .quiet
      | some o => (sendEdges core (netCls net) (outlet n.cfg core net p) o.dests t none).andThen
          (modNode core node fun n => n.setPort net p t.colour { ps with sent := ps.sent + 1 })

/-- EOS on a port, once (06 R124, 01 R29): a second `eos` on a port whose EOS has left sends nothing either (log 128). -/
def portEos (core node : Nat) (net : Net) (p : Nat) (c : Colour) (seq : BitVec 16) (w : Nat) : Act := .look fun s =>
  match s.m.node? core node with
  | none => .quiet
  | some n =>
    let ps := n.portOf net p c
    if ps.eosSent then .quiet
    else
      match outPortOf n.info net p with
      | none => .quiet
      | some o => (sendControl core net (outlet n.cfg core net p) o.dests (mkTok c .eos seq (List.replicate w 0)) ps.sent).andThen
          (modNode core node fun n => n.setPort net p c { ps with eosSent := true })

/-- A wedge on a port (01 R30): with the count of the tokens sent before it. -/
def portWedge (core node : Nat) (net : Net) (p : Nat) (c : Colour) (seq : BitVec 16) (w : Nat) : Act := .look fun s =>
  match s.m.node? core node with
  | none => .quiet
  | some n => Act.each (outPortOf n.info net p).toList fun o =>
      sendControl core net (outlet n.cfg core net p) o.dests (mkTok c .wedge seq (List.replicate w 0)) (n.portOf net p c).sent

/-- What leaves a port. -/
def portEmit (core node : Nat) (net : Net) (p : Nat) (c : Colour) (x : CAct) : Act :=
  match x with
  | .out _ _ t => portToken core node net p t
  | .scaled _ _ z t => (portToken core node net p z).andThen (portToken core node net p t)
  | .send _ _ place desc t => .look fun s =>
    match s.m.node? core node with
    | none => .quiet
    | some n =>
      if (n.portOf net p c).eosSent then nodeLate core node 0 t
      else
      match s.portGroup n net p, s.place (clusterOf core) c n.cfg place.toNat with
      | d :: ds, _ => Act.each (d :: ds) fun site => send core site .q0 (.sent site desc t)
      | [], .error _ => Act.seq [countDiscard c, record { Record.blank with code := Code.place, col := c, site := core }, nodeRelease core node c]
      | [], .ok site => (usePlace (clusterOf core) c place.toNat).andThen (send core site .q0 (.sent site desc t))
  | .eos _ _ seq w => portEos core node net p c seq w
  | .wedge _ _ seq w => portWedge core node net p c seq w
  | _ => .quiet

/-- Takes one credit of a demand-gated port (R264). -/
def takeCredit (core node : Nat) (net : Net) (p : Nat) (c : Colour) : Act :=
  modNode core node fun n =>
    match outPortOf n.info net p with
    | some o => if o.gated then
        let ps := n.portOf net p c
        n.setPort net p c { ps with credit := ps.credit - 1 } else n
    | none => n

/-- Whether a port has a credit to take, or needs none. -/
def NodeState.hasCredit (n : NodeState) (net : Net) (p : Nat) (c : Colour) (k : Nat) : Bool :=
  match outPortOf n.info net p with
  | some o => !o.gated || k ≤ (n.portOf net p c).credit
  | none => true

/-- What is held behind a stream leaves as far as it may: a stream's place still empty, and a missing credit, stop it
(13 R230). -/
def flushPort (core node : Nat) (net : Net) (p : Nat) (c : Colour) : Nat → Act
  | 0 => .quiet
  | k + 1 => .look fun s =>
    match s.m.node? core node with
    | none => .quiet
    | some n =>
      match (n.portOf net p c).backlog with
      | [] => .quiet
      | (credit, x) :: rest =>
        match x with
        | .spdr .. => .quiet
        | _ =>
          if credit && !n.hasCredit net p c 1 then .quiet
          else
            Act.seq [
              modNode core node fun n => n.setPort net p c { n.portOf net p c with backlog := rest },
              .when credit (takeCredit core node net p c),
              portEmit core node net p c x,
              flushPort core node net p c k ]

/-- An output to a port: behind whatever the port holds, and with a credit where it is still to take one. -/
def portPush (core node : Nat) (net : Net) (p : Nat) (c : Colour) (credit : Bool) (x : CAct) : Act :=
  (modNode core node fun n =>
    let ps := n.portOf net p c
    n.setPort net p c { ps with backlog := ps.backlog ++ [(credit, x)] }).andThen (flushPort core node net p c 4096)

/-- An output whose credit has been taken. -/
def portOut (core node : Nat) (net : Net) (p : Nat) (c : Colour) (x : CAct) : Act := portPush core node net p c false x

/-- The stream of a drain takes the place that its `spdr` holds: the first token's credit was taken at commit. -/
def portStream (core node : Nat) (net : Net) (p : Nat) (c : Colour) (place : CAct) (ts : List Token) : Act :=
  (modNode core node fun n =>
    let ps := n.portOf net p c
    let here := ps.backlog.findIdx fun y => y.2 == place
    if here < ps.backlog.length then
      let xs := ts.map fun t => (true, CAct.out net p t)
      let stream := (xs.take 1).map (fun y => (false, y.2)) ++ xs.drop 1
      n.setPort net p c { ps with backlog := ps.backlog.take here ++ stream ++ ps.backlog.drop (here + 1) }
    else n).andThen (flushPort core node net p c 4096)

/-- A demand adds to a demand-gated port's credit, at most 2^20 - 1; elsewhere it has no effect (R264). -/
def addCredit (core node port : Nat) (c : Colour) (k : Nat) : Act := .look fun s =>
  match s.m.node? core node with
  | none => .quiet
  | some n =>
    match n.info.outs.find? fun o => o.port == port && o.gated with
    | none => .quiet
    | some o =>
      (modNode core node fun n =>
        let ps := n.portOf o.net port c
        n.setPort o.net port c { ps with credit := min (ps.credit + k) (2 ^ 20 - 1) }).andThen
          (flushPort core node o.net port c 4096)

/-- A demand at a demand-gated entry port (R256, R264). -/
def addEntryCredit (cfg port : Nat) (c : Colour) (k : Nat) : Act := .pkg fun p =>
  match tget? p.confs cfg with
  | none => p
  | some f =>
    let es := f.entries.map fun e =>
      if e.rcd.port = port && e.rcd.gated then
        let x := tgetD ⟨0, 0, e.rcd.credit, false, [], [], 0⟩ e.colours c.toNat
        { e with colours := tput e.colours c.toNat { x with credit := min (x.credit + k) (2 ^ 20 - 1) } }
      else e
    { p with confs := tput p.confs cfg { f with entries := es } }

end Sys2Proof.Machine
end

