-- ==== Sys2Proof/Machine/Tokens.lean ====
section
/-! DEFINITION. Tokens at a core (spec 01 R12, R13, R19, R29, R30; 03 R74; 06 R121, R123; 09 R162 to R164; 15 R244): arrival on a
channel and by tag, binding to windows, spill and replay, EOS, demand and wedge, windows, creations, admission and eviction. -/

namespace Sys2Proof.Machine

/-! ## Spill (09 R163, R164) -/

/-- A token goes to its colour's spoil; beyond the guard it is discarded with SPOIL_FULL in colour 0's area. -/
def spill (core : Nat) (x : Spilled) : Act := .look fun s =>
  let c := x.colour
  let (q, g) := s.spoilQuota c
  if q + g < s.spoilUsed c + 256 then
    (countDiscard c).andThen (recordIn 0 { Record.blank with
      code := Code.spoilFull, col := c, site := core, seq := x.tok?.elim 0 Token.seq, addr := x.tok?.elim 0 fun t => t.tag.toNat })
  else Act.seq [modCore core fun k => { k with spill := k.spill ++ [x] }, spoilAdd c 256, countSpill c]

/-- The ordering key of a spilled token (R163): its channel, or its frame. -/
def Spilled.key : Spilled → Nat × Nat × Nat × Nat
  | .chan n ch t _ => (t.colour.toNat, 0, n, ch)
  | .tag t => (t.colour.toNat, 1, t.frame.toNat, 0)
  | .reply r t => (t.colour.toNat, 1, r.frame, 0)
  | .sent desc t => (t.colour.toNat, 1, bits desc.toNat 16 10, 0)
  | .answer w _ _ => (w.colour.toNat, 1, w.frame, 0)

/-- Whether an earlier token of the same key is still in the spoil. -/
def CoreState.spilt (k : CoreState) (x : Spilled) : Bool := k.spill.any fun y => y.key == x.key

def occupyCore (core : Nat) (c : Colour) : Act := modCore core fun k => k.occupy c

/-! ## Default activations (01 R12) -/

def CoreState.defaultOf (k : CoreState) (node : Nat) (c : Colour) : Option (Nat × Activation) :=
  k.acts.find? fun (_, a) => a.kind == .default && a.node == node && a.colour == c

/-- A new activation at a frame. -/
def newAct (c : Colour) (frame uid width node cfg : Nat) (kind : ActKind) (seq : BitVec 16) (b : BitVec 6) : Activation where
  colour := c
  frame := frame
  uid := uid
  width := width
  node := node
  cfg := cfg
  kind := kind
  slots := []
  seq := seq
  reply := none
  next := .block b
  count := 0
  waves := []
  unacked := 0
  answers := []
  cmdsOut := []
  fault := none
  held := none
  after := []
  enrol := []
  owed := []
  tagged := []
  spilled := false
  ending := false

/-- An activation placed at its frame. -/
def startAct (core : Nat) (a : Activation) : Act := modCore core fun k =>
  { k with acts := tput k.acts a.frame a, nextUid := k.nextUid + 1 }

/-- The first token of a colour opens the node's default activation (R12). -/
def openDefault (core node : Nat) (n : NodeState) (c : Colour) (seq : BitVec 16) : Act := .look fun s =>
  let k := s.m.core core
  match k.freeFrame with
  | none => .quiet
  | some f =>
    (startAct core (newAct c f k.nextUid n.info.width node n.cfg .default seq 0)).andThen
      (modNode core node fun n => { n with opened := n.opened ||| (1#256 <<< c.toNat) })

/-! ## Binding (01 R19) -/

def bindings (n : NodeState) (w : Wave) : List Binding := ((tget? n.blocks w.block.toNat).map blockBindings).getD []

def bindsChan (n : NodeState) (w : Wave) (chan : Nat) : Bool := (bindings n w).any fun b => !b.frame && b.src == chan

/-- Queued tokens of a channel go to the waves that bind it, in wave order; a wedged channel and a node under partial
reconfiguration keep theirs (R30, 15 R255). -/
def bindChan (core node chan : Nat) (c : Colour) : Nat → Act
  | 0 => .quiet
  | n + 1 => .look fun s =>
    match s.m.node? core node with
    | none => .quiet
    | some nd =>
      let cs := nd.chan chan c
      if cs.wedged || !nd.admitting then .quiet
      else
        match cs.queue, (s.m.core core).defaultOf node c with
        | t :: rest, some (f, a) =>
          match a.waves.find? fun w => bindsChan nd w chan && !w.chans.contains chan with
          | none => .quiet
          | some w =>
            let who : Who := ⟨core, f, a.uid, w.idx, 0, c, w.run⟩
            Act.seq [
              modNode core node fun nd => nd.setChan chan c { cs with queue := rest },
              modWave core f w.idx fun v => { v with chans := chan :: v.chans },
              Act.each ((bindings nd w).filter fun b => !b.frame && b.src == chan) fun b => intoWindow who b.slot b.field t true,
              bindChan core node chan c n ]
        | _, _ => .quiet

/-- Every channel of a node for a colour. -/
def bindAll (core node : Nat) (c : Colour) : Act := .look fun s =>
  match s.m.node? core node with
  | none => .quiet
  | some n => Act.each n.info.ins fun i => bindChan core node i.chan c 64

/-- R24: the frame reads of the oldest wave, performed once every wave before it has committed. -/
def bindFrame (core frame : Nat) : Act := .look fun s =>
  match s.m.act? core frame with
  | none => .quiet
  | some a =>
    match a.waves, s.m.node? core a.node with
    | w :: _, some n =>
      if w.framed then .quiet
      else
        let who : Who := ⟨core, frame, a.uid, w.idx, 0, a.colour, w.run⟩
        (modWave core frame w.idx fun v => { v with framed := true }).andThen
          (Act.each ((bindings n w).filter Binding.frame) fun b => intoWindow who b.slot b.field (a.slotTok b.src) true)
    | _, _ => .quiet

/-! ## Arrival on a channel (R19, 03 R74, 09 R163) -/

/-- The virtual-channel table entry of a channel, and whether it pairs each data token with a scale token (03 R74). -/
def inlineScale (k : CoreState) (entry : Nat) : Bool :=
  match tget? k.vc entry with
  | some v => v.ctl.getLsbD 8 && isBlockCode (v.ctl.toNat % 32)
  | none => false
where
  /-- The block formats (R43). -/
  isBlockCode (f : Nat) : Bool := 0x0D ≤ f && f ≤ 0x14

/-- A data token with the scale token before it (R74). -/
def paired (z t : Token) : Token :=
  if z.kind = .poison then { t with kind := .poison, lanes := List.replicate t.lanes.length 0 }
  else if z.kind = .error then errTok t.colour z.code t.seq t.lanes.length
  else if z.lanes.length ≠ 4 then errTok t.colour errWidth t.seq t.lanes.length
  else { t with scale := z.lanes }

/-- Whether the default activation of a colour takes no further token: it has ended, its EOS has gone, or it has retired. -/
def NodeState.past (n : NodeState) (k : CoreState) (node : Nat) (c : Colour) : Bool :=
  n.ended.getLsbD c.toNat || n.eosDone.getLsbD c.toNat ||
    (match k.defaultOf node c with
      | some (_, a) => a.waves == [] && a.next == .ended
      | none => false)

/-- One more token of the colour has come from the channel's edge (15 R244). -/
def countArrival (core node chan : Nat) (c : Colour) : Act := modNode core node fun n =>
  let cs := n.chan chan c
  n.setChan chan c { cs with arrived := cs.arrived + 1 }

/-- Whether a standing wave takes the next token of a channel at once: such a token needs no line of its own (09 R161, R163). -/
def CoreState.bindsNow (k : CoreState) (n : NodeState) (node chan : Nat) (c : Colour) : Bool :=
  let cs := n.chan chan c
  cs.queue == [] && !cs.wedged && n.admitting &&
    (k.defaultOf node c).any fun (_, a) => a.waves.any fun w => bindsChan n w chan && !w.chans.contains chan

/-- What a token of a closed channel leaves as on an output port (01 R29, 02 R41, 04 R97): UNPAIRED at the node's width, or a predicate. -/
def closedToken (n : NodeState) (net : Net) (t : Token) : Token :=
  let e := errFor t errUnpaired
  if net = .control then ctlToken e else { e with lanes := padLanes n.info.width e.lanes }

/-- A token that is neither EOS nor wedge reaches a channel: late, UNPAIRED on every output, spilled, held as a scale, or
queued and bound. -/
def chanArrive (core node chan : Nat) (t₀ : Token) : Act := .look fun s =>
  match s.m.node? core node with
  | none => coreLate core 0 t₀
  | some n =>
    let c := t₀.colour
    let cs := n.chan chan c
    let entry := ((n.info.ins.find? fun i => i.chan == chan).map InChan.entry).getD 0
    let t := { t₀ with chan := BitVec.ofNat 5 entry }
    if n.past (s.m.core core) node c then nodeLate core node 0 t
    else if cs.closed then
      Act.each n.info.outs fun o =>
        portPush core node o.net o.port c true (.out o.net o.port (closedToken n o.net t))
    else
      (occupyCore core c).andThen (.look fun s =>
        let k := s.m.core core
        let isNew := (k.defaultOf node c).isNone
        let scale := inlineScale k entry && t.kind ≠ .stop
        let need := (if k.bindsNow n node chan c && !(scale && cs.hold.isNone) then 0 else tokenLines t) +
          (if isNew then frameLines n.info.frame n.info.width else 0)
        let item := Spilled.chan node chan t none
        if k.spilt item || !k.grants c need || (isNew && k.freeFrame.isNone) then spill core item
        else
          Act.seq [
            .when isNew (openDefault core node n c t.seq),
            (if scale then
              match cs.hold with
              | none => modNode core node fun n => n.setChan chan c { n.chan chan c with hold := some t }
              | some z => modNode core node fun n =>
                  let x := n.chan chan c
                  n.setChan chan c { x with hold := none, queue := x.queue ++ [paired z t] }
            else modNode core node fun n =>
              let x := n.chan chan c
              n.setChan chan c { x with queue := x.queue ++ [t] }),
            bindChan core node chan c 64 ])

/-! ## EOS and wedge at a channel (R29, R30) -/

/-- Every window of the colour at a node is looked at for operands that wait on closed channels. -/
def unpairedAll (core node : Nat) (c : Colour) : Act := .look fun s =>
  Act.each ((s.m.core core).acts.filter fun (_, a) => a.node == node && a.colour == c) fun (f, _) => sweepAct core f

/-- EOS closes the channel, also after a `retire`: a scale token that waits is discarded (03 R74), and operands that wait on it are
UNPAIRED. A token that is never matched opens no activation (R12, log 95). EOS of a colour that is no occupant goes to the spoil, and so
does EOS behind tokens of its channel that have spilled (09 R162, R163). -/
def closeChan (core node chan : Nat) (t : Token) : Act := .look fun s =>
  match s.m.node? core node with
  | none => .quiet
  | some n =>
    let c := t.colour
    let cs := n.chan chan c
    let item := Spilled.chan node chan t none
    if n.ended.getLsbD c.toNat || n.eosDone.getLsbD c.toNat || cs.closed then .quiet
    else (occupyCore core c).andThen (.look fun s =>
      if (s.m.core core).spilt item || !(s.m.core core).grants c 0 then spill core item
      else Act.seq [
        .when cs.hold.isSome (nodeDiscard core node c),
        modNode core node fun n => n.setChan chan c { n.chan chan c with closed := true, hold := none },
        unpairedAll core node c ])

/-- A wedge: the channel's tokens stay in its buffer from now on (R30). -/
def wedgeChan (core node chan : Nat) (c : Colour) : Act := modNode core node fun n =>
  n.setChan chan c { n.chan chan c with wedged := true }

/-- A control token on a channel, held until the tokens before it on a dynamic edge have arrived (15 R244). -/
def chanControl (core node chan : Nat) (t : Token) (ahead : Option Nat) : Act := .look fun s =>
  match s.m.node? core node with
  | none => .quiet
  | some n =>
    let cs := n.chan chan t.colour
    match ahead with
    | some a =>
      if cs.arrived < a then modNode core node fun n => n.setChan chan t.colour { cs with held := cs.held ++ [(t, a)] }
      else actOn cs t
    | none => actOn cs t
where
  actOn (_ : ChanState) (t : Token) : Act :=
    if t.kind = .wedge then wedgeChan core node chan t.colour else closeChan core node chan t

/-! ## Arrival events -/

/-- Message k, a token on a channel of the kinds that a row names; until its configuration is complete no site takes one (15 R255). -/
def chanEvent (ok : Kind → Bool) (act : Nat → Nat → Nat → Token → Option Nat → Act) : Act := .look fun s =>
  match s.m.msg? s.m.at_.k with
  | some msg =>
    match msg.body with
    | .tok (.chan core node chan) t ahead =>
      if ok t.kind && s.takes core then (takeMsg s.m.at_.k).andThen (act core node chan t ahead) else .quiet
    | _ => .quiet
  | none => .quiet

/-- R19: a token on a channel is counted, then bound, queued, spilled or discarded. -/
def execChannelTokenArrive (s : State) : Host.Outcome State Fault Refusal :=
  .next ((chanEvent (fun k => k ≠ .eos && k ≠ .wedge && k ≠ .demand) fun core node chan t _ =>
    (countArrival core node chan t.colour).andThen (chanArrive core node chan t)).run s)

/-- R29: EOS on a channel. -/
def execEosToken (s : State) : Host.Outcome State Fault Refusal :=
  .next ((chanEvent (fun k => k = .eos) fun core node chan t ahead => chanControl core node chan t ahead).run s)

/-- R30: a wedge on a channel. -/
def execWedgeToken (s : State) : Host.Outcome State Fault Refusal :=
  .next ((chanEvent (fun k => k = .wedge) fun core node chan t ahead => chanControl core node chan t ahead).run s)

/-- R244: the oldest held control token of the channel that the latch names by core, node and key (channel × 256 + colour)
is acted on once the tokens before it have arrived. -/
def execDynControlRelease (s : State) : Host.Outcome State Fault Refusal :=
  .next ((Act.look fun s =>
    let core := s.m.at_.core
    let node := s.m.at_.node
    let chan := s.m.at_.k / 256
    let c : Colour := BitVec.ofNat 8 s.m.at_.k
    match s.m.node? core node with
    | none => .quiet
    | some n =>
      let cs := n.chan chan c
      match cs.held with
      | (t, a) :: rest =>
        if cs.arrived < a then .quiet
        else (modNode core node fun n => n.setChan chan c { cs with held := rest }).andThen
          (chanControl core node chan t none)
      | [] => .quiet).run s)

/-- R264: a demand token adds its count to the port's credit, or to a demand-gated entry port's. -/
def execDemandToken (s : State) : Host.Outcome State Fault Refusal :=
  .next ((Act.look fun s =>
    match s.m.msg? s.m.at_.k with
    | some msg =>
      match msg.body with
      | .demand core node port c k => if !s.takes core then .quiet else (takeMsg s.m.at_.k).andThen (addCredit core node port c k)
      | .demandEntry cfg port c k => (takeMsg s.m.at_.k).andThen (addEntryCredit cfg port c k)
      | _ => .quiet
    | none => .quiet).run s)

/-! ## Arrival by tag (R20, 06 R121, R123) -/

/-- The oldest wave whose block uses a field and holds it empty (06 R123). -/
def oldestEmpty (n : NodeState) (a : Activation) (slot : Nat) (f : Field) : Option Wave :=
  a.waves.find? fun w =>
    match (tget? n.blocks w.block.toNat).bind fun b => blockIns b slot with
    | some (o, g) => usesField o g f && !((w.slots[slot]?.map fun v => v.seen f).getD true)
    | none => false

/-- A token waits for its window, in the node's input queue. -/
def waitTagged (core frame : Nat) (idx : Option Nat) (t : Token) : Act := modAct core frame fun a =>
  { a with tagged := a.tagged ++ [(idx, t)] }

def fieldAt (b : BitVec 2) : Option Field :=
  match b.toNat with
  | 0 => some .l
  | 1 => some .r
  | 2 => some .p
  | _ => none

/-- A token that names a wave of an activation (none: the oldest whose block uses the field, R123): BAD_KIND and BAD_FIELD (R17), or
matched, late where no such wave is to come (log 104), spilled, or waiting for its wave, or until its node admits tokens (15 R255). -/
def tagArrive (core frame : Nat) (item : Spilled) (t : Token) (idx : Option Nat) : Act := .look fun s =>
  match s.m.act? core frame with
  | none => coreLate core frame t
  | some a =>
    match s.m.node? core a.node with
    | none => coreLate core frame t
    | some n =>
      let slot := t.slot.toNat
      let bad (code : Nat) : Act :=
        tokenFault (a.who core frame (idx.getD ((a.waves.head?.map Wave.idx).getD a.count)) slot) code t
      if unmatched t.kind then bad Code.badKind
      else
      match fieldAt t.field with
      | none => bad Code.badField
      | some f =>
        let target := match idx with
          | some i => a.wave? i
          | none => oldestEmpty n a slot f
        match target with
        | some w =>
          if n.admitting then intoWindow (a.who core frame w.idx 0) slot f t true
          else if (s.m.core core).spilt item || !(s.m.core core).grants a.colour (tokenLines t) then spill core item
          else waitTagged core frame idx t
        | none =>
          if a.next = .ended || (match idx with
            | some i => i < a.count
            | none => false) then nodeLate core a.node frame t
          else if (s.m.core core).spilt item || !(s.m.core core).grants a.colour (tokenLines t) then spill core item
          else waitTagged core frame idx t

/-- A reply no longer owed to a wave (06 R121). -/
def replyCame (r : Reply) : Act := modAct r.core r.frame fun a =>
  if a.uid = r.uid then { a with owed := tset 0 a.owed r.wave (tgetD 0 a.owed r.wave - 1) } else a

/-- A token with its tag set to where it goes. -/
def Token.at (t : Token) (frame slot : Nat) (f : BitVec 2) (wave : Nat) : Token :=
  { t with frame := BitVec.ofNat 10 frame, slot := BitVec.ofNat 5 slot, field := f, wave := BitVec.ofNat 8 wave }

/-- The wave of an activation that a full tag names, by its number modulo 256 (R11). -/
def Activation.waveOf (a : Activation) (t : Token) : Nat :=
  let first := match a.waves with
    | w :: _ => w.idx
    | [] => a.count
  first + (t.wave.toNat + 256 - first % 256) % 256

/-- A full-tag token, a reply or a send at its core; answers to loads have an event of their own (R163). -/
def itemArrive (core : Nat) (item : Spilled) : Act := .look fun s =>
  match item with
  | .chan node chan t _ => if t.kind = .eos then closeChan core node chan t else chanArrive core node chan t
  | .tag t =>
    match s.m.act? core t.frame.toNat with
    | some a =>
      if a.colour ≠ t.colour then coreLate core t.frame.toNat t
      else tagArrive core t.frame.toNat item t (some (a.waveOf t))
    | none => coreLate core t.frame.toNat t
  | .reply r t =>
    match s.m.act? core r.frame with
    | some a =>
      if a.uid ≠ r.uid then coreLate core r.frame t
      else (tagArrive core r.frame item (Token.at t r.frame r.slot.toNat r.field.toBits r.wave) (some r.wave)).andThen
        (.look fun s => if (s.m.core core).spill.contains item then .quiet else replyCame r)
    | none => coreLate core r.frame t
  | .sent desc t =>
    let f := bits desc.toNat 16 10
    match s.m.act? core f with
    | some a =>
      if a.colour ≠ t.colour then coreLate core f t
      else tagArrive core f item (Token.at t f (bits desc.toNat 26 5) (if desc.getLsbD 31 then 1 else 0) 0) none
    | none => coreLate core f t
  | .answer _ _ _ => .quiet

/-- Arrivals for a colour that was evicted, or behind a spilled token of their key, go to the spoil (R162, R163). -/
def itemOrSpill (core : Nat) (item : Spilled) : Act := .look fun s =>
  let k := s.m.core core
  if k.spilt item || k.evicted.contains item.colour then spill core item else itemArrive core item

/-- Whether a reply's activation stands in a save: the reply waits until it is restored (16 R277). -/
def State.savedReply (s : State) (r : Reply) : Bool := s.m.pkg.confs.any fun (_, f) =>
  match f.save with
  | some v => ((tget? v.cores r.core).map fun k => k.acts.any fun (g, a) => g == r.frame && a.uid == r.uid).getD false
  | none => false

/-- R20: message k, a token with its tag, a reply or a send, is matched into a window field. -/
def execTokenArrive (s : State) : Host.Outcome State Fault Refusal :=
  .next ((Act.look fun s =>
    match s.m.msg? s.m.at_.k with
    | some msg =>
      match msg.body with
      | .tag core t => if !s.takes core then .quiet else (takeMsg s.m.at_.k).andThen (itemOrSpill core (.tag t))
      | .reply r t => if s.savedReply r || !s.takes r.core then .quiet else (takeMsg s.m.at_.k).andThen (itemOrSpill r.core (.reply r t))
      | .sent core desc t => if !s.takes core then .quiet else (takeMsg s.m.at_.k).andThen (itemOrSpill core (.sent desc t))
      | _ => .quiet
    | none => .quiet).run s)

/-! ## Windows (01 R13, R14) -/

def newWave (idx : Nat) (b : BitVec 6) (order : Nat) : Wave where
  idx := idx
  block := b
  slots := List.replicate 32 Slot.empty
  exit := none
  exitsNull := 0
  stores := 0
  outputs := 0
  own := 0
  succ := 0
  memDone := 0
  acts := []
  bound := []
  chans := []
  framed := false
  pend := []
  outside := false
  fault := false
  skip := none
  order := order
  run := 0
  buffer := false

/-- Tokens that wait for the newest window, or for their node to admit tokens. -/
def placeTagged (core frame : Nat) : Act := .look fun s =>
  match s.m.act? core frame with
  | none => .quiet
  | some a => .when ((s.m.node? core a.node).any NodeState.admitting) <|
    (modAct core frame fun a => { a with tagged := [] }).andThen
      (Act.each a.tagged fun (i, t) => .look fun s =>
        match s.m.act? core frame, s.m.node? core a.node, fieldAt t.field with
        | some b, some n, some f =>
          let target := match i with
            | some j => b.wave? j
            | none => oldestEmpty n b t.slot.toNat f
          match target with
          | some w => intoWindow ⟨core, frame, b.uid, w.idx, 0, b.colour, w.run⟩ t.slot.toNat f t true
          | none => waitTagged core frame i t
        | _, _, _ => .quiet)

/-- Whether the next window of an activation may be allocated (R13). -/
def mayAllocate (s : State) (core : Nat) (a : Activation) : Bool :=
  match s.m.node? core a.node with
  | none => false
  | some n =>
    (match a.next with
      | .block _ => true
      | _ => false) &&
    a.fault.isNone && !a.spilled && !n.frozen && n.admitting && a.waves.length < n.info.occ &&
    (s.m.core core).grants a.colour (windowLines a.width) && s.issues a.cfg

/-- R13: the window of the next wave. -/
def execWindowAllocate (s : State) : Host.Outcome State Fault Refusal :=
  .next ((Act.look fun s =>
    let core := s.m.at_.core
    let frame := s.m.at_.frame
    match s.m.act? core frame with
    | none => .quiet
    | some a =>
      match a.next with
      | .block b =>
        if mayAllocate s core a then
          let k := s.m.core core
          Act.seq [
            modCore core fun k => { k with nextOrder := k.nextOrder + 1 },
            modAct core frame fun a =>
              { a with waves := a.waves ++ [newWave a.count b k.nextOrder], count := a.count + 1, next := .unknown },
            bindFrame core frame,
            .when (a.kind = .default) (bindAll core a.node a.colour),
            placeTagged core frame ]
        else .quiet
      | _ => .quiet).run s)

/-! ## Creations (06 R121) -/

/-- The lanes of f0, cut or filled to the new width. -/
def seedSlot (c : Colour) (l : Token) (w : Nat) : Token := mkTok c .data l.seq (padLanes w l.lanes)

/-- A creation starts where a frame and the partition's room are free, and otherwise `wait` follows. -/
def tryCreate (x : Creation) (wait : Act) : Act := .look fun s =>
  let k := (s.m.core x.core).occupy x.colour
  match k.nodes.find? fun (_, n) => n.info.handle.toNat == x.handle with
  | none => coreLate x.core 0 x.l
  | some (node, n) =>
    match k.freeFrame with
    | some f =>
      if k.grants x.colour (frameLines n.info.frame n.info.width) then
        (occupyCore x.core x.colour).andThen
          (startAct x.core { newAct x.colour f k.nextUid n.info.width node n.cfg .explicit x.seq x.entry with
            reply := x.reply, slots := [(0, seedSlot x.colour x.l n.info.width)] })
      else wait
    | none => wait

/-- A creation waits at its core, behind those that wait there, and in its colour's spoil (R121, log 105). -/
def holdCreation (x : Creation) : Act :=
  (modCore x.core fun k => { k.occupy x.colour with creations := k.creations ++ [x] }).andThen (spoilAdd x.colour 256)

/-- The oldest creation of a colour that waits at a core is tried again; while it must wait, its place stays its own. -/
def retryCreation (core : Nat) (c : Colour) : Act := .look fun s =>
  match (s.m.core core).creations.find? fun x => x.colour == c with
  | some x =>
    Act.seq [modCore core fun k => { k with creations := k.creations.erase x }, spoilSub c 256,
      tryCreate x ((modCore core fun k => { k.occupy c with creations := x :: k.creations }).andThen (spoilAdd c 256))]
  | none => .quiet

/-- R121: message k, a creation, reaches its core, or else the oldest creation of the latch's colour that waits at its core is tried
again. -/
def execSpawnCreate (s : State) : Host.Outcome State Fault Refusal :=
  .next ((Act.look fun s =>
    match s.m.msg? s.m.at_.k with
    | some msg =>
      match msg.body with
      | .spawn x => if !s.takes x.core then .quiet else (takeMsg s.m.at_.k).andThen
          (if (s.m.core x.core).creations.any fun y => y.colour == x.colour then holdCreation x else tryCreate x (holdCreation x))
      | _ => retryCreation s.m.at_.core (BitVec.ofNat 8 s.m.at_.colour)
    | none => retryCreation s.m.at_.core (BitVec.ofNat 8 s.m.at_.colour)).run s)

/-! ## Admission and eviction (09 R162) -/

/-- What an eviction writes to the spoil: its lines. -/
def evictBytes (k : CoreState) (c : Colour) : Nat := 128 * k.held c

/-- R162: the head of the admission order becomes an occupant; one that was evicted comes back as it was. -/
def execColourAdmit (s : State) : Host.Outcome State Fault Refusal :=
  .next ((Act.look fun s =>
    let core := s.m.at_.core
    let k := s.m.core core
    match k.waiting with
    | [] => .quiet
    | c :: rest =>
      if !k.admits c then .quiet
      else
        Act.seq [
          modCore core fun k => { k with
            occupants := k.present ++ [c], waiting := rest, evicted := k.evicted.filter (· != c)
            acts := k.acts.map fun (f, a) => (f, if a.colour = c then { a with spilled := false } else a) },
          .when (k.evicted.contains c) (spoilSub c (evictBytes k c)) ]).run s)

/-- R162: while the head of the order waits, the occupant resident longest is written to its spoil and joins the back. -/
def execColourEvict (s : State) : Host.Outcome State Fault Refusal :=
  .next ((Act.look fun s =>
    let core := s.m.at_.core
    let k := s.m.core core
    match k.waiting, k.present with
    | w :: _, c :: rest =>
      if k.admits w then .quiet
      else
        Act.seq [
          spoilAdd c (evictBytes k c),
          modCore core fun k => { k with
            occupants := rest, waiting := k.waiting ++ [c], evicted := c :: k.evicted
            acts := k.acts.map fun (f, a) => (f, if a.colour = c then { a with spilled := true } else a) } ]
    | _, _ => .quiet).run s)

end Sys2Proof.Machine
end

