-- ==== Sys2Proof/Machine/Capsule.lean ====
section
/-! DEFINITION. Capsules (spec 07): buffers, landing and joins, the fifteen instructions, the changes of a commit, the journey. -/

namespace Sys2Proof.Machine

/-! ## Buffers (R134) -/

def buffersOf (k : CoreState) : Nat := k.buffers.length

def takeBuffer (core uid : Nat) (c : Colour) : Act := modCore core fun k => { k with buffers := k.buffers ++ [(uid, c)] }

def BufReq.colour : BufReq → Colour
  | .land h => h.cap.colour
  | .fire _ _ _ _ c => c
  | .resume _ _ c => c

def BufReq.isLand : BufReq → Bool
  | .land _ => true
  | _ => false

/-- The request that a free buffer goes to: the oldest of a colour that holds none here, else the oldest. -/
def nextBufReq (k : CoreState) : Option BufReq :=
  (k.bufReqs.find? fun r => !k.buffers.any fun b => b.2 == r.colour).orElse fun _ => k.bufReqs.head?

/-! ## Capsules as data -/

/-- An itinerary of fifteen entries from those given. -/
def itinOf (es : List Word) : List Word := (es ++ List.replicate 15 0).take 15

/-- A new capsule's header and tile (R144). -/
def newCapsule (c : Colour) (cls lines w cid orig ret : Nat) (note : Bool) (seq : BitVec 16) (es : List Word) : Capsule :=
  let h0 := c.toNat * 2 ^ 56 + cls % 256 * 2 ^ 48 + seq.toNat * 2 ^ 32 + cid
  let h1 := (w - 1) * 2 ^ 59 + lines % 128 * 2 ^ 52 + es.length % 16 * 2 ^ 48 + (if note then 2 ^ 43 else 0) + orig * 2 ^ 16 +
    ret % 2 ^ 16
  let h2 := 0xF * 2 ^ 48 + ret / 2 ^ 16 % 2 ^ 16 * 2 ^ 16
  ⟨[BitVec.ofNat 64 h0, BitVec.ofNat 64 h1, BitVec.ofNat 64 h2, 0, 0, 0, 0, 0], itinOf es, List.replicate (lines * 128) 0, []⟩

/-- A chunk written (R136): an error or poison token taints the tile, a stop token does not. The 64-bit words that it covers whole are whole
again. -/
def Capsule.write (c : Capsule) (w k : Nat) (t : Token) : Capsule :=
  let bs := laneBytes (padLanes w t.lanes)
  let c' := { c with
    tile := c.tile.take (4 * w * k) ++ bs ++ c.tile.drop (4 * w * (k + 1))
    hurt := c.hurt.filter fun i => 8 * i < 4 * w * k || 4 * w * (k + 1) < 8 * i + 8 }
  if t.isBad then
    let c'' := c'.set 1 40 1 1
    if c.get 2 8 8 = 0 then c''.set 2 8 8 (if t.kind = .poison then 0xFF else t.code.toNat) else c''
  else c'

/-- The relative place of a core in its configuration's rectangle (15 R249). -/
def State.relPlace (s : State) (cfg core : Nat) : Nat :=
  match tget? s.m.pkg.confs cfg with
  | none => 0
  | some f =>
    match (upFrom (f.w * f.h) 0).find? fun k => f.slabAt (k % f.w) (k / f.w) == slabOf core with
    | some k => 2 ^ 15 + k * 2 ^ 5 + slabIndex core
    | none => 0

/-! ## The commit of capsule changes (R137, R144) -/

/-- The held capsule changed by a function, or the code of the breach. -/
def onHeld (h : Option Held) (f : Capsule → Except Nat Capsule) : Except Nat (Option Held) :=
  match h with
  | none => .error Code.capNone
  | some x => (f x.cap).map fun c => some { x with cap := c }

def Capsule.setItin (c : Capsule) (es : List Word) (cnt : Nat) : Capsule :=
  { c with itin := itinOf es }.set 1 48 4 cnt

/-- The entries in use. -/
def Capsule.used (c : Capsule) : List Word := c.itin.take c.cnt

/-- One change. `w` is the activation's width; `fresh` what a `capn` makes or adopts. -/
def capChange (w : Nat) (fresh : CapAct → Except Nat Held) (h : Option Held) (a : CapAct) : Except Nat (Option Held) :=
  match a with
  | .new .. => if h.isSome then .error Code.capHeld else (fresh a).map some
  | .adopt .. => if h.isSome then .error Code.capHeld else (fresh a).map some
  | .next i => onHeld h fun c => if i ≤ c.cnt then .ok (c.set 1 44 4 i) else .error Code.capItin
  | .push e => onHeld h fun c => if c.cnt < 15 then .ok (c.setItin (c.used ++ [e]) (c.cnt + 1)) else .error Code.capItin
  | .ins i e => onHeld h fun c =>
      if c.cur ≤ i && i ≤ c.cnt && c.cnt < 15 then .ok (c.setItin (c.used.take i ++ e :: c.used.drop i) (c.cnt + 1))
      else .error Code.capItin
  | .rep i e => onHeld h fun c => if i < c.cnt then .ok { c with itin := setAt c.itin i e } else .error Code.capItin
  | .repPlace i p => onHeld h fun c =>
      if i < c.cnt then
        .ok { c with itin := setAt c.itin i (BitVec.ofNat 64 ((c.entry i).toNat % 2 ^ 48 + p.toNat * 2 ^ 48)) }
      else .error Code.capItin
  | .del i => onHeld h fun c =>
      if c.cur ≤ i && i < c.cnt then .ok (c.setItin (dropAt c.used i) (c.cnt - 1)) else .error Code.capItin
  | .st k t => onHeld h fun c => if k < c.chunks w then .ok (c.write w k t) else .error Code.capRange
  | _ => .ok h

def isFrame : Target → Bool
  | .frame _ => true
  | _ => false

/-- What a commit applies after every other change, to the capsule held then (R137). -/
def appliesLast : CapAct → Bool
  | .fork _ => true
  | .go => true
  | .park _ => true
  | _ => false

/-- A fork (R140): the original and the copy. -/
def Capsule.fork (c : Capsule) (j : Nat) : Except Nat (Capsule × Capsule) :=
  if !entryFork (c.entry j) || c.parts = 15 then .error Code.capItin
  else
    let p := c.parts + 1
    let o := (if c.parts = 0 then c.set 3 32 32 c.cid else c).set 3 28 4 p
    .ok (o, ((o.set 1 42 1 1).set 1 44 4 j).set 3 24 4 p)

/-- What a commit does to the held capsule: the capsule after it, the copies, and what leaves under which code. -/
structure CapPlan where
  held : Option Held
  copies : List Held
  leave : Option (Held × Option (BitVec 8))

/-- Ascending slot order; events of one slot stay as they are. -/
def insertSlot {α : Type} (x : Nat × α) : List (Nat × α) → List (Nat × α)
  | [] => [x]
  | y :: ys => if x.1 < y.1 then x :: y :: ys else y :: insertSlot x ys

def bySlot {α : Type} (xs : List (Nat × α)) : List (Nat × α) := xs.foldl (fun acc x => insertSlot x acc) []

/-- The changes of one commit, in slot order; then the forks, then what leaves (R137), by the lowest slot that says so (log 111). An
error names its slot and code. A `ctxf` writes its status to a frame slot in its place. -/
def capPlan (kind : ActKind) (w : Nat) (fresh : CapAct → Except Nat Held) (h : Option Held) (acts : List (Nat × CAct)) :
    Except (Nat × Nat) CapPlan :=
  let sorted := bySlot acts
  let changed := sorted.foldl (fun acc (i, a) =>
    match acc with
    | .error e => .error e
    | .ok h' =>
      match a with
      | .cap ca => (capChange w fresh h' ca).mapError fun c => (i, c)
      | .frame n t => if kind = .capsule then
            (onHeld h' fun c => .ok (c.write w n t)).mapError fun c => (i, c)
          else .ok h'
      | .ctxf _ _ t0 t1 => if kind = .capsule && (isFrame t0 || isFrame t1) then
            (onHeld h' fun c => .ok c).mapError fun c => (i, c)
          else .ok h'
      | _ => .ok h') (.ok h : Except (Nat × Nat) (Option Held))
  match changed with
  | .error e => .error e
  | .ok none =>
    match sorted.find? fun (_, a) => match a with
        | .cap ca => appliesLast ca
        | _ => false with
    | some (i, _) => .error (i, Code.capNone)
    | none => .ok ⟨none, [], none⟩
  | .ok (some x) =>
    let forked := sorted.foldl (fun acc (i, a) =>
      match acc with
      | .error e => .error e
      | .ok ((y, cs) : Held × List Held) =>
        match a with
        | .cap (.fork j) => ((y.cap.fork j).map fun (o, c) =>
            ({ y with cap := o }, cs ++ [{ y with cap := c, joined := false, parts := [] }])).mapError fun c => (i, c)
        | _ => .ok (y, cs)) (.ok (x, []) : Except (Nat × Nat) (Held × List Held))
    match forked with
    | .error e => .error e
    | .ok (y, cs) =>
      match sorted.findSome? fun (_, a) =>
          match a with
          | .cap .go => some (none : Option (BitVec 8))
          | .cap (.park c) => some (some c)
          | _ => none with
      | some code => .ok ⟨none, cs, some (y, code)⟩
      | none => .ok ⟨some y, cs, none⟩

/-- What a `capn` makes of its class, or reads from the spoil (R144). -/
def freshCapsule (s : State) (core cfg w : Nat) (c : Colour) (a : CapAct) : Except Nat Held :=
  match a with
  | .new cls note l ret =>
    match (tget? s.m.pkg.confs cfg).bind fun f => tget? f.classes cls with
    | some (lines, es) =>
      .ok ⟨newCapsule c cls lines w l.lane0.toNat (s.relPlace cfg core) ret.toNat note l.seq es, cfg, false, []⟩
    | none => .ok ⟨newCapsule c cls 1 w l.lane0.toNat (s.relPlace cfg core) ret.toNat note l.seq [], cfg, false, []⟩
  | .adopt handle =>
    match s.m.pkg.parked.find? fun p => p.handle == handle with
    | some p => .ok ⟨(p.cap.set 1 41 1 1).set 2 48 4 15, cfg, false, []⟩
    | none => .error Code.capHandle
  | _ => .error Code.capNone

/-! ## The journey (R138, R140) -/

/-- A capsule has left its buffer, if it had one. -/
def freeOpt (core : Nat) (buffer : Option Nat) : Act :=
  match buffer with
  | some uid => freeBuffer core uid
  | none => .quiet

/-- The end of a journey: a notice where one is asked for, and one live capsule less. -/
def endJourney (core cfg : Nat) (h : Held) : Act := .look fun s =>
  let c := h.cap
  let desc : Lane := BitVec.ofNat 32 (c.get 2 16 16 * 2 ^ 16 + c.get 1 0 16)
  let taint : Lane := if c.get 1 40 1 = 1 then 2 else 0
  let t := mkTok c.colour .data c.seqNo (padLanes c.width [BitVec.ofNat 32 c.cid, taint])
  let notice : Act :=
    match s.place (clusterOf core) c.colour cfg (c.get 1 0 16) with
    | .ok site => (usePlace (clusterOf core) c.colour (c.get 1 0 16)).andThen (send core site .q0 (.sent site desc t))
    | .error _ => (countDiscard c.colour).andThen
        (record { Record.blank with code := Code.place, col := c.colour, site := core, seq := c.seqNo })
  (Act.when (c.get 1 43 1 = 1) notice).andThen (liveMod h.home c.colour 0 1)

/-- The first join entry after an index, or CNT. -/
def Capsule.joinAfter (c : Capsule) (i : Nat) : Nat :=
  ((upFrom c.cnt 0).find? fun j => i < j && entryJoin (c.entry j)).getD c.cnt

/-- `capgo_commit`, of a capsule in an activation's buffer; without the FORK skip for a copy, which has no buffer. -/
def forward (core cfg : Nat) (h : Held) (buffer : Option Nat) : Act := .look fun s =>
  let v := h.cap.vent
  let c := if buffer.isSome && v ≠ 15 && entryFork (h.cap.entry v) then h.cap.set 1 44 4 (h.cap.joinAfter v) else h.cap
  if c.cnt ≤ c.cur || (v ≠ 15 && entryLast (c.entry v)) then
    (endJourney core cfg { h with cap := c }).andThen (freeOpt core buffer)
  else
    let p := entryPlace (c.entry c.cur)
    match s.place (clusterOf core) c.colour cfg p with
    | .error _ => parkCapsule core buffer h.home c .place c.cur 0
    | .ok site => Act.seq [
        usePlace (clusterOf core) c.colour p,
        send core site .q2 (.capsule site h.home (c.set 2 56 8 0)),
        freeOpt core buffer ]

/-- The parts of a completed join, as many as PARTS counted at the join, are discarded when part 0 leaves; its PARTS becomes 0
(R140). -/
def dropParts (h : Held) : Held × Act :=
  if h.joined then
    ({ h with cap := h.cap.set 3 28 4 0, joined := false, parts := [] },
      (liveMod h.home h.cap.colour 0 h.parts.length).andThen
        (spoilSub h.cap.colour (h.parts.foldl (fun n p => n + p.size) 0)))
  else (h, .quiet)

/-- A capsule leaves an activation: it goes on, or parks with its software code, the entry concerned being the one that it visits
(log 112). -/
def capLeave (core cfg uid : Nat) (h : Held) (code : Option (BitVec 8)) : Act :=
  let (x, drop) := dropParts h
  drop.andThen
    (match code with
      | none => forward core cfg x (some uid)
      | some p => parkCapsule core (some uid) x.home (x.cap.set 2 0 8 p.toNat) .soft x.cap.vent 0)

/-! ## Landing (R135, R140) -/

/-- An activation starts on a capsule in a buffer, at a free frame. `land` checks no EBLK against the node's blocks: one that names none starts an
activation whose wave has no block, so that it fires nothing and waits (log 131). -/
def startCapsule (core node : Nat) (n : NodeState) (h : Held) : Act := .look fun s =>
  let k := s.m.core core
  match k.freeFrame with
  | none => .quiet
  | some f =>
    let c := (h.cap.set 2 48 4 h.cap.cur).set 1 44 4 (h.cap.cur + 1)
    let e := h.cap.entry h.cap.cur
    Act.seq [
      occupyCore core c.colour,
      takeBuffer core k.nextUid c.colour,
      startAct core { newAct c.colour f k.nextUid c.width node n.cfg .capsule c.seqNo (BitVec.ofNat 6 (entryBlk e)) with
        held := some { h with cap := c } } ]

/-- A capsule lands where a buffer and a frame are free and no request waits; else it waits. -/
def landIn (core node : Nat) (n : NodeState) (h : Held) : Act := .look fun s =>
  let k := s.m.core core
  if k.bufReqs = [] && k.buffers.length < 2 && k.freeFrame.isSome then startCapsule core node n h
  else modCore core fun k => { k with bufReqs := k.bufReqs ++ [.land h] }

/-- The checks of `land` on the entry at CUR: the node there, or the code to park with. -/
def landAt (s : State) (core home : Nat) (c : Capsule) : Except ParkCode (Nat × NodeState) :=
  let e := c.entry c.cur
  let found := (s.m.core core).nodes.find? fun (_, n) => n.info.handle.toNat == entryHandle e
  let cfg := (found.map fun (_, n) => n.cfg).getD home
  match s.place (clusterOf core) c.colour cfg (entryPlace e), found with
  | .error _, _ => .error .place
  | .ok site, found =>
    if site ≠ core then .error .place
    else
      match found with
      | none => .error .node
      | some (node, n) =>
        if !n.info.colours.getLsbD c.colour.toNat then .error .colour
        else if n.info.width ≠ c.width || c.chunks c.width < n.info.frame || n.info.ins ≠ [] then .error .fit
        else .ok (node, n)

/-- Part 0 of a completed join lands under `land`'s checks (R140); where it parks, the other parts wait on. -/
def landWhole (core : Nat) (h : Held) : Act := .look fun s =>
  match landAt s core h.home h.cap with
  | .ok (node, n) => landIn core node n h
  | .error code => (rejoinParts (entryPlace (h.cap.entry h.cap.cur)) h).andThen
      (parkCapsule core none h.home h.cap code h.cap.cur 0)

/-- A part at a join entry: written to the spoil; the join completes with part 0 and every part up to its PARTS. The arrival record
stands until part 0 leaves (log 96). -/
def joinArrive (core : Nat) (h : Held) : Act := .look fun s =>
  let c := h.cap
  let key (j : JoinPart) : Bool := j.colour == c.colour && j.grp == c.grp && j.place == entryPlace (c.entry c.cur)
  let here := s.m.pkg.joins.filter key
  let zero := if c.pidx = 0 then some c else (here.find? fun j => j.cap.pidx == 0).map JoinPart.cap
  let dup := here.any fun j => j.cap.pidx == c.pidx
  let ovl := c.pidx ≠ 0 && (match zero with
    | some z => z.parts < c.pidx
    | none => false)
  let same (x : Held) : Bool := x.joined && x.cap.colour == c.colour && x.cap.grp == c.grp
  let k := s.m.core core
  let done := (k.acts.any fun (_, a) => (match a.held with
      | some x => same x && entryPlace (x.cap.entry x.cap.vent) == entryPlace (c.entry c.cur)
      | none => false)) ||
    k.bufReqs.any fun r => (match r with
      | .land x => same x && entryPlace (x.cap.entry x.cap.cur) == entryPlace (c.entry c.cur)
      | _ => false)
  if dup || ovl || done then parkCapsule core none h.home c .joinDup c.cur 0
  else
    let all := here ++ [⟨c.colour, c.grp, entryPlace (c.entry c.cur), h.home, c⟩]
    match zero with
    | none => (Act.pkg fun p => { p with joins := p.joins ++ all.drop here.length }).andThen (spoilAdd c.colour c.size)
    | some z =>
      let beyond := here.filter fun j => z.parts < j.cap.pidx
      let good := all.filter fun j => j.cap.pidx ≤ z.parts
      let parkBeyond := Act.each beyond fun j =>
        (spoilSub c.colour j.cap.size).andThen (parkCapsule core none j.cfg j.cap .joinDup j.cap.cur 0)
      if (upFrom (z.parts + 1) 0).all fun i => good.any fun j => j.cap.pidx == i then
        let home := ((good.find? fun j => j.cap.pidx == 0).map JoinPart.cfg).getD h.home
        let others := (good.filter fun j => j.cap.pidx ≠ 0).map JoinPart.cap
        Act.seq [
          .pkg fun p => { p with joins := p.joins.filter fun j => !key j },
          parkBeyond,
          (if c.pidx = 0 then .quiet else (spoilAdd c.colour c.size).andThen (spoilSub c.colour z.size)),
          landWhole core ⟨z, home, true, others⟩ ]
      else
        Act.seq [
          .pkg fun p => { p with joins := (p.joins.filter fun j => !key j) ++ good },
          parkBeyond, spoilAdd c.colour c.size ]

/-- `land` (R135). -/
def land (core home : Nat) (c : Capsule) : Act := .look fun s =>
  match landAt s core home c with
  | .error code => parkCapsule core none home c code c.cur 0
  | .ok (node, n) =>
    if entryJoin (c.entry c.cur) && 0 < c.parts then joinArrive core ⟨c, home, false, []⟩
    else landIn core node n ⟨c, home, false, []⟩

/-- Whether the capsules that reach a core stay in its input queues, to be saved there (R147, 16 R277). -/
def State.keepsCapsules (s : State) (core : Nat) : Bool :=
  match s.confAt core with
  | some f => [CfgPhase.settling, .saving].contains f.phase
  | none => false

/-- A capsule settles into a core's input queue; while the core's state is being streamed out, into what is saved of it. -/
def keepCapsule (core : Nat) (h : Held) : Act := .look fun s =>
  let put (k : CoreState) : CoreState := { k with arrived := k.arrived ++ [h] }
  match s.m.pkg.confs.find? fun (_, f) => f.phase == .saving && f.slabs.contains (slabOf core) with
  | some (cfg, _) => modConf cfg fun f => { f with save := f.save.map fun v => { v with
      cores := tput v.cores core (put (tgetD CoreState.zero v.cores core)) } }
  | none => modCore core put

/-- R135: message k, a capsule, lands. -/
def execCapsuleLand (s : State) : Host.Outcome State Fault Refusal :=
  .next ((Act.look fun s =>
    match s.m.msg? s.m.at_.k with
    | some msg =>
      match msg.body with
      | .capsule core home c => if !s.takes core then .quiet else (takeMsg s.m.at_.k).andThen
          (if s.keepsCapsules core then keepCapsule core ⟨c, home, false, []⟩
           else land core home c)
      | _ => .quiet
    | none => .quiet).run s)

/-! ## Taking a buffer for `capn` (R134, R144) -/

/-- A `capn` has its buffer: L is delivered, and the capsule made or adopted at commit. -/
def capnTake (w : Who) (l : Token) (a : CapAct) : Act := .look fun s =>
  match ctxAt s w.core w.frame w.wave w.slot with
  | none => .quiet
  | some x =>
    Act.seq [takeBuffer w.core x.a.uid x.colour, x.mod fun v => { v with buffer := true },
      x.emit (match x.ins with
        | some (_, f) => f.common
        | none => ⟨.always, .null, .null⟩) { x.tok .data l.lanes with seq := l.seq },
      x.unless (x.record (.cap a))]

/-- What the K form in a slot makes of L and R. -/
def capnAct (f : FormK) (l r : Token) : CapAct :=
  if f.kvar = 0 then .new (f.kimm.toNat % 256) (f.kimm.getLsbD 8) l (if f.kimm.getLsbD 8 then r.lane0 else 0)
  else .adopt l.lane0.toNat

/-- R134: a freed buffer goes to a waiting request; a landing keeps its place in the order until a frame is free. A frozen activation's buffer is not kept against another colour. -/
def execCapsuleBufferGrant (s : State) : Host.Outcome State Fault Refusal :=
  .next ((Act.look fun s =>
    let core := s.m.at_.core
    let k := s.m.core core
    match nextBufReq k with
    | none => .quiet
    | some r =>
      if 2 ≤ k.buffers.length then
        match k.acts.find? fun (_, a) => a.frozen && a.held.isSome && k.buffers.any (fun b => b.1 == a.uid) &&
            k.bufReqs.any fun q => q.colour ≠ a.colour with
        | some (_, a) => (freeBuffer core a.uid).andThen
            (spoilAdd a.colour ((a.held.map fun h => h.cap.size).getD 0))
        | none => .quiet
      else if r.isLand && k.freeFrame.isNone then .quiet
      else
        (modCore core fun k => { k with bufReqs := k.bufReqs.erase r }).andThen (
          match r with
          | .land h =>
            match k.nodes.find? fun (_, n) => n.info.handle.toNat == entryHandle (h.cap.entry h.cap.cur) with
            | some (node, n) => startCapsule core node n h
            | none => parkCapsule core none h.home h.cap .node h.cap.cur 0
          | .fire f uid wave slot c =>
            let w : Who := ⟨core, f, uid, wave, slot, c, ((s.m.act? core f).map fun a => (a.who core f wave slot).run).getD 0⟩
            match pendAt s w with
            | some (x, p) =>
              match x.ins with
              | some (_, .k g) => (dropPend w).andThen
                  (if x.a.held.isSome || x.w.buffer then x.fault Code.capHeld
                   else capnTake w p.tok (capnAct g p.tok (p.bad.getD p.tok)))
              | _ => .quiet
            | none => .quiet
          | .resume f uid c =>
            match k.acts.find? fun (g, a) => g == f && a.uid == uid with
            | some (_, a) => Act.seq [takeBuffer core uid c, spoilSub c ((a.held.map fun h => h.cap.size).getD 0),
                rerunAct core f]
            | none => .quiet)).run s)

/-! ## The instructions (R142, R144) -/

/-- A bad or stop operand of a change: nothing, and an error-sink count for error and poison. -/
def Ctx.capData (x : Ctx) (ops : List Token) (act : Act) : Act :=
  match ops.find? Token.isBad with
  | some _ => x.record .errCount
  | none => if ops.any fun t => t.kind = .stop then .quiet else act

/-- `capn`: L is delivered once a buffer is taken. -/
def capnAt (f : FormK) : Act :=
  fire 0x100 (.k f) noNull fun x =>
    let l := x.widthed x.opTok
    let r := x.widthed x.selTok
    let ops := if f.kvar = 0 && f.kimm.getLsbD 8 then [l, r] else [l]
    match x.early (x.opL ++ x.opR) none with
    | some t => (x.emit f.c t).andThen (x.unless (x.capData ops .quiet))
    | none => .look fun s =>
      if x.a.held.isSome || x.w.buffer then x.fault Code.capHeld
      else
        let bad : Option Nat :=
          if f.kvar = 0 then none
          else
            match s.m.pkg.parked.find? fun p => p.handle == l.lane0.toNat with
            | none => some Code.capHandle
            | some p => if x.colour ≠ 0 && x.colour ≠ p.colour then some Code.capColour else none
        match bad with
        | some c => x.fault c
        | none =>
          let k := s.m.core x.core
          let l := { x.opTok with seq := x.seq }
          if k.bufReqs = [] && k.buffers.length < 2 then capnTake x.who l (capnAct f l x.selTok)
          else
            (x.pend ⟨x.slot, .buffer, l, .k, 0, [], [], [], [], some x.selTok, .issue⟩).andThen
              (modCore x.core fun k => { k with bufReqs := k.bufReqs ++ [.fire x.frame x.a.uid x.idx x.slot x.colour] })

/-- R144: a new capsule of a class. -/
def execCapnNew (f : FormK) (s : State) : Host.Outcome State Fault Refusal := .next ((capnAt f).run s)

/-- R144: a parked capsule adopted. -/
def execCapnAdopt (f : FormK) (s : State) : Host.Outcome State Fault Refusal := .next ((capnAt f).run s)

/-- R138: the capsule goes on at commit. -/
def execCapgo (f : FormK) (s : State) : Host.Outcome State Fault Refusal :=
  .next ((fire 0x101 (.k f) noNull fun x => x.record (.cap .go)).run s)

/-- R144: CUR = ENT. -/
def execCapnxIndex (f : FormK) (s : State) : Host.Outcome State Fault Refusal :=
  .next ((fire 0x102 (.k f) noNull fun x => x.record (.cap (.next f.ent.toNat))).run s)

/-- R144: CUR = L lane 0 [3:0]. -/
def execCapnxOperand (f : FormK) (s : State) : Host.Outcome State Fault Refusal :=
  .next ((fire 0x102 (.k f) noNull fun x =>
    let l := x.widthed x.opTok
    x.capData [l] (x.record (.cap (.next (l.lane0.toNat % 16))))).run s)

/-- The entry in lanes 0 and 1 of L. -/
def entryOf (t : Token) : Word := BitVec.ofNat 64 ((t.lanes.getD 0 0).toNat + 2 ^ 32 * (t.lanes.getD 1 0).toNat)

/-- R144: an entry appended. -/
def execCappush (f : FormK) (s : State) : Host.Outcome State Fault Refusal :=
  .next ((fire 0x103 (.k f) noNull fun x =>
    let l := x.widthed x.opTok
    x.capData [l] (x.record (.cap (.push (entryOf l))))).run s)

/-- R144: an entry inserted. -/
def execCapins (f : FormK) (s : State) : Host.Outcome State Fault Refusal :=
  .next ((fire 0x104 (.k f) noNull fun x =>
    let l := x.widthed x.opTok
    x.capData [l] (x.record (.cap (.ins f.ent.toNat (entryOf l))))).run s)

/-- R144: an entry replaced. -/
def execCaprepWhole (f : FormK) (s : State) : Host.Outcome State Fault Refusal :=
  .next ((fire 0x105 (.k f) noNull fun x =>
    let l := x.widthed x.opTok
    x.capData [l] (x.record (.cap (.rep f.ent.toNat (entryOf l))))).run s)

/-- R144: an entry's place replaced. -/
def execCaprepPlace (f : FormK) (s : State) : Host.Outcome State Fault Refusal :=
  .next ((fire 0x105 (.k f) noNull fun x =>
    let l := x.widthed x.opTok
    x.capData [l] (x.record (.cap (.repPlace f.ent.toNat (l.lane0.setWidth 16))))).run s)

/-- R144: an entry deleted. -/
def execCapdel (f : FormK) (s : State) : Host.Outcome State Fault Refusal :=
  .next ((fire 0x106 (.k f) noNull fun x => x.record (.cap (.del f.ent.toNat))).run s)

/-- R140: a copy forwarded at commit. -/
def execCapfork (f : FormK) (s : State) : Host.Outcome State Fault Refusal :=
  .next ((fire 0x107 (.k f) noNull fun x => x.record (.cap (.fork f.ent.toNat))).run s)

/-- A chunk as a data token, or as poison where it cannot be corrected. -/
def Ctx.chunkTok (x : Ctx) (c : Capsule) (k : Nat) : Token :=
  if c.chunkHurt x.width k then x.tok .poison (c.chunk x.width k) else x.data (c.chunk x.width k)

/-- R144: a chunk of part p of a completed join; CAP_NONE, CAP_JOIN, CAP_RANGE. Part 0 is the capsule itself. -/
def execCapjoin (f : FormK) (s : State) : Host.Outcome State Fault Refusal :=
  .next ((fire 0x108 (.k f) noNull fun x =>
    x.withData f.c x.opL (
      let p := f.kimm.toNat % 16
      let k := x.opTok.lane0.toNat
      match x.a.held with
      | none => x.fault Code.capNone
      | some h =>
        if !h.joined || h.cap.pidx ≠ 0 || h.cap.parts < p then x.fault Code.capJoin
        else
          match (if p = 0 then some h.cap else h.parts.find? fun c => c.pidx == p) with
          | none => x.fault Code.capJoin
          | some c => if k < c.chunks x.width then x.emit f.c (x.chunkTok c k) else x.fault Code.capRange)).run s)

/-- R144: parked with SOFT at commit. -/
def execCappark (f : FormK) (s : State) : Host.Outcome State Fault Refusal :=
  .next ((fire 0x109 (.k f) noNull fun x => x.record (.cap (.park (f.kimm.setWidth 8)))).run s)

/-- R144: a chunk of the held capsule; CAP_NONE, CAP_RANGE. -/
def execCapld (f : FormK) (s : State) : Host.Outcome State Fault Refusal :=
  .next ((fire 0x10A (.k f) noNull fun x =>
    x.withData f.c x.opL (
      let k := x.opTok.lane0.toNat
      match x.a.held with
      | none => x.fault Code.capNone
      | some h => if k < h.cap.chunks x.width then x.emit f.c (x.chunkTok h.cap k) else x.fault Code.capRange)).run s)

/-- R144: R into a chunk at commit (R136); the index L must be data. -/
def execCapst (f : FormK) (s : State) : Host.Outcome State Fault Refusal :=
  .next ((fire 0x10B (.k f) noNull fun x =>
    let l := x.widthed x.opTok
    x.capData [l] (x.record (.cap (.st l.lane0.toNat (x.widthed x.selTok))))).run s)

/-- A half of a 64-bit word. -/
def half (hi : Bool) (w : Word) : Lane := BitVec.ofNat 32 (if hi then w.toNat / 2 ^ 32 else w.toNat)

/-- What `caphd` reads of the held capsule. -/
def caphdAt (f : FormK) (read : Capsule → Lane) : Act :=
  fire 0x10C (.k f) noNull fun x =>
    match x.a.held with
    | none => x.fault Code.capNone
    | some h => x.emit f.c (x.data [read h.cap])

/-- R144: half of header word KIMM. -/
def execCaphdWord (f : FormK) (s : State) : Host.Outcome State Fault Refusal :=
  .next ((caphdAt f fun c => half (f.kvar.getLsbD 0) (c.header.getD (f.kimm.toNat % 8) 0)).run s)

/-- R144: half of itinerary entry ENT; an index beyond the itinerary is CAP_ITIN. -/
def execCaphdEntry (f : FormK) (s : State) : Host.Outcome State Fault Refusal :=
  .next ((fire 0x10C (.k f) noNull fun x =>
    match x.a.held with
    | none => x.fault Code.capNone
    | some h =>
      if 15 ≤ f.ent.toNat then x.fault Code.capItin
      else x.emit f.c (x.data [half (f.kvar.getLsbD 0) (h.cap.entry f.ent.toNat)])).run s)

/-- R144: ARG of entry VENT, or 0. -/
def execCaphdArg (f : FormK) (s : State) : Host.Outcome State Fault Refusal :=
  .next ((caphdAt f fun c => if c.vent = 15 then 0 else BitVec.ofNat 32 (entryArg (c.entry c.vent))).run s)

end Sys2Proof.Machine
end

