-- ==== Sys2Proof/Machine/Engine.lean ====
section
/-! DEFINITION. What the engines share (spec 00 R8; 15 R260; 10 R177, R180; 17 R289): where an engine's access goes, what it
reads and writes there as one event, its faults, its completion, and the X form that sends a command to it. -/

namespace Sys2Proof.Machine

/-! ## Classes (00 R8) -/

def classS : Nat := 1
def classM : Nat := 2
def classC : Nat := 3
def classH : Nat := 4
def classE : Nat := 5

/-! ## Where an access goes -/

/-- The home of an address that a command names (R289, R152, R175), or the code and detail of its fault. -/
def engineHome (s : State) (c : Cmd) (cls : Nat) (sp : Space) (a n : Nat) (write : Bool) : Except (Nat × Nat) (Nat × PageMode) :=
  let core := c.who.core
  match sp with
  | .k => if 2 ^ 16 < a + n then .error (Code.bankRange, 0) else .ok (bankAddr core a, .region)
  | .s => if 2 ^ 22 < a + n then .error (Code.sliceRange, 0) else .ok (sliceAddr (clusterOf core) a, .region)
  | .p =>
    if 2 ^ 16 < a % 2 ^ 16 + n then .error (Code.bankRange, 0)
    else
      match s.place (clusterOf core) c.who.colour c.cfg (a / 2 ^ 16) with
      | .error _ => .error (Code.place, 0)
      | .ok site =>
        if clusterOf site = clusterOf core then .ok (bankAddr site (a % 2 ^ 16), .region) else .error (Code.peerScope, 0)
  | .g => (s.xlate c.who.colour cls write a).mapError fun e => (Code.xlate, e.code)

/-- The bytes of a range with the state of each word. -/
def State.engineBytes (s : State) (a n : Nat) (m : PageMode) : List EngByte :=
  if s.lostHome a then List.replicate n (0, some poisonCode) else s.lineOf a n (s.presenceOf a m ≠ .none)

/-- The bytes of a home's answer to an engine; n poison bytes where it gives none. -/
def AnsVal.engBytes (n : Nat) : AnsVal → List EngByte
  | .line bs => bs
  | _ => List.replicate n (0, some poisonCode)

/-- Whether a read waits for a word without a value (R154). -/
def State.engineDefers (s : State) (a n : Nat) (m : PageMode) : Bool :=
  !s.lostHome a && s.presenceOf a m = .wo && (s.missing a n).isSome

/-- An engine's access of a range, whose address in a space is `va`; `own` is the tile that its streamer is at work on. -/
def engineReq (who : Party) (c : Cmd) (sp : Space) (va a n : Nat) (m : PageMode) (kind : ReqKind) (own : Option Nat) : Req :=
  ⟨who, c.who.colour, (own.map (· + 1)).getD 0, a, n, m, kind, [], false, c.cfg, true, sp, va, false⟩

/-- Whether a slice port holds an access of an engine, for a tile that is filling or draining or behind an earlier held access of its
own (12 R199). -/
def State.engineHeld (s : State) (r : Req) : Bool :=
  isSliceUnit (unitOf r.addr) &&
    (let k := s.m.cluster ((unitOf r.addr - 20000) / 16)
     (k.blocker r).isSome || k.behind (unitOf r.addr) r.who.unit || s.refusedBehind (unitOf r.addr) (some r.who.unit))

/-- Why a home refuses an engine's write (R155, 10 R177). -/
def State.engineRefusal (s : State) (a n : Nat) (m : PageMode) : Option Nat :=
  if s.presenceOf a m = .wo then
    (s.woRefuses a n).orElse fun _ => if s.reserved (wordsOf a n) then some Code.woRewrite else none
  else none

/-- Bytes without errors. -/
def plainBytes (bs : List Byte) : List EngByte := bs.map fun b => (b, none)

/-! ## Commands -/

/-- The virtual device that a command is scheduled under; colour 0's stand apart. -/
def State.vdevKey (s : State) (c : Colour) : Nat := if c = 0 then 32 else s.vdevOf c

/-- A command's fault (R284, R293): a record of an engine command, which freezes it. -/
def cmdFault (c : Cmd) (code detail addr : Nat) : Act :=
  record ⟨code, c.who.colour, 2, true, c.who.core, c.who.frame, c.who.wave, 0, c.who.slot, c.l.seq, detail, addr, 0⟩

/-- A command reaches its island. -/
def streamSend (c : Cmd) : Act := .look fun s =>
  .pkg fun p => { p with
    streams := p.streams ++ [⟨p.nextStream, c, clusterOf c.who.core, s.vdevKey c.who.colour, 0, 0, [], [], 0, 0, false, false,
      false, none, false, false, false⟩]
    nextStream := p.nextStream + 1 }

def State.stream? (s : State) (id : Nat) : Option StreamCmd := s.m.pkg.streams.find? fun c => c.id == id

def modStream (id : Nat) (f : StreamCmd → StreamCmd) : Act := .pkg fun p =>
  { p with streams := p.streams.map fun c => if c.id = id then f c else c }

/-- A command is frozen by a fault before its next event (R293). -/
def streamFault (x : StreamCmd) (code detail addr : Nat) : Act :=
  (modStream x.id fun c => { c with frozen := true }).andThen (cmdFault x.cmd code detail addr)

/-- A command of a class is done: its activation has one less of them out (R295). -/
def cmdDone (c : Cmd) (cls : Nat) : Act := modAct c.who.core c.who.frame fun a =>
  if a.uid = c.who.uid then { a with cmdsOut := tset 0 a.cmdsOut cls (tgetD 0 a.cmdsOut cls - 1) } else a

/-- A token to a command's reply target, if it has one. -/
def cmdToken (src : Nat) (c : Cmd) (t : Token) : Act :=
  match c.reply with
  | some r => send src r.core .q1 (.reply r t)
  | none => .quiet

/-- The completion token (R223, R293, 22 R366): lanes given, others zero, L's sequence. -/
def cmdReply (src : Nat) (c : Cmd) (ls : List Lane) : Act :=
  cmdToken src c (mkTok c.who.colour .data c.l.seq (padLanes c.width ls))

/-- A completion that is an error token. -/
def cmdReplyErr (src : Nat) (c : Cmd) (e : ErrCode) : Act := cmdToken src c (errTok c.who.colour e c.l.seq c.width)

/-- The trigger L of an X instruction, with the sequence of the instruction. -/
def Ctx.trigger (x : Ctx) : Token := { x.opTok with seq := x.seq, lanes := padLanes x.width x.opTok.lanes }

/-- A bad parameter token, or what a stop among the parameters gives (R289, R218). -/
def Ctx.badParam (x : Ctx) (c : Common) (ps : List Token) (act : Act) : Act :=
  match ps.find? Token.isBad with
  | some t => (x.deliver0 c (x.pass t)).andThen (x.unless (x.record .errCount))
  | none =>
    match ps.find? fun t => t.kind == .stop with
    | some t => x.deliver0 c (x.errOf t errStopMix)
    | none => act

/-- An X instruction (R50): its parameter block read as the last committed wave left it, checked, and the command recorded for
the commit. -/
def xcmd (o : Nat) (f : FormX) (slots : Nat) (build : State → Ctx → List (List Lane) → Except Nat CmdKind) : Act :=
  fire o (.x f) noNull fun x =>
    let ps := (upFrom slots f.pbase.toNat).map x.a.slotTok
    x.badParam f.c ps (.look fun s =>
      match build s x (ps.map Token.lanes) with
      | .error c => x.fault c
      | .ok k => x.record (.cmd ⟨x.who, x.a.cfg, x.width, x.trigger, x.replyTarget f.c, k⟩))

/-- Lane i of parameter slot p. -/
def param (ps : List (List Lane)) (p i : Nat) : Nat := ((ps.getD p []).getD i 0).toNat

/-- The address in a parameter slot (R289). -/
def paramAddr (sp : Space) (ps : List (List Lane)) (p : Nat) : Nat := addrIn sp (ps.getD p []) 0

/-- The oldest command, unless tokens stand before it. -/
def IslandState.oldest (i : IslandState) : Option Cmd :=
  match i.inbox with
  | .cmd c :: _ => some c
  | _ => none

end Sys2Proof.Machine
end

