-- ==== Sys2Proof/Machine/Cluster.lean ====
section
/-! DEFINITION. The cluster (spec 12 R197 to R201, R211 to R213; 13 R216 to R222, R226 to R232): tags, tiles and their ports,
sparse streams, barriers. -/

namespace Sys2Proof.Machine

/-! ## Selectors (13 R218) -/

/-- R, or the immediate in its place. -/
def Ctx.selR (x : Ctx) (f : FormA) : Token := if f.immf then x.data (x.lanesR f) else x.selTok

/-- A bad selector changes nothing: error and poison are counted. -/
def Ctx.select (x : Ctx) (t : Token) (act : Act) : Act :=
  if t.isBad then x.unless (x.record .errCount) else if t.kind = .stop then .quiet else act

/-- A bad selector of an instruction that answers: its targets receive the token, or STOPMIX for a stop. -/
def Ctx.selectAnswer (x : Ctx) (c : Common) (t : Token) (act : Act) : Act :=
  if t.isBad then (x.emit c (x.pass t)).andThen (x.unless (x.record .errCount))
  else if t.kind = .stop then x.emit c (x.errOf t errStopMix)
  else act

/-! ## The tag unit (12 R200, 13 R219, R220) -/

def tagV (e : BitVec 64) : Bool := e.getLsbD 63
def tagCol (e : BitVec 64) : Colour := BitVec.ofNat 8 (bits e.toNat 55 8)
def tagGln (e : BitVec 64) : Nat := bits e.toNat 14 41
def tagTidx (e : BitVec 64) : Nat := bits e.toNat 0 8
def tagEntry (c : Colour) (gln tidx : Nat) : BitVec 64 :=
  BitVec.ofNat 64 (2 ^ 63 + c.toNat * 2 ^ 55 + gln % 2 ^ 41 * 2 ^ 14 + tidx % 2 ^ 8)

def tagSet (c : Colour) (a : Nat) : Nat := (bits a 7 8) ^^^ c.toNat
def glnOf (a : Nat) : Nat := bits a 7 41

def ClusterState.way (k : ClusterState) (set way : Nat) : BitVec 64 := tgetD 0 k.tags (set * 4 + way)

/-- What a lookup delivers (R219). An entry with an error that cannot be corrected is no hit (12 R215). -/
def tagLookup (k : ClusterState) (c : Colour) (a : Nat) : Lane :=
  let set := tagSet c a
  let hit := (upFrom 4 0).find? fun w =>
    let e := k.way set w
    tagV e && tagCol e == c && tagGln e == glnOf a && !k.tagHurt.contains (set * 4 + w, true)
  match hit with
  | some w => BitVec.ofNat 32 (w * 2 ^ 8 + tagTidx (k.way set w))
  | none =>
    match (upFrom 4 0).find? fun w => !tagV (k.way set w) with
    | some w => BitVec.ofNat 32 (2 ^ 31 + w * 2 ^ 8 + set)
    | none => BitVec.ofNat 32 (2 ^ 31 + 2 ^ 10 + set)

/-- The checks of R220 on a way, in the table's order. -/
def tagRefusal (k : ClusterState) (who : Who) (set way : Nat) (line : Option (Colour × Nat)) : Option Nat :=
  let me := { who with slot := 0 }
  let dup := match line with
    | none => false
    | some (c, g) =>
      (upFrom 4 0).any (fun w => w != way && (let e := k.way set w; tagV e && tagCol e == c && tagGln e == g)) ||
        k.resv.any fun r => r.set == set && r.way != way && r.line == line
  if dup then some Code.tagDup
  else if k.resv.any fun r => r.set == set && r.way == way && r.who != me then some Code.tagBusy
  else
    let e := k.way set way
    if tagV e && tagCol e ≠ who.colour then some Code.tagColour else none

/-- The set, the way and the line of an operation. -/
def TagOp.where_ (c : Colour) : TagOp → Nat × Nat × Option (Colour × Nat)
  | .look a => (tagSet c a, 0, none)
  | .ins a way _ => (tagSet c a, way, some (c, glnOf a))
  | .inv set way => (set, way, none)

/-- The address that an operation names, for the record of a refusal. -/
def TagOp.addr : TagOp → Nat
  | .look a => a
  | .ins a _ _ => a
  | .inv _ _ => 0

/-- The checks of a set's entries as the tag unit reads it: single-bit errors are corrected and counted, others counted (12 R215). -/
def tagChecked (cluster set : Nat) : Act := .look fun s =>
  let met := (s.m.cluster cluster).tagHurt.filter fun (e, _) => e / 4 == set
  Act.seq [
    Act.each met fun (_, unc) => countErr (cluster / 16) unc,
    .when (met ≠ []) (modCluster cluster fun k => { k with tagHurt := k.tagHurt.filter fun (e, unc) => unc || e / 4 != set }) ]

/-- One event at the tag unit. -/
def tagPerform (e : TagEv) : Act := .look fun s =>
  let k := s.m.cluster e.cluster
  let u := tagUnit e.cluster
  let c := e.who.colour
  let (set, way, line) := e.op.where_ c
  let me := { e.who with slot := 0 }
  match e.op, e.commit with
  | .look a, _ => (tagChecked e.cluster set).andThen (answer u (.task e.who) 0 (.lanes [tagLookup k c a]))
  | _, false =>
    match tagRefusal k e.who set way line with
    | some code => answer u (.task e.who) 0 (.refused code)
    | none => (Act.when (s.m.runs e.who) (modCluster e.cluster fun k => { k with resv := k.resv ++ [⟨set, way, me, line⟩] })).andThen
        (answer u (.task e.who) 0 .granted)
  | op, true => modCluster e.cluster fun k =>
      let resv := k.resv.filter fun r => !(r.who == me && r.set == set && r.way == way)
      let hurt := k.tagHurt.filter fun (e, _) => e != set * 4 + way
      match op with
      | .ins a way tidx =>
        { k with tags := tset 0 k.tags (set * 4 + way) (tagEntry c (glnOf a) tidx), resv := resv, tagHurt := hurt }
      | _ => { k with
          tags := tset 0 k.tags (set * 4 + way) (k.way set way &&& BitVec.ofNat 64 (2 ^ 63 - 1)), resv := resv, tagHurt := hurt }

/-- R200: message k, an event at the tag unit. -/
def execTagUnitEvent (s : State) : Host.Outcome State Fault Refusal :=
  .next ((Act.look fun s =>
    match s.m.msg? s.m.at_.k with
    | some msg =>
      match msg.body with
      | .tagEv e => (takeMsg s.m.at_.k).andThen (tagPerform e)
      | _ => .quiet
    | none => .quiet).run s)

/-- A pending operator that is no memory access: it waits for one answer. -/
def Ctx.await (x : Ctx) (kind : PendKind) (l : Token) : Act :=
  x.pend ⟨x.slot, kind, { l with seq := x.seq }, .k, 0, [(0, 0)], [], [], [], none, .home⟩

/-- The tag event of an operation of this slot. -/
def Ctx.tagEv (x : Ctx) (op : TagOp) (commit : Bool) : TagEv := ⟨x.who, clusterOf x.core, op, commit⟩

/-- R219: a lookup, answered by the tag unit; TAG_ADDR. -/
def execTlook (f : FormA) (s : State) : Host.Outcome State Fault Refusal :=
  .next ((fire 0x160 (.a f) noNull fun x =>
    x.withData f.c x.opL (
      let a := addrIn .g x.lanesL 0
      if 2 ^ 48 ≤ a then x.faultAt Code.tagAddr a
      else (x.await .look x.opTok).andThen (sendTag (x.tagEv (.look a) false)))).run s)

/-- R220: an install, checked and reserved now, made at commit; TAG_ADDR. R218 gives no order between a bad or stop L and a bad R: L decides first,
and R is then not counted (log 149). -/
def execTins (f : FormA) (s : State) : Host.Outcome State Fault Refusal :=
  .next ((fire 0x161 (.a f) noNull fun x =>
    x.withData f.c x.opL (
      let r := x.selR f
      x.select r (
        let a := addrIn .g x.lanesL 0
        let op := TagOp.ins a (bits r.lane0.toNat 8 2) (bits r.lane0.toNat 0 8)
        if 2 ^ 48 ≤ a then x.faultAt Code.tagAddr a
        else (x.await (.tinst op) x.opTok).andThen (sendTag (x.tagEv op false))))).run s)

/-- R220: an invalidation, checked and reserved now, made at commit. -/
def execTinv (f : FormA) (s : State) : Host.Outcome State Fault Refusal :=
  .next ((fire 0x162 (.a f) noNull fun x =>
    let l := x.opTok
    x.select l (
      let op := TagOp.inv (bits l.lane0.toNat 0 8) (bits l.lane0.toNat 8 2)
      (x.await (.tinst op) l).andThen (sendTag (x.tagEv op false)))).run s)

/-! ## Sparse accumulators (13 R228 to R231) -/

def pad : Lane := 0xFFFFFFFF

/-- Word i of a line of the cluster's slices, as a home address. -/
def lineWord (cluster line i : Nat) : Nat := sliceAddr cluster (line * 128 + 4 * i)

/-- The effective limit C (R228). -/
def spLimit (cmax lt : Nat) : Nat :=
  ((upFrom (min cmax 2048 + 1) 0).foldl (fun best c =>
    if 1 + (c + 1023) / 1024 + (c + 31) / 32 ≤ lt then c else best) 0)

/-- A tile's place and limit: its cluster, its first line, C, and the line of the first value word. -/
structure SpTile where
  cluster : Nat
  base : Nat
  limit : Nat
deriving DecidableEq, Repr

def State.spTile (s : State) (cluster tile : Nat) : SpTile :=
  let e := (s.m.cluster cluster).tile tile
  ⟨cluster, tileBase e, spLimit (s.nat (lineWord cluster (tileBase e) 0) 4) (tileLen e + 1)⟩

def SpTile.bitmap (t : SpTile) (c : Nat) : Nat := lineWord t.cluster (t.base + 1) (c / 32)
def SpTile.value (t : SpTile) (c : Nat) : Nat := lineWord t.cluster (t.base + 1 + (t.limit + 1023) / 1024) c
def SpTile.nc (t : SpTile) : Nat := lineWord t.cluster t.base 1
def SpTile.drop (t : SpTile) : Nat := lineWord t.cluster t.base 2

def putWord (a v : Nat) : Act := fill a (leBytes 4 (v % 2 ^ 32))

/-- The value word after a pair (R229): first insertion, or a sum. -/
def spSum (float first : Bool) (x v : Lane) : Except ErrCode Nat :=
  if float then
    if first then noNan .f32 [v.toNat] (.ok v.toNat) else noNan .f32 [x.toNat, v.toNat] (faddElem .f32 x.toNat v.toNat)
  else .ok (if first then v.toNat else (x.toNat + v.toNat) % 2 ^ 32)

/-- One pair. -/
def spPair (t : SpTile) (float : Bool) (colour : Colour) (c v : Lane) : Act := .look fun s =>
  if c = pad then .quiet
  else if t.limit ≤ c.toNat then (putWord t.drop (s.nat t.drop 4 + 1)).andThen (countDiscard colour)
  else
    let i := c.toNat
    let b := s.nat (t.bitmap i) 4
    let first := bits b (i % 32) 1 = 0
    let store : Act :=
      match spSum float first (BitVec.ofNat 32 (s.nat (t.value i) 4)) v with
      | .ok y => putWord (t.value i) y
      | .error e => fillErr (t.value i) 4 e
    if first then Act.seq [putWord (t.bitmap i) (b + 2 ^ (i % 32)), store, putWord t.nc (s.nat t.nc 4 + 1)]
    else if s.presAt (t.value i) = .err then .quiet
    else store

def spPairs (t : SpTile) (float : Bool) (colour : Colour) : List Lane → Act
  | c :: v :: rest => (spPair t float colour c v).andThen (spPairs t float colour rest)
  | _ => .quiet

/-- R229 as one event. -/
def spAccumulate (cluster tile : Nat) (float : Bool) (colour : Colour) (ls : List Lane) : Act := .look fun s =>
  spPairs (s.spTile cluster tile) float colour ls

/-- The present coordinates in ascending order. -/
def State.spPresent (s : State) (t : SpTile) : List Nat :=
  (upFrom t.limit 0).filter fun c => bits (s.nat (t.bitmap c) 4) (c % 32) 1 = 1

/-- Groups of n. -/
def chunksOf {α : Type} : Nat → Nat → List α → List (List α)
  | 0, _, _ => []
  | f + 1, n, xs => if xs.isEmpty then [] else xs.take n :: chunksOf f n (xs.drop n)

/-- The stream of a drain (R230): tokens of pairs, then a stop. -/
def State.spStream (s : State) (t : SpTile) (colour : Colour) (seq : BitVec 16) (w level : Nat) : List Token :=
  let toks := (chunksOf 4096 (w / 2) (s.spPresent t)).map fun cs =>
    match cs.find? fun c => s.presAt (t.value c) = .err with
    | some c => errTok colour (s.byteAt (t.value c)) seq w
    | none =>
      let ls := cs.flatMap fun c => [BitVec.ofNat 32 c, BitVec.ofNat 32 (s.nat (t.value c) 4)]
      let padding := (List.replicate (w / 2 - cs.length) [pad, (0 : Lane)]).flatten
      mkTok colour .data seq (ls ++ padding)
  toks ++ [mkTok colour .stop seq (padLanes w [BitVec.ofNat 32 level])]

/-- The bitmap, NC and DROP cleared. -/
def spClear (t : SpTile) : Act :=
  Act.seq [Act.each (upFrom ((t.limit + 31) / 32) 0) fun i => putWord (t.bitmap (32 * i)) 0, putWord t.nc 0, putWord t.drop 0]

/-! ## Tile events at a port (12 R197 to R199, 13 R221, R222) -/

def putTile (cluster tile : Nat) (e : BitVec 32) : Act := modCluster cluster fun k => { k with tiles := tset 0 k.tiles tile e }

/-- An entry with another state. -/
def tileTo (e : BitVec 32) (st : Nat) : BitVec 32 := tileWord st (tileCol e) (tileLen e) (tileBase e)

/-- Whether a tile's state lets an event be performed. -/
def TileOp.applies (st : Nat) : TileOp → Bool
  | .setEmpty => st == 2
  | .setReady _ => st == 0
  | .setBind _ => st == 0
  | .setFree => st == 0
  | .spacc .. => st == 2
  | .spdr .. => st == 2
  | .wait w => if w.toNat = 0 then st == 2 else st == 0
  | .fill _ => st == 0
  | .drain _ => st == 2
  | .elem .. => st == 2

/-- Whether an entry's lines meet those of another that is not EMPTY. -/
def ClusterState.overlaps (k : ClusterState) (tile : Nat) (w : Lane) : Bool :=
  k.tiles.any fun (t, e) => t != tile && tileSt e != 0 && tileBase e ≤ tileBase w + tileLen w &&
    tileBase w ≤ tileBase e + tileLen e

/-! ### Elements at a tile -/

def State.elem? (s : State) (id : Nat) : Option ElemState := (s.m.pkg.elems.find? fun e => e.1 == id).map Prod.snd

def modElem (id : Nat) (f : ElemState → ElemState) : Act := .pkg fun p =>
  { p with elems := p.elems.map fun (i, e) => (i, if i = id then f e else e) }

/-- The static output port of a read-modify-write element (09 R159); another element stands on no core. -/
def ElemState.outlet (e : ElemState) : Option Outlet :=
  match e.rcd.kind with
  | .rmw w => some ⟨e.cfg, e.rcd.core, bits w.toNat 17 5⟩
  | _ => none

/-- A token on an element's output. -/
def elemOut (e : ElemState) (t : Token) : Act := sendEdges (elemUnit e.rcd.id) .st e.outlet e.rcd.outs t none

def elemOuts (e : ElemState) (ts : List Token) : Act := Act.each ts (elemOut e)

/-- A discard at an element: its count, its record, its release. -/
def elemDiscard (e : ElemState) (t : Token) (code : Nat) : Act :=
  Act.seq [countDiscard t.colour, record { Record.blank with
      code := code, col := t.colour, site := e.rcd.core, wave := t.wave.toNat, seq := t.seq, addr := t.tag.toNat },
    releaseOpt e.cfg e.rcd.credited t.colour]

/-- A token of a sparse-accumulator element at its READY tile (13 R231): discarded where it is of another colour than the tile's. -/
def spaccToken (e : ElemState) (cl tile : Nat) (t : Token) : Act :=
  match e.rcd.kind with
  | .spacc w => .look fun s =>
    if tileCol ((s.m.cluster cl).tile tile) ≠ t.colour then elemDiscard e t Code.tileColour
    else if t.isBad then elemOut e t
    else if t.lanes.length % 2 = 1 then elemOut e (errTok t.colour errWidth t.seq t.lanes.length)
    else if t.kind = .stop then
      let x := s.spTile cl tile
      (spClear x).andThen (elemOuts e (s.spStream x t.colour t.seq t.lanes.length t.stopLevel))
    else spAccumulate cl tile (bits w.toNat 19 5 = 8) t.colour t.lanes
  | _ => .quiet

/-- A tile event performed. The streamer of a fill or drain is told by its command (17 R292). -/
def tilePerform (e : TileEv) : Act := .look fun s =>
  let k := s.m.cluster e.cluster
  let x := k.tile e.tile
  let c := e.who.colour
  match e.op with
  | .setEmpty => putTile e.cluster e.tile (tileTo x 0)
  | .setReady w => putTile e.cluster e.tile (tileWord 2 c (tileLen w) (tileBase w))
  | .setBind w => putTile e.cluster e.tile (tileWord 0 c (tileLen w) (tileBase w))
  | .setFree => putTile e.cluster e.tile (tileWord 0 0 (tileLen x) (tileBase x))
  | .spacc float ls => spAccumulate e.cluster e.tile float c ls
  | .spdr level l net p node =>
    let t := s.spTile e.cluster e.tile
    (spClear t).andThen (portStream e.who.core node net p c (.spdr e.tile level l net p)
      (s.spStream t c l.seq l.lanes.length (if l.kind = .stop then l.stopLevel else level)))
  | .wait _ => answer (e.port s) (.task e.who) 0 (.lanes [x])
  | .fill id =>
    if k.overlaps e.tile x then
      match s.m.pkg.streams.find? fun y => y.id == id with
      | some y => (modStream id fun y => { y with asked := false }).andThen (streamFault y Code.tileOverlap 0 e.tile)
      | none => .quiet
    else (putTile e.cluster e.tile (tileTo x 1)).andThen (startStream id)
  | .drain id => (putTile e.cluster e.tile (tileTo x 3)).andThen (startStream id)
  | .elem id t =>
    match s.elem? id with
    | some y => spaccToken y e.cluster e.tile t
    | none => .quiet
where
  /-- The command's fill or drain has been accepted. -/
  startStream (id : Nat) : Act := .pkg fun p =>
    { p with streams := p.streams.map fun c => if c.id = id then { c with started := true } else c }

/-- Whether a held item may go: nothing of its issuer before it, and its state holds. -/
def mayGo (k : ClusterState) (before : List (Nat × PortHeld)) (u : Nat) (h : PortHeld) : Bool :=
  !(match h.issuer with
    | some i => before.any fun (p, y) => p == u && y.issuer == some i
    | none => false) &&
  (match h with
    | .req r tile => (k.blocker r).isNone && (match tile with
        | some t => tileSt (k.tile t) == 2
        | none => true)
    | .tile e => e.op.applies (tileSt (k.tile e.tile)))

/-- The first held item of a cluster that may go, with its place. -/
def firstGo (k : ClusterState) : List (Nat × PortHeld) → List (Nat × PortHeld) → Option (Nat × Nat × PortHeld)
  | _, [] => none
  | before, (u, h) :: rest => if mayGo k before u h then some (before.length, u, h) else firstGo k (before ++ [(u, h)]) rest

/-- What a change of a tile's state lets go, in arrival order. -/
def releasePorts (cluster : Nat) : Nat → Act
  | 0 => .quiet
  | n + 1 => .look fun s =>
    match firstGo (s.m.cluster cluster) [] (s.m.cluster cluster).held with
    | none => .quiet
    | some (i, u, h) =>
      Act.seq [
        modCluster cluster fun k => { k with held := dropAt k.held i },
        (match h with
          | .req r _ => perform u r
          | .tile e => tilePerform e),
        releasePorts cluster n ]

/-- The streamer whose fill or drain a tile event is. -/
def TileEv.ofStreamer (e : TileEv) : Option Nat :=
  match e.op with
  | .fill id => some id
  | .drain id => some id
  | _ => none

/-- Whether a tile event is a fill or a drain by another colour than the tile's, or by colour 0. -/
def State.tileForeign (s : State) (e : TileEv) : Bool :=
  e.ofStreamer.isSome && (e.who.colour = 0 || tileCol ((s.m.cluster e.cluster).tile e.tile) ≠ e.who.colour)

/-- Such a fill or drain freezes its command. -/
def tileRefused (e : TileEv) : Act := .look fun s =>
  match e.ofStreamer.bind s.stream? with
  | some y => (modStream y.id fun y => { y with asked := false }).andThen (streamFault y Code.tileColour 0 e.tile)
  | none => .quiet

/-- A tile event at its port: performed, or held in arrival order. A fill or a drain by another colour than the tile's, or by colour 0,
freezes its command there (R197, 17 R292). -/
def tileArrive (u : Nat) (e : TileEv) : Act := .look fun s =>
  let k := s.m.cluster e.cluster
  if s.tileForeign e then tileRefused e
  else if mayGo k k.held u (.tile e) && !s.refusedBehind u (PortHeld.tile e).issuer then (tilePerform e).andThen (releasePorts e.cluster 4096)
  else portHold e.cluster u (.tile e)

/-- A refused tile event, the oldest of its unit, looked at again: those refused after it stay behind it. -/
def tileReplay (u : Nat) (e : TileEv) : Act := .look fun s =>
  let k := s.m.cluster e.cluster
  if s.tileForeign e then tileRefused e
  else if mayGo k k.held u (.tile e) then (tilePerform e).andThen (releasePorts e.cluster 4096)
  else portPut e.cluster u (.tile e)

/-- Whether an access may need an entry of a pool. -/
def PortHeld.pools : PortHeld → Bool
  | .req r _ => r.kind == .load
  | .tile _ => false

/-- R156, R199: the oldest refused access of unit k, once an entry, or room in its port's hold, is free: it is looked at anew. -/
def execLoadReplay (s : State) : Host.Outcome State Fault Refusal :=
  .next ((Act.look fun s =>
    match s.m.pkg.refused.find? fun x => x.1 = s.m.at_.k with
    | none => .quiet
    | some (u, h) =>
      if h.pools && (freeEntry (s.pool u) (poolSize u)).isNone || 64 ≤ (s.m.cluster ((u - 20000) / 16)).holding u then .quiet
      else
        Act.seq [.pkg fun p => { p with refused := p.refused.erase (u, h) }, spoilSub h.colour 256,
          (match h with
            | .req r _ => reqReplay u r
            | .tile e => tileReplay u e)]).run s)

/-- R199: message k, a tile event, reaches its port. -/
def execTilePortEvent (s : State) : Host.Outcome State Fault Refusal :=
  .next ((Act.look fun s =>
    match s.m.msg? s.m.at_.k with
    | some msg =>
      match msg.body with
      | .tile e => (takeMsg s.m.at_.k).andThen (tileArrive msg.dst e)
      | _ => .quiet
    | none => .quiet).run s)

/-- The streamer command at work on a tile. -/
def State.streamOn (s : State) (cluster tile : Nat) : Option StreamCmd :=
  s.m.pkg.streams.find? fun c => c.started && !c.tileDone && c.cluster == cluster && (match c.cmd.kind with
    | .tfill _ _ t => t == tile
    | .tdrain _ _ t _ => t == tile
    | _ => false)

/-- R198: the last fill write is acknowledged: FILLING becomes READY. -/
def execTileFillComplete (s : State) : Host.Outcome State Fault Refusal :=
  .next ((Act.look fun s =>
    let cl := s.m.at_.cluster
    let t := s.m.at_.tile
    let e := (s.m.cluster cl).tile t
    match s.streamOn cl t with
    | some c =>
      if tileSt e = 1 && c.written && !c.frozen then
        Act.seq [modStream c.id fun y => { y with tileDone := true }, putTile cl t (tileTo e 2), releasePorts cl 4096]
      else .quiet
    | none => .quiet).run s)

/-- R198: the last drain read is performed: DRAINING becomes READY, or EMPTY without the keep flag. -/
def execTileDrainComplete (s : State) : Host.Outcome State Fault Refusal :=
  .next ((Act.look fun s =>
    let cl := s.m.at_.cluster
    let t := s.m.at_.tile
    let e := (s.m.cluster cl).tile t
    match s.streamOn cl t with
    | some c =>
      match c.cmd.kind with
      | .tdrain _ _ _ keep =>
        if tileSt e = 3 && c.extent ≠ 0 && 128 * c.extent ≤ c.reads && !c.frozen then
          Act.seq [modStream c.id fun y => { y with tileDone := true }, putTile cl t (tileTo e (if keep then 2 else 0)), releasePorts cl 4096]
        else .quiet
      | _ => .quiet
    | none => .quiet).run s)

/-! ### The instructions -/

/-- Whether the lines of an entry lie in one site. -/
def tileInSite (w : Lane) : Bool := tileBase w / 2048 == (tileBase w + tileLen w) / 2048

/-- `tset` (R221): TILE_RANGE, TILE_COLOUR and TILE_OVERLAP now, the transition at commit. -/
def tsetAt (f : FormA) (range overlap : Bool) (op : Lane → TileOp) : Act :=
  fire 0x163 (.a f) noNull fun x =>
    let l := x.opTok
    x.select l (.look fun s =>
      let t := bits l.lane0.toNat 0 8
      let w := l.lanes.getD 1 0
      let k := s.m.cluster (clusterOf x.core)
      let col := tileCol (k.copyOf t)
      if range && !tileInSite w then x.fault Code.tileRange
      else if x.colour = 0 || (col ≠ 0 && col ≠ x.colour) then x.fault Code.tileColour
      else if overlap && k.overlaps t w then x.fault Code.tileOverlap
      else x.record (.tile t (op w)))

/-- R221: READY to EMPTY. -/
def execTsetEmpty (f : FormA) (s : State) : Host.Outcome State Fault Refusal :=
  .next ((tsetAt f false false fun _ => .setEmpty).run s)

/-- R221: EMPTY to READY, with the issuer's colour and lane 1's LEN and BASE. -/
def execTsetReady (f : FormA) (s : State) : Host.Outcome State Fault Refusal :=
  .next ((tsetAt f true true fun w => .setReady w).run s)

/-- R221: EMPTY stays, with the issuer's colour and lane 1's LEN and BASE. -/
def execTsetBind (f : FormA) (s : State) : Host.Outcome State Fault Refusal :=
  .next ((tsetAt f true false fun w => .setBind w).run s)

/-- R221: EMPTY stays, unowned. -/
def execTsetFree (f : FormA) (s : State) : Host.Outcome State Fault Refusal :=
  .next ((tsetAt f false false fun _ => .setFree).run s)

/-- A `twait` that waits for nothing has its place before the later waves' operators (R222). -/
def twaitDone (x : Ctx) : Act := x.mod fun w => { w with memDone := w.memDone + 1 }

/-- R222: one request at the tile's port, answered in the awaited state. -/
def execTwait (f : FormA) (s : State) : Host.Outcome State Fault Refusal :=
  .next ((fire 0x164 (.a f) twaitDone fun x =>
    let l := x.opTok
    if l.kind ≠ .data then (x.selectAnswer f.c l .quiet).andThen (x.unless (twaitDone x))
    else .look fun s =>
      let t := bits l.lane0.toNat 0 8
      let cl := clusterOf x.core
      let e : TileEv := ⟨x.who, cl, t, .wait (f.sub.setWidth 2)⟩
      if x.colour ≠ 0 && tileCol ((s.m.cluster cl).copyOf t) ≠ x.colour then x.fault Code.tileColour
      else (x.await .twait l).andThen (send x.core (e.port s) .q0 (.tile e))).run s)

/-! ## Sparse streams (R226, R227, R229, R230) -/

/-- The coordinates of a list before its first pad. -/
def coords (ls : List Lane) : List Lane := ls.takeWhile fun v => v != pad

/-- R226: the position in R of each coordinate of L, and how many were found. -/
def isectLanes (l r : List Lane) : List Lane :=
  (upFrom l.length 0).map fun i =>
    match (coords l)[i]? with
    | none => pad
    | some c =>
      match (upFrom (coords r).length 0).find? fun j => (coords r).getD j pad == c with
      | some j => BitVec.ofNat 32 j
      | none => pad

/-- R226. -/
def execIsect (f : FormA) (s : State) : Host.Outcome State Fault Refusal :=
  .next ((fire 0x169 (.a f) noNull fun x =>
    x.withData f.c (x.opL ++ x.opR) (
      let out := isectLanes x.lanesL x.selTok.lanes
      (x.deliver f.c.t0 (x.data out)).andThen
        (x.deliver f.c.t1 (x.data [BitVec.ofNat 32 (out.filter fun v => v != pad).length])))).run s)

/-- R227: the merge, n steps at most. -/
def unionLanes : Nat → List Lane → List Lane → List Lane → List Lane
  | 0, _, _, m => m
  | n + 1, l, r, m =>
    let a := l.headD pad
    let b := r.headD pad
    if a = pad && b = pad then m
    else
      let x := if a.toNat ≤ b.toNat then a else b
      let l' := if a.toNat ≤ b.toNat then l.drop 1 else l
      let r' := if b.toNat ≤ a.toNat then r.drop 1 else r
      unionLanes n l' r' (if m.getLast? = some x then m else m ++ [x])

/-- w lanes of a list, padded with PAD. -/
def padPad (w : Nat) (ls : List Lane) : List Lane := (ls ++ List.replicate w pad).take w

/-- R227. -/
def execUnion (f : FormA) (s : State) : Host.Outcome State Fault Refusal :=
  .next ((fire 0x16A (.a f) noNull fun x =>
    x.withData f.c (x.opL ++ x.opR) (
      let m := unionLanes (2 * x.width + 1) x.lanesL x.selTok.lanes []
      (x.deliver f.c.t0 (x.data (padPad x.width m))).andThen
        (x.deliver f.c.t1 (x.data (padPad x.width (m.drop x.width)))))).run s)

/-- A data operand beside a selector: what L, then the selector, deliver in place of the instruction's effect. R218 gives no order: a bad or stop L
decides, and the selector is then not counted (log 149). -/
def Ctx.dataSelect (x : Ctx) (c : Common) (r : Token) (act : Act) : Act :=
  x.withData c x.opL (x.selectAnswer c r act)

/-- R229: L to the targets now, the pairs at commit. -/
def execSpacc (f : FormA) (s : State) : Host.Outcome State Fault Refusal :=
  .next ((fire 0x16B (.a f) noNull fun x =>
    let r := x.selR f
    x.dataSelect f.c r (
      (x.emit f.c (x.pass x.opTok)).andThen
        (x.unless (x.record (.tile (bits r.lane0.toNat 0 8) (.spacc (f.sub = 8) x.lanesL)))))).run s)

/-- R230: the drain takes its place on T0's port at commit; a bad L or R is delivered there instead, L first (log 149). -/
def execSpdr (f : FormA) (s : State) : Host.Outcome State Fault Refusal :=
  .next ((fire 0x16C (.a f) noNull fun x =>
    let l := x.widthed x.opTok
    let r := x.selR f
    if l.isBad then x.emit f.c (x.pass l)
    else x.selectAnswer f.c r (
      match f.c.t0 with
      | .port net p => x.countOut.andThen (x.unless
          (x.record (.spdr (bits r.lane0.toNat 0 8) f.sub.toNat { x.pass l with seq := x.seq } net p.toNat)))
      | _ => .quiet)).run s)

/-! ## Barriers (12 R211 to R213, 13 R232) -/

/-- A barrier instruction's index; BAR_RANGE at or above the scope's entries. -/
def Ctx.barAt (x : Ctx) (f : FormA) (l : Token) (act : Nat → Nat → Act) : Act :=
  let scope := bits f.sub.toNat 0 3
  let idx := bits l.lane0.toNat 0 6
  if barEntries scope ≤ idx then x.fault Code.barRange else act scope idx

def Ctx.barEv (x : Ctx) (scope idx : Nat) (op : BarOp) (l : Token) (r : Option Reply) : CAct :=
  .bar ⟨x.who, scope, idx, op, { x.pass l with seq := x.seq }, r⟩

/-- R232: an entry opened at commit with an expected count; EXP 0 is BAR_RANGE. -/
def execBinit (f : FormA) (s : State) : Host.Outcome State Fault Refusal :=
  .next ((fire 0x16D (.a f) noNull fun x =>
    let l := x.opTok
    let r := x.selR f
    x.select l (x.select r (x.barAt f l fun scope idx =>
      let exp := bits r.lane0.toNat 0 12
      if exp = 0 then x.fault Code.barRange else x.record (x.barEv scope idx (.init exp) l none)))).run s)

/-- The first `bjoin` of a block, in slot order, that R232 refuses, with its code: one of an entry that the activation is enrolled in, or a
fifth enrolment. -/
def joinFault : List Enrolment → List (Nat × CAct) → Option (Nat × Nat)
  | _, [] => none
  | en, (i, c) :: rest =>
    match c with
    | .bar e =>
      let n : Enrolment := ⟨e.scope, e.idx⟩
      match e.op with
      | .join =>
        if en.contains n then some (i, Code.barRejoin) else if 4 ≤ en.length then some (i, Code.barLimit) else joinFault (n :: en) rest
      | .leave => joinFault (en.erase n) rest
      | _ => joinFault en rest
    | _ => joinFault en rest

/-- R232: an enrolment at commit, when what earlier blocks have joined and left is known; BAR_REJOIN and BAR_LIMIT are found there
(`joinFault`, log 135). -/
def execBjoin (f : FormA) (s : State) : Host.Outcome State Fault Refusal :=
  .next ((fire 0x16E (.a f) noNull fun x =>
    let l := x.opTok
    x.select l (x.barAt f l fun scope idx => x.record (x.barEv scope idx .join l none))).run s)

/-- R232: an arrival, sent once every store-class event of the wave and of earlier waves is acknowledged. -/
def execBarv (f : FormA) (s : State) : Host.Outcome State Fault Refusal :=
  .next ((fire 0x16F (.a f) noNull fun x =>
    let l := x.opTok
    x.select l (x.barAt f l fun scope idx => x.record (x.barEv scope idx .arrive l none))).run s)

/-- R232: a wait for the generation of the last arrival, answered to the reply target. -/
def execBwait (f : FormA) (s : State) : Host.Outcome State Fault Refusal :=
  .next ((fire 0x170 (.a f) noNull fun x =>
    let l := x.opTok
    x.selectAnswer f.c l (x.barAt f l fun scope idx =>
      x.record (x.barEv scope idx (.wait 0) l (x.replyTarget f.c)))).run s)

/-- R232: a withdrawal at commit. -/
def execBleave (f : FormA) (s : State) : Host.Outcome State Fault Refusal :=
  .next ((fire 0x171 (.a f) noNull fun x =>
    let l := x.opTok
    x.select l (x.barAt f l fun scope idx => x.record (x.barEv scope idx .leave l none))).run s)

/-! ### Events at an entry -/

def barSt (e : BarState) : Nat := e.st.toNat
def BarState.free : BarState := ⟨0, 0, 0, 0, 0, 0, 0, [], [], [], [], [], []⟩

def State.barrier (s : State) (key : Nat) : BarState := tgetD BarState.free s.m.pkg.bars key
def putBar (key : Nat) (b : BarState) : Act := .pkg fun p => { p with bars := tput p.bars key b }

def Who.unit (w : Who) : Nat × Nat × Nat := (w.core, w.frame, w.uid)

/-- A message to other packages leaves. -/
def fabSend (m : FabMsg) : Act := .fab fun f => { f with out := f.out ++ [m] }

/-- The last agreed generation (22 R360). -/
def State.fabGen (s : State) : Nat := (s.m.fab.agreed.getD (0, [])).1

/-- A message for the `.fb` entries, under the agreed generation (22 R376). -/
def fbSend (pkg : BitVec 12) (b : FbBody) : Act := .look fun s => fabSend (.bar ⟨pkg, s.fabGen, b⟩)

/-- The package and the core of a unit of another package (22 R376). -/
def Who.remote (w : Who) : Option (BitVec 12 × Nat) :=
  if 2 ^ 20 ≤ w.core then some (BitVec.ofNat 12 (w.core / 2 ^ 20 - 1), w.core % 2 ^ 20) else none

/-- A fault of an activation whose wave has committed, by a token's sequence: its oldest wave, or the activation itself, is frozen (01 R33). One
that has ended has no master left to freeze, and the record says so (00 R5). -/
def lateFault (w : Who) (seq : BitVec 16) (code : Nat) : Act := .look fun s =>
  let rec_ (frz : Bool) : Act := record ⟨code, w.colour, 0, frz, w.core, w.frame, w.wave, 0, w.slot, seq, 0, 0, 0⟩
  match s.m.actOf? w with
  | none => rec_ false
  | some a =>
    match a.waves with
    | v :: _ => takeFault { w with wave := v.idx, run := v.run } code 0 0 seq 0
    | [] => (modAct w.core w.frame fun a => { a with fault := some code }).andThen (rec_ true)

/-- An `.fb` event of the unit of a core, as it travels. -/
def BarEv.fbEvent (e : BarEv) (core : Nat) : FbEvent :=
  ⟨e.idx, e.who.colour, e.op, core, e.who.frame, e.who.uid, e.who.wave, e.who.slot, e.who.run, e.l.seq⟩

/-- A barrier event has breached: its issuer faults, at its own package (22 R376). -/
def barBreach (e : BarEv) (code : Nat) : Act :=
  match e.who.remote with
  | some (p, core) => fbSend p (.fault (e.fbEvent core) code)
  | none => lateFault e.who e.l.seq code

/-- A barrier answer: GEN, or BAR_BROKEN. -/
def barAnswer (e : BarEv) (g : Option (BitVec 6)) : Act :=
  match e.who.remote, e.reply with
  | some (p, core), _ => fbSend p (.answer e.idx core e.who.frame e.who.uid g)
  | none, none => .quiet
  | none, some r =>
    let w := e.l.lanes.length
    let t := match g with
      | some v => mkTok e.who.colour .data e.l.seq (padLanes w [v.setWidth 32])
      | none => errTok e.who.colour errBarBroken e.l.seq w
    send (barUnit e.scope e.who.core) r.core .q1 (.reply r t)

/-- A unit's last arrival is one of the entry's generation. -/
def BarState.lastAt (b : BarState) (u : Nat × Nat × Nat) : BarState :=
  { b with last := (u, b.gen) :: b.last.filter fun x => x.1 != u, broke := b.broke.filter (· != u) }

/-- A unit arrives in the generation. -/
def BarState.arrived (b : BarState) (u : Nat × Nat × Nat) : BarState := { b.lastAt u with marks := b.marks ++ [u] }

/-- A unit withdraws: its held arrivals and its last one are forgotten. -/
def BarState.without (b : BarState) (u : Nat × Nat × Nat) : BarState :=
  { b with
    units := b.units.erase u, again := b.again.filter (fun y => y.who.unit != u)
    last := b.last.filter (fun x => x.1 != u), broke := b.broke.filter (· != u) }

/-- The generation breaks: those that arrived in it will not see it complete. -/
def BarState.broken (b : BarState) : BarState :=
  { b with st := 2, waiters := [], again := [], broke := b.marks ++ b.broke }

/-- Of the arrivals held, the first of each unit, which count in the generation that begins, and the rest, held on (R213). -/
def firstOfEach : List BarEv → List BarEv × List BarEv
  | [] => ([], [])
  | e :: es =>
    let (a, b) := firstOfEach es
    (e :: a.filter (fun y => y.who.unit != e.who.unit), a.filter (fun y => y.who.unit == e.who.unit) ++ b)

/-- The test after arrivals and withdrawals (R213): complete, broken, or neither. A completion counts the first arrival of each
unit held for the next generation; n bounds the generations completed at once. -/
def barTest (key : Nat) : Nat → Act
  | 0 => .quiet
  | n + 1 => .look fun s =>
    let b := s.barrier key
    if b.st ≠ 1 then .quiet
    else if b.arr = b.exp then
      let (now, later) := b.waiters.partition fun e => e.op == .wait b.gen
      let (firsts, rest) := firstOfEach b.again
      let b' := { b with gen := b.gen + 1, arr := 0, pnd := b.enr, marks := [], waiters := later, again := rest }
      Act.seq [
        putBar key b',
        Act.each now fun e => barAnswer e (some b.gen),
        Act.each firsts fun e => barArrive key e,
        barTest key n ]
    else if b.arr + b.pnd < b.exp then
      Act.seq [
        putBar key b.broken,
        Act.each b.waiters fun e => barAnswer e none,
        record { Record.blank with code := Code.barBroken, col := b.colour } ]
    else .quiet
where
  /-- An arrival counted, without the test. -/
  barArrive (key : Nat) (e : BarEv) : Act := .look fun s =>
    let b := s.barrier key
    putBar key { b.arrived e.who.unit with arr := b.arr + 1, pnd := b.pnd - 1 }

/-- An enrolment that its home has refused is none of the activation's. -/
def notJoined (e : BarEv) : Act := .when e.who.remote.isNone (modAct e.who.core e.who.frame fun a =>
  if a.uid = e.who.uid then { a with enrol := a.enrol.erase ⟨e.scope, e.idx⟩ } else a)

/-- One event at an entry's home (R213, R232). An arrival by an enrolled unit at an entry that is free has no effect: R213 says nothing of it
(log 136). -/
def barPerform (key : Nat) (e : BarEv) : Act := .look fun s =>
  let b := s.barrier key
  let u := e.who.unit
  let enrolled := b.units.contains u
  let breach (code : Nat) : Act := barBreach e code
  match e.op with
  | .init exp =>
    if b.st ≠ 0 && b.colour ≠ e.who.colour then breach Code.barColour
    else if b.st = 1 && (0 < b.arr || b.waiters ≠ []) then breach Code.barBusy
    else putBar key { b with
      st := 1, colour := e.who.colour, exp := exp, arr := 0, pnd := b.enr, gen := b.gen + 1, marks := [], again := [] }
  | op =>
    if b.colour ≠ e.who.colour then (breach Code.barColour).andThen (.when (op = .join) (notJoined e))
    else
      match op with
      | .join => putBar key { b with enr := b.enr + 1, pnd := b.pnd + 1, units := b.units ++ [u] }
      | .arrive =>
        if !enrolled then breach Code.barEnrol
        else if b.st = 2 then putBar key { b.lastAt u with broke := u :: b.broke.filter (· != u) }
        else if b.st ≠ 1 then .quiet
        else if b.marks.contains u then putBar key { b with again := b.again ++ [e] }
        else (barTest.barArrive key e).andThen (barTest key 64)
      | .wait _ =>
        let last := (b.last.find? fun x => x.1 == u).map Prod.snd
        let again := (b.again.filter fun y => y.who.unit == u).length
        if b.st = 2 then barAnswer e none
        else
          match last with
          | none => breach Code.barEnrol
          | some g =>
            if b.marks.contains u then
              putBar key { b with waiters := b.waiters ++ [{ e with op := .wait (b.gen + BitVec.ofNat 6 again) }] }
            else barAnswer e (if b.broke.contains u then none else some g)
      | _ =>
        if !enrolled then breach Code.barEnrol
        else
          (putBar key { b.without u with
            enr := b.enr - 1, pnd := if b.marks.contains u then b.pnd else b.pnd - 1 }).andThen (barTest key 64)

end Sys2Proof.Machine
end

