-- ==== Sys2Proof/Machine/Hash.lean ====
section
/-! DEFINITION. The hashes of the seal engines (spec 19 R317, R318): SHA-384 (FIPS 180-4) and SHA3-384 (FIPS 202), over bytes. -/

namespace Sys2Proof.Machine

/-! ## SHA-384 -/

def shaK0 : List Nat := [
  0x428A2F98D728AE22, 0x7137449123EF65CD, 0xB5C0FBCFEC4D3B2F, 0xE9B5DBA58189DBBC,
  0x3956C25BF348B538, 0x59F111F1B605D019, 0x923F82A4AF194F9B, 0xAB1C5ED5DA6D8118,
  0xD807AA98A3030242, 0x12835B0145706FBE, 0x243185BE4EE4B28C, 0x550C7DC3D5FFB4E2,
  0x72BE5D74F27B896F, 0x80DEB1FE3B1696B1, 0x9BDC06A725C71235, 0xC19BF174CF692694,
  0xE49B69C19EF14AD2, 0xEFBE4786384F25E3, 0x0FC19DC68B8CD5B5, 0x240CA1CC77AC9C65]

def shaK1 : List Nat := [
  0x2DE92C6F592B0275, 0x4A7484AA6EA6E483, 0x5CB0A9DCBD41FBD4, 0x76F988DA831153B5,
  0x983E5152EE66DFAB, 0xA831C66D2DB43210, 0xB00327C898FB213F, 0xBF597FC7BEEF0EE4,
  0xC6E00BF33DA88FC2, 0xD5A79147930AA725, 0x06CA6351E003826F, 0x142929670A0E6E70,
  0x27B70A8546D22FFC, 0x2E1B21385C26C926, 0x4D2C6DFC5AC42AED, 0x53380D139D95B3DF,
  0x650A73548BAF63DE, 0x766A0ABB3C77B2A8, 0x81C2C92E47EDAEE6, 0x92722C851482353B]

def shaK2 : List Nat := [
  0xA2BFE8A14CF10364, 0xA81A664BBC423001, 0xC24B8B70D0F89791, 0xC76C51A30654BE30,
  0xD192E819D6EF5218, 0xD69906245565A910, 0xF40E35855771202A, 0x106AA07032BBD1B8,
  0x19A4C116B8D2D0C8, 0x1E376C085141AB53, 0x2748774CDF8EEB99, 0x34B0BCB5E19B48A8,
  0x391C0CB3C5C95A63, 0x4ED8AA4AE3418ACB, 0x5B9CCA4F7763E373, 0x682E6FF3D6B2B8A3,
  0x748F82EE5DEFB2FC, 0x78A5636F43172F60, 0x84C87814A1F0AB72, 0x8CC702081A6439EC]

def shaK3 : List Nat := [
  0x90BEFFFA23631E28, 0xA4506CEBDE82BDE9, 0xBEF9A3F7B2C67915, 0xC67178F2E372532B,
  0xCA273ECEEA26619C, 0xD186B8C721C0C207, 0xEADA7DD6CDE0EB1E, 0xF57D4F7FEE6ED178,
  0x06F067AA72176FBA, 0x0A637DC5A2C898A6, 0x113F9804BEF90DAE, 0x1B710B35131C471B,
  0x28DB77F523047D84, 0x32CAAB7B40C72493, 0x3C9EBE0A15C9BEBC, 0x431D67C49C100D4C,
  0x4CC5D4BECB3E42B6, 0x597F299CFC657E2A, 0x5FCB6FAB3AD6FAEC, 0x6C44198C4A475817]

/-- The round constants: the first 64 bits of the fractions of the cube roots of the first 80 primes. -/
def shaK : List Word := (shaK0 ++ shaK1 ++ shaK2 ++ shaK3).map fun x => BitVec.ofNat 64 x

/-- The first chaining value: of the square roots of the ninth to sixteenth primes. -/
def shaH : List Word := [
  0xCBBB9D5DC1059ED8, 0x629A292A367CD507, 0x9159015A3070DD17, 0x152FECD8F70E5939,
  0x67332667FFC00B31, 0x8EB44A8768581511, 0xDB0C2E0D64F98FA7, 0x47B5481DBEFA4FA4].map fun (x : Nat) => BitVec.ofNat 64 x

/-- A number as n bytes, the highest first. -/
def beBytes (n x : Nat) : List Byte := (leBytes n x).reverse

def beWord (bs : List Byte) : Word := BitVec.ofNat 64 (leNat bs.reverse)

/-- The message schedule grown by n words; the list is newest first. -/
def shaGrow : Nat → List Word → List Word
  | 0, ws => ws
  | n + 1, ws =>
    let a := ws.getD 14 0
    let b := ws.getD 1 0
    let s0 := a.rotateRight 1 ^^^ a.rotateRight 8 ^^^ a >>> 7
    let s1 := b.rotateRight 19 ^^^ b.rotateRight 61 ^^^ b >>> 6
    shaGrow n ((ws.getD 15 0 + s0 + ws.getD 6 0 + s1) :: ws)

/-- One round. -/
def shaRound (v : List Word) (kw : Word) : List Word :=
  match v with
  | [a, b, c, d, e, f, g, h] =>
    let t1 := h + (e.rotateRight 14 ^^^ e.rotateRight 18 ^^^ e.rotateRight 41) + ((e &&& f) ^^^ (~~~e &&& g)) + kw
    let t2 := (a.rotateRight 28 ^^^ a.rotateRight 34 ^^^ a.rotateRight 39) + ((a &&& b) ^^^ (a &&& c) ^^^ (b &&& c))
    [t1 + t2, a, b, c, d + t1, e, f, g]
  | v => v

/-- One block of 128 bytes. -/
def shaBlock (h : List Word) (block : List Byte) : List Word :=
  let w16 := (upFrom 16 0).map fun i => beWord ((block.drop (8 * i)).take 8)
  let ws := (shaGrow 64 w16.reverse).reverse
  List.zipWith (· + ·) h ((List.zipWith (· + ·) shaK ws).foldl shaRound h)

def shaBlocks : Nat → List Word → List Byte → List Word
  | 0, h, _ => h
  | n + 1, h, bs => shaBlocks n (shaBlock h (bs.take 128)) (bs.drop 128)

/-- SHA-384: 48 bytes. -/
def sha384 (m : List Byte) : List Byte :=
  let padded := m ++ 0x80 :: List.replicate ((239 - m.length % 128) % 128) 0 ++ beBytes 16 (8 * m.length)
  ((shaBlocks (padded.length / 128) shaH padded).take 6).flatMap fun w => beBytes 8 w.toNat

/-! ## SHA3-384 -/

/-- The powers of x modulo x^8 + x^6 + x^5 + x^4 + 1, as eight bits: the register behind the constants of iota (FIPS 202, 3.2.5). -/
def iotaStep (v : Nat) : Nat := (2 * v % 256) ^^^ (if v < 128 then 0 else 0x71)

/-- From a register's value, the seven bits of a round's constant at places 2^j - 1, the value after them at the end. -/
def iotaBits : Nat → Nat → Nat → Word × Nat
  | 0, _, v => (0, v)
  | n + 1, j, v =>
    let (w, u) := iotaBits n (j + 1) (iotaStep v)
    (w ^^^ (BitVec.ofNat 64 (v % 2) <<< (2 ^ j - 1)), u)

/-- The constants of n rounds. -/
def iotaWords : Nat → Nat → List Word
  | 0, _ => []
  | n + 1, v =>
    let (w, u) := iotaBits 7 0 v
    w :: iotaWords n u

/-- Where pi takes the lane at x + 5y: to column y and row 2x + 3y. -/
def piPlace (i : Nat) : Nat := i / 5 + (2 * (i % 5) + 3 * (i / 5)) % 5 * 5

/-- Rho and pi along the cycle of pi that starts at lane 1: the t-th lane of it turns by (t + 1)(t + 2) / 2 and moves on. -/
def rhoPi (old : List Word) : Nat → Nat → Nat → List Word → List Word
  | 0, _, _, a => a
  | n + 1, t, i, a =>
    rhoPi old n (t + 1) (piPlace i) (setAt a (piPlace i) ((old.getD i 0).rotateLeft ((t + 1) * (t + 2) / 2 % 64)))

/-- The lanes' column parities, mixed: what theta adds to each column. -/
def thetaSums (a : List Word) : List Word :=
  let par (x : Nat) : Word := (upFrom 5 0).foldl (fun w y => w ^^^ a.getD (x % 5 + 5 * y) 0) 0
  (upFrom 5 0).map fun x => par (x + 4) ^^^ (par (x + 1)).rotateLeft 1

/-- Chi on a row. -/
def chiRow : List Word → List Word
  | [p, q, r, s, t] => [p ^^^ (r &&& ~~~q), q ^^^ (s &&& ~~~r), r ^^^ (t &&& ~~~s), s ^^^ (p &&& ~~~t), t ^^^ (q &&& ~~~p)]
  | row => row

/-- One round of the permutation on 25 lanes, with iota's constant. -/
def keccakRound (a : List Word) (k : Word) : List Word :=
  let sums := thetaSums a
  let mixed := a.zipIdx.map fun (w, i) => w ^^^ sums.getD (i % 5) 0
  let moved := rhoPi mixed 24 0 1 mixed
  match (upFrom 5 0).flatMap fun y => chiRow ((moved.drop (5 * y)).take 5) with
  | w :: ws => (k ^^^ w) :: ws
  | [] => []

/-- A block of 104 bytes absorbed. -/
def keccakAbsorb (a : List Word) (block : List Byte) : List Word :=
  let ws := (upFrom 25 0).map fun i => BitVec.ofNat 64 (leNat ((block.drop (8 * i)).take 8))
  (iotaWords 24 1).foldl keccakRound (List.zipWith (· ^^^ ·) a ws)

def keccakBlocks : Nat → List Word → List Byte → List Word
  | 0, a, _ => a
  | n + 1, a, bs => keccakBlocks n (keccakAbsorb a (bs.take 104)) (bs.drop 104)

/-- SHA3-384: 48 bytes. -/
def sha3_384 (m : List Byte) : List Byte :=
  let room := 104 - m.length % 104
  let fill : List Byte := if room = 1 then [0x86] else 0x06 :: List.replicate (room - 2) 0 ++ [0x80]
  let padded := m ++ fill
  ((keccakBlocks (padded.length / 104) (List.replicate 25 0) padded).take 6).flatMap fun w => leBytes 8 w.toNat

end Sys2Proof.Machine
end

