-- ==== Sys2Proof/Machine/Lanes.lean ====
section
/-! DEFINITION. The lane operations (spec 06 R126, R127): one meaning each. -/

namespace Sys2Proof.Machine

/-- R126: L lane SUB in every lane. SUB is checked against the declared width alone (R50): where `ctxa` has granted fewer lanes it may name one that L
has not, of which R126 says nothing; the model gives 0 (log 145). -/
def execBcast (f : FormA) (s : State) : Host.Outcome State Fault Refusal :=
  .next ((alu1 0x02D f fun a _ _ => .ok (List.replicate a.length (a.getD f.sub.toNat 0))).run s)

/-- R126: L lane j where j = R lane i [4:0]; 0 where j is at least w. -/
def execShuf (f : FormA) (s : State) : Host.Outcome State Fault Refusal :=
  .next ((alu2 0x02E f fun a b _ => .ok (b.map fun i => a.getD (i.toNat % 32) 0)).run s)

/-- R126: L lane (i + SUB) mod w. -/
def execLrot (f : FormA) (s : State) : Host.Outcome State Fault Refusal :=
  .next ((alu1 0x02F f fun a _ _ => .ok (a.drop (f.sub.toNat % a.length) ++ a.take (f.sub.toNat % a.length))).run s)

/-! ## Reductions and scans (03 R82) -/

/-- One level of the pairwise tree: an odd last value moves up unchanged. -/
def treeLevel (f : Nat → Nat → Except ErrCode Nat) : List Nat → Except ErrCode (List Nat)
  | a :: b :: rest =>
    match f a b with
    | .error e => .error e
    | .ok x => (treeLevel f rest).map (x :: ·)
  | [a] => .ok [a]
  | [] => .ok []

/-- The tree; n bounds its levels. -/
def tree (f : Nat → Nat → Except ErrCode Nat) : Nat → List Nat → Except ErrCode Nat
  | 0, xs => .ok (xs.headD 0)
  | n + 1, xs =>
    match xs with
    | [a] => .ok a
    | xs =>
      match treeLevel f xs with
      | .error e => .error e
      | .ok ys => tree f n ys

/-- The prefix sums from left to right, the sum so far first. -/
def scanFrom (f : Nat → Nat → Except ErrCode Nat) (acc : Nat) : List Nat → Except ErrCode (List Nat)
  | [] => .ok []
  | x :: xs =>
    match f acc x with
    | .error e => .error e
    | .ok y => (scanFrom f y xs).map (y :: ·)

def scan (f : Nat → Nat → Except ErrCode Nat) : List Nat → Except ErrCode (List Nat)
  | [] => .ok []
  | x :: xs => (scanFrom f x xs).map (x :: ·)

/-- The elements of position k, lane by lane. -/
def column (ty : Nat) (ls : List Lane) (k : Nat) : List Nat := ls.map fun l => (elems ty [l]).getD k 0

/-- A NaN pattern in any lane (R127). -/
def anyNan (ty : Nat) (ls : List Lane) : Bool :=
  isFloatTy ty && (elems ty ls).any fun x => ((tyFloat ty).decode x).isNan

/-- The reduction of each element position, in lane 0 or in every lane (R127). -/
def reduce (ty : Nat) (all : Bool) (f : Nat → Nat → Except ErrCode Nat) (a : List Lane) : Result :=
  if anyNan ty a then .error errNanIn
  else
    (allOk ((List.range (32 / eltBits ty)).map fun k => tree f 6 (column ty a k))).map fun vs =>
      let l : Lane := BitVec.ofNat 32 (joinNat (eltBits ty) vs)
      if all then List.replicate a.length l else l :: List.replicate (a.length - 1) 0

/-- Lane i from element position k of each column. -/
def rowsOf (ty : Nat) (w : Nat) (cols : List (List Nat)) : List Lane :=
  (List.range w).map fun i => BitVec.ofNat 32 (joinNat (eltBits ty) (cols.map fun c => c.getD i 0))

/-- R127: the sum, wrapped or rounded by RNE at each step. -/
def execRedadd (f : FormA) (s : State) : Host.Outcome State Fault Refusal :=
  .next ((alu1 0x030 f fun a _ _ => reduce f.ty.toNat (f.sub.getLsbD 0) (addElem f.ty.toNat) a).run s)

/-- R127: the maximum. -/
def execRedmax (f : FormA) (s : State) : Host.Outcome State Fault Refusal :=
  .next ((alu1 0x031 f fun a _ _ => reduce f.ty.toNat (f.sub.getLsbD 0) (maxElem f.ty.toNat) a).run s)

/-- R127: the minimum. -/
def execRedmin (f : FormA) (s : State) : Host.Outcome State Fault Refusal :=
  .next ((alu1 0x032 f fun a _ _ => reduce f.ty.toNat (f.sub.getLsbD 0) (minElem f.ty.toNat) a).run s)

/-- R127: inclusive prefix sums. -/
def execScanadd (f : FormA) (s : State) : Host.Outcome State Fault Refusal :=
  .next ((alu1 0x033 f fun a _ _ =>
    if anyNan f.ty.toNat a then .error errNanIn
    else
      (allOk ((List.range (32 / eltBits f.ty.toNat)).map fun k =>
        scan (addElem f.ty.toNat) (column f.ty.toNat a k))).map (rowsOf f.ty.toNat a.length)).run s)

/-- R126: lane i holds i. -/
def execLidx (f : FormA) (s : State) : Host.Outcome State Fault Refusal :=
  .next ((fire 0x034 (.a f) noNull fun x =>
    x.emit f.c (x.tok .data ((List.range x.width).map (BitVec.ofNat 32)))).run s)

/-- The bits of the non-zero lanes. -/
def maskOf : List Lane → Nat
  | [] => 0
  | l :: ls => (if l = 0 then 0 else 1) + 2 * maskOf ls

/-- R126: bit k of lane 0 set where lane k is not zero. -/
def execLmask (f : FormA) (s : State) : Host.Outcome State Fault Refusal :=
  .next ((alu1 0x035 f fun a _ _ => .ok (padLanes a.length [BitVec.ofNat 32 (maskOf a)])).run s)

/-- The lanes of a that b selects. -/
def compact (a b : List Lane) : List Lane := ((a.zip b).filter fun (_, y) => y ≠ 0).map Prod.fst

/-- R126: the selected lanes to T0, their count to T1. -/
def execLcomp (f : FormA) (s : State) : Host.Outcome State Fault Refusal :=
  .next ((fire 0x036 (.a f) noNull fun x =>
    x.withData f.c (x.opL ++ x.opR) (
      let ls := compact x.lanesL x.selTok.lanes
      (x.deliver f.c.t0 (x.data ls)).andThen (x.deliver f.c.t1 (x.data [BitVec.ofNat 32 ls.length])))).run s)

end Sys2Proof.Machine
end

