-- ==== Sys2Proof/Machine/Fabric.lean ====
section
/-! DEFINITION. The fabric (spec 22; 03 R84, 23 R382): ports and seams, the live link table and its agreement, trees, the
collective engine, `coll`, `lnkr`, `trgen`, `collab`, and the `.fb` barrier entries (12 R211 to R213). -/

namespace Sys2Proof.Machine

/-! ## Entries (R358) -/

def lltSt (e : BitVec 32) : Nat := bits e.toNat 30 2
def lltBw (e : BitVec 32) : Nat := bits e.toNat 27 3
def lltPeer (e : BitVec 32) : Nat := bits e.toNat 15 12
def lltPport (e : BitVec 32) : Nat := bits e.toNat 10 5
def lltEntry (st bw peer pport : Nat) : BitVec 32 :=
  BitVec.ofNat 32 (st % 4 * 2 ^ 30 + bw % 8 * 2 ^ 27 + peer % 2 ^ 12 * 2 ^ 15 + pport % 32 * 2 ^ 10)

/-- An entry that is down: its bandwidth class is 0. -/
def lltDown (e : BitVec 32) : BitVec 32 := lltEntry 0 0 (lltPeer e) (lltPport e)

/-- The 34 entries as the package floods them; over a seam that is down every port is (R361). -/
def FabricState.local_ (f : FabricState) : List (BitVec 32) :=
  (upFrom 34 0).map fun i =>
    let e := tgetD (0 : BitVec 32) f.entries i
    if f.away && i < 24 then lltDown e else e

/-! ## Edges and components (R359) -/

/-- An edge between two packages: its ends, the port at each, its class, whether it is up. -/
structure Edge where
  lo : Nat
  hi : Nat
  port : Nat
  hport : Nat
  cls : Nat
  up : Bool
deriving DecidableEq, Repr

def entryOfPkg (t : Tab LltCopy) (a i : Nat) : BitVec 32 := ((tget? t a).map fun c => c.entries.getD i 0).getD 0

/-- The peer and its port, where port p of package a forms an edge. -/
def edgeAt (t : Tab LltCopy) (a p : Nat) : Option (Nat × Nat) :=
  let e := entryOfPkg t a p
  let b := lltPeer e
  let q := lltPport e
  let g := entryOfPkg t b q
  if p < 24 && q < 24 && lltSt e ≠ 0 && lltSt g ≠ 0 && lltPeer g = a && lltPport g = p then some (b, q) else none

def edgesOf (t : Tab LltCopy) : List Edge :=
  t.flatMap fun (a, _) => (upFrom 24 0).filterMap fun p =>
    match edgeAt t a p with
    | some (b, q) =>
      if a < b then
        let e := entryOfPkg t a p
        let g := entryOfPkg t b q
        some ⟨a, b, p, q, min (lltBw e) (lltBw g), lltSt e = 2 && lltSt g = 2⟩
      else none
    | none => none

/-- Ascending order by a key, equal keys in the order given. -/
def insertBy {α : Type} (key : α → Nat) (x : α) : List α → List α
  | [] => [x]
  | y :: ys => if key x < key y then x :: y :: ys else y :: insertBy key x ys

def sortBy {α : Type} (key : α → Nat) (xs : List α) : List α := xs.foldl (fun acc x => insertBy key x acc) []

/-- Packages reached over edges, a pass at a time. -/
def reachFrom (es : List Edge) : Nat → List Nat → List Nat
  | 0, xs => xs
  | n + 1, xs => reachFrom es n (es.foldl (fun acc e =>
      if acc.contains e.lo && !acc.contains e.hi then acc ++ [e.hi]
      else if acc.contains e.hi && !acc.contains e.lo then acc ++ [e.lo] else acc) xs)

/-- The component of a package in a table, in ascending order. -/
def component (t : Tab LltCopy) (a : Nat) : List Nat := sortBy id (reachFrom (edgesOf t) t.length [a])

/-! ## Trees (R362) -/

/-- The sort key of an edge: class descending, up first, its position among its pair's, then its ends and its port. -/
def edgeKey (es : List Edge) (e : Edge) : Nat :=
  let j := (es.filter fun g => g.lo == e.lo && g.hi == e.hi && g.port < e.port).length
  (((((7 - e.cls) * 2 + (if e.up then 0 else 1)) * 32 + j) * 4096 + e.lo) * 4096 + e.hi) * 32 + e.port

/-- Kruskal over sorted edges: the edges that join two parts. -/
def kruskal (pkgs : List Nat) (es : List Edge) : List Edge :=
  (es.foldl (fun ((lab, tree) : List (Nat × Nat) × List Edge) e =>
    let part (p : Nat) : Nat := ((lab.find? fun x => x.1 == p).map Prod.snd).getD p
    if part e.lo = part e.hi then (lab, tree)
    else (lab.map fun (p, l) => (p, if l = part e.hi then part e.lo else l), tree ++ [e])) (pkgs.map fun p => (p, p), [])).2

/-- Edge-disjoint spanning trees until one does not span. -/
def treesFrom (pkgs : List Nat) : Nat → List Edge → List (List Edge)
  | 0, _ => []
  | n + 1, es =>
    let t := kruskal pkgs es
    if 1 < pkgs.length && t.length + 1 = pkgs.length then t :: treesFrom pkgs n (es.filter fun e => !t.contains e) else []

/-- A tree: its root, and each other package with its parent and its own port to it. -/
structure Tree where
  root : Nat
  parents : List (Nat × Nat × Nat)
deriving DecidableEq, Repr

/-- Parents assigned outwards from the root, a pass at a time. -/
def orient (es : List Edge) (root : Nat) : Nat → List (Nat × Nat × Nat) → List (Nat × Nat × Nat)
  | 0, ps => ps
  | n + 1, ps => orient es root n (es.foldl (fun acc e =>
      let known (p : Nat) : Bool := p == root || acc.any fun x => x.1 == p
      if known e.lo && !known e.hi then acc ++ [(e.hi, e.lo, e.hport)]
      else if known e.hi && !known e.lo then acc ++ [(e.lo, e.hi, e.port)] else acc) ps)

/-- The tree set of a component. -/
def treesOf (t : Tab LltCopy) (pkgs : List Nat) : List Tree :=
  let es := (edgesOf t).filter fun e => pkgs.contains e.lo && pkgs.contains e.hi
  let ts := treesFrom pkgs 16 (sortBy (edgeKey es) es)
  (ts.zip (upFrom ts.length 0)).map fun (t, i) =>
    let root := pkgs.getD (i % pkgs.length) 0
    ⟨root, orient t root pkgs.length []⟩

def Tree.parent? (t : Tree) (p : Nat) : Option (Nat × Nat) := (t.parents.find? fun x => x.1 == p).map Prod.snd

/-- Children in ascending package ID. -/
def Tree.children (t : Tree) (p : Nat) : List Nat := sortBy id ((t.parents.filter fun x => x.2.1 == p).map Prod.fst)

/-- A package and those below it. -/
def Tree.below (t : Tree) : Nat → Nat → List Nat
  | 0, p => [p]
  | n + 1, p => p :: (t.children p).flatMap (t.below n)

/-- The agreed table and its generation; before the first agreement a package knows only itself. -/
def State.agreedTable (s : State) : Nat × Tab LltCopy := s.m.fab.agreed.getD (0, [])
def State.fabComp (s : State) : List Nat := component s.agreedTable.2 s.m.fab.pkg.toNat
def State.fabTrees (s : State) : List Tree := treesOf s.agreedTable.2 s.fabComp
def State.fabSelf (s : State) : Nat := s.m.fab.pkg.toNat

/-- The root of tree 0, the package of smallest ID in the agreed component (R362, R376). -/
def State.fabRoot (s : State) : Nat := s.fabComp.headD s.fabSelf

/-! ## Collectives: parameters (R366 to R368) -/

def modColl (id : Nat) (f : Coll → Coll) : Act := .fab fun g => { g with colls := g.colls.map fun c => if c.id = id then f c else c }
def State.coll? (s : State) (id : Nat) : Option Coll := s.m.fab.colls.find? fun c => c.id == id

/-- A `coll` command's operation and parameters. -/
structure CollPar where
  eop : Nat
  red : Nat
  ty : Nat
  carry : Bool
  src : Nat
  dst : Nat
  mark : Nat
  group : Nat
  len : Nat
  tag : Lane
  source : Nat

def Cmd.collPar (c : Cmd) : CollPar :=
  match c.kind with
  | .coll eop red ty det ps =>
    ⟨eop, red, ty, 2 ≤ eop || (det && red = 0 && isFloatTy ty), paramAddr .g ps 0, paramAddr .g ps 1, paramAddr .g ps 2,
      paramAddr .g ps 3, param ps 4 0, BitVec.ofNat 32 (param ps 5 0), param ps 5 1⟩
  | _ => ⟨0, 0, 0, false, 0, 0, 0, 0, 0, 0, 0⟩

def CollPar.esize (p : CollPar) : Nat := if p.ty = 1 then 8 else 4

/-- The bytes of the space S of an operation with L bytes and n participants. -/
def collTotal (eop len n : Nat) : Nat := if eop = 2 then n * len else len

def CollPar.total (p : CollPar) (n : Nat) : Nat := collTotal p.eop p.len n

/-- The bytes of chunk c of a space. -/
def chunkLen (total c : Nat) : Nat := min 65536 (total - 65536 * c)

/-- The rank of a package in a group. -/
def rankIn (group : List Nat) (p : Nat) : Nat := group.findIdx fun g => g == p

/-- The source bytes of a member that belong to a chunk: address and length. -/
def CollPar.input (p : CollPar) (n rank c : Nat) : Nat × Nat :=
  let lo := 65536 * c
  let hi := lo + chunkLen (p.total n) c
  match p.eop with
  | 2 =>
    let a := max lo (rank * p.len)
    let b := min hi ((rank + 1) * p.len)
    (p.src + (a - rank * p.len), b - a)
  | 3 => if rank = p.source then (p.src + lo, hi - lo) else (p.src, 0)
  | _ => (p.src + lo, hi - lo)

/-- The part of S that a member's DST holds. -/
def collPart (eop len n rank : Nat) : Nat × Nat := if eop = 1 then (rank * (len / n), (rank + 1) * (len / n)) else (0, collTotal eop len n)

/-- Whether a member's DST holds bytes of a chunk. -/
def collHolds (eop len n rank c : Nat) : Bool :=
  let (a, b) := collPart eop len n rank
  a < 65536 * c + chunkLen (collTotal eop len n) c && 65536 * c < b

def CollPar.holds (p : CollPar) (n rank c : Nat) : Bool := collHolds p.eop p.len n rank c

/-- The part of S that a member's DST holds, and the address of its first byte. -/
def CollPar.output (p : CollPar) (n rank : Nat) : Nat × Nat × Nat :=
  let (a, b) := collPart p.eop p.len n rank
  (a, b, p.dst)

/-! ## Elements (R84, R367, R368) -/

def collElem (red ty x y : Nat) : Except ErrCode Nat :=
  match red with
  | 0 => addElem ty x y
  | 1 => minElem ty x y
  | 2 => maxElem ty x y
  | 3 => .ok (x &&& y)
  | 4 => .ok (x ||| y)
  | _ => .ok (x ^^^ y)

/-- One element's lanes combined; an error leaves none. -/
def collLanes (red ty : Nat) (a b : List Lane) : Option (List Lane) :=
  match allOk (List.zipWith (collElem red ty) (elems ty a) (elems ty b)) with
  | .ok xs => some (ofElems ty xs)
  | .error _ => none

/-- Two rows combined, element by element; a row that is at its end leaves nothing. -/
def combineRows (red ty : Nat) : List (Option Lane) → List (Option Lane) → List (Option Lane)
  | a :: a' :: as, b :: b' :: bs =>
    if ty = 1 then
      match a, a', b, b' with
      | some x, some x', some y, some y' =>
        match collLanes red ty [x, x'] [y, y'] with
        | some ls => some (ls.getD 0 0) :: some (ls.getD 1 0) :: combineRows red ty as bs
        | none => none :: none :: combineRows red ty as bs
      | _, _, _, _ => none :: none :: combineRows red ty as bs
    else oneLane a b :: oneLane a' b' :: combineRows red ty as bs
  | [a], [b] => [oneLane a b]
  | _, _ => []
where
  oneLane (a b : Option Lane) : Option Lane :=
    match a, b with
    | some x, some y => (collLanes red ty [x] [y]).map fun ls => ls.headD 0
    | _, _ => none

/-- A fold of rows from the first. -/
def foldRows (red ty : Nat) : List (List (Option Lane)) → List (Option Lane)
  | [] => []
  | r :: rs => rs.foldl (combineRows red ty) r

/-- Lanes of the bytes read at a source: none where a byte of the lane read ERR or poison. -/
def rowLanes : List EngByte → List (Option Lane)
  | a :: b :: c :: d :: rest =>
    (if [a, b, c, d].all fun x => x.2.isNone then some (BitVec.ofNat 32 (leNat [a.1, b.1, c.1, d.1])) else none) :: rowLanes rest
  | _ => []

/-- Lane pairs of which both hold a value, or neither. -/
def pairRow : List (Option Lane) → List (Option Lane)
  | some a :: some b :: rest => some a :: some b :: pairRow rest
  | _ :: _ :: rest => none :: none :: pairRow rest
  | _ => []

/-- The elements read at a source. -/
def rowOfBytes (wide : Bool) (bs : List EngByte) : List (Option Lane) := if wide then pairRow (rowLanes bs) else rowLanes bs

/-- The identity of a reduction (R370), as an element of a type. -/
def collIdentity (red ty : Nat) : Nat :=
  let n := eltBits ty
  let f := tyFloat ty
  match red with
  | 0 => if isFloatTy ty then f.signed true 0 else 0
  | 1 => if isFloatTy ty then f.infPat else if tySigned ty then 2 ^ (n - 1) - 1 else 2 ^ n - 1
  | 2 => if isFloatTy ty then f.signed true f.infPat else if tySigned ty then 2 ^ (n - 1) else 0
  | 3 => 2 ^ n - 1
  | _ => 0

/-! ## The engine's accesses (R363) -/

/-- The homes of a range, piece by piece, or the code, detail and address of the first breach. -/
def collHomes (s : State) (c : Cmd) (a n : Nat) (write : Bool) : Except (Nat × Nat × Nat) (List (Nat × Nat × PageMode)) :=
  (linePieces (n / 128 + 2) a n).foldl (fun acc (b, k) =>
    match acc with
    | .error e => .error e
    | .ok hs =>
      match engineHome s c classC .g b k write with
      | .error (code, d) => .error (code, d, b)
      | .ok (h, m) => .ok (hs ++ [(h, k, m)])) (.ok [])

/-- Whether some home of a range cannot be reached now from the issuer's die (R361, 19 R325). -/
def State.collFar (s : State) (c : Cmd) (a n : Nat) (write : Bool) : Bool :=
  match collHomes s c a n write with
  | .error _ => false
  | .ok hs => hs.any fun x => s.away (siteDie c.who.core) x.1

/-- What a range reads as: a breach, a wait at a home, a way that is cut, or its bytes. -/
inductive CollRead where
  | bad (code detail addr : Nat)
  | wait (va h n : Nat) (m : PageMode)
  | far
  | bytes (bs : List EngByte)

def collRead (s : State) (c : Cmd) (a n : Nat) : CollRead :=
  match collHomes s c a n false with
  | .error (code, d, b) => .bad code d b
  | .ok hs =>
    if s.collFar c a n false then .far
    else
      match ((linePieces (n / 128 + 2) a n).zip hs).find? fun (_, h, k, m) => s.engineDefers h k m with
      | some ((b, _), h, k, m) => .wait b h k m
      | none => .bytes (hs.flatMap fun (h, k, m) => s.engineBytes h k m)

/-- A collective is frozen by a fault, where it stands. -/
def collFault (c : Coll) (code detail addr : Nat) : Act :=
  (modColl c.id fun x => { x with frozen := true }).andThen (cmdFault c.cmd code detail addr)

/-- A read of the engine waits for a word without a value (09 R154). -/
def collWait (c : Coll) (va h n : Nat) (m : PageMode) : Act :=
  (modColl c.id fun x => { x with waiting := true }).andThen
    (homeLoad (unitOf h) ⟨.coll c.id, c.cmd.who.colour, 0, h, n, m, .load, [], false, c.cmd.cfg, true, .g, va, false⟩)

/-- Bytes written as the engine, a line at a time, at a range whose homes are known. -/
def collWrite (c : Coll) (a : Nat) (bs : List Byte) : Act := .look fun s =>
  match collHomes s c.cmd a bs.length true with
  | .error (code, d, b) => collFault c code d b
  | .ok hs => (hs.foldl (fun ((act, rest) : Act × List Byte) (h, k, m) =>
      (act.andThen (engineWrite c.cmd.who.colour h m (plainBytes (rest.take k))), rest.drop k)) (.quiet, bs)).1

/-- What becomes of something that reaches the engine: it is taken; it stops its collective, and is there still; or it waits. -/
inductive Intake where
  | take (a : Act)
  | stop (a : Act)
  | wait

def Intake.waits : Intake → Bool
  | .wait => true
  | _ => false

/-- Whether a chunk's MARK is known FULL here. -/
def Coll.marked (c : Coll) (chunk : Nat) : Bool := c.full.any fun x => x.1 == chunk

/-- A MARK word to be written (R368, R370, R382): one that is FULL already keeps its value. -/
def State.markGate (s : State) (c : Coll) (chunk : Nat) (v : BitVec 32) : Intake :=
  let a := c.cmd.collPar.mark + 4 * chunk
  match engineHome s c.cmd classC .g a 4 true with
  | .error (code, d) => .stop (collFault c code d a)
  | .ok (h, m) =>
    if s.away (siteDie c.cmd.who.core) h then .wait
    else
      match s.engineRefusal h 4 m with
      | some code =>
        if s.presAt h = .full then .take (modColl c.id fun x => { x with full := (chunk, BitVec.ofNat 32 (s.nat h 4)) :: x.full })
        else .stop (collFault c code 0 a)
      | none => .take ((engineWrite c.cmd.who.colour h m (plainBytes (leBytes 4 v.toNat))).andThen
          (modColl c.id fun x => { x with full := (chunk, v) :: x.full, marks := chunk :: x.marks }))

def collMark (c : Coll) (chunk : Nat) (v : BitVec 32) : Act := .look fun s =>
  match s.markGate c chunk v with
  | .take a => a
  | .stop a => a
  | .wait => .quiet

def markWord (t g : Nat) : BitVec 32 := BitVec.ofNat 32 (2 ^ 31 + t % 128 * 2 ^ 24 + g % 2 ^ 24)

/-- The MARK words of a collective that are FULL at this package. -/
def State.fullMarks (s : State) (c : Coll) : List (Nat × BitVec 32) :=
  (upFrom c.chunks 0).filterMap fun i =>
    match engineHome s c.cmd classC .g (c.cmd.collPar.mark + 4 * i) 4 false with
    | .ok (h, _) => if s.presAt h = .full then some (i, BitVec.ofNat 32 (s.nat h 4)) else none
    | .error _ => none

/-! ## What a start rules on (R366, R370) -/

/-- The GROUP: its count and its IDs. -/
def groupIds (bs : List EngByte) (n : Nat) : List Nat :=
  (upFrom n 0).map fun i => leNat (((bs.drop (2 * i)).take 2).map Prod.fst)

def ascending : List Nat → Bool
  | a :: b :: rest => a < b && ascending (b :: rest)
  | _ => true

/-- The checks of a start that break R366, for a group of n. -/
def collBreach (s : State) (c : Coll) (ids : List Nat) : Bool :=
  let p := c.cmd.collPar
  let n := ids.length
  let (a, b, _) := p.output n 0
  let wo (hs : Except (Nat × Nat × Nat) (List (Nat × Nat × PageMode))) (want : Bool) : Bool :=
    match hs with
    | .ok xs => xs.any fun x => (s.presenceOf x.1 x.2.2 == .wo) == want
    | .error _ => false
  (0 < n && !ids.contains s.fabSelf) || !ascending ids || (p.eop = 1 && 0 < n && p.len % (n * p.esize) ≠ 0) ||
    (p.eop = 3 && 0 < n && n ≤ p.source) || wo (collHomes s c.cmd p.dst (b - a) true) true ||
    wo (collHomes s c.cmd p.mark (4 * ((p.total n + 65535) / 65536)) true) false || meets p.src p.len p.dst (b - a)
where
  /-- Whether two ranges meet. -/
  meets (a n b k : Nat) : Bool := a < b + k && b < a + n && 0 < n && 0 < k

/-- The first breach of translation among a collective's ranges. -/
def collUnmapped (s : State) (c : Coll) (n : Nat) : Option (Nat × Nat × Nat) :=
  let p := c.cmd.collPar
  let (a, b, _) := p.output n 0
  let err (r : Except (Nat × Nat × Nat) (List (Nat × Nat × PageMode))) : Option (Nat × Nat × Nat) :=
    match r with
    | .error e => some e
    | .ok _ => none
  ((if p.eop = 3 && rankIn c.group s.fabSelf ≠ p.source then none else err (collHomes s c.cmd p.src p.len false)).orElse fun _ =>
    err (collHomes s c.cmd p.dst (b - a) true)).orElse fun _ =>
      err (collHomes s c.cmd p.mark (4 * ((p.total n + 65535) / 65536)) true)

/-- The ranges that a start itself reads or writes can be reached: MARK, and without other participants DST and SRC too. -/
def State.startFar (s : State) (c : Coll) (n : Nat) : Bool :=
  let p := c.cmd.collPar
  (n ≠ 0 && s.collFar c.cmd p.mark (4 * c.chunks) true) ||
    (n ≤ 1 && (s.collFar c.cmd p.dst p.len true || (n = 1 && s.collFar c.cmd p.src p.len false)))

/-- The group that a collective names, where it can be read (R366). -/
def State.collGroup (s : State) (c : Coll) : List Nat :=
  if c.group ≠ [] then c.group
  else
    let p := c.cmd.collPar
    match collRead s c.cmd p.group 4 with
    | .bytes nb =>
      let n := leNat (nb.map Prod.fst)
      match (if 4096 < n then .far else collRead s c.cmd (p.group + 4) (2 * n)) with
      | .bytes bs => groupIds bs n
      | _ => []
    | _ => []

/-- N = 0: the identity over L bytes of an all-reduce's DST (R370). -/
def zeroParties (c : Coll) : Act :=
  let p := c.cmd.collPar
  let l := ofElems p.ty (List.replicate (if p.ty = 1 then 1 else 32 / eltBits p.ty) (collIdentity p.red p.ty))
  (Act.when (p.eop = 0) (collWrite c p.dst ((laneBytes ((List.replicate (p.len / p.esize) l).flatten)).take p.len))).andThen
    (modColl c.id fun x => { x with status := some 1 })

/-- N = 1: DST receives SRC bit for bit, errors aside, and every mark is written (R370, R368). -/
def soloParty (c : Coll) (bs : List EngByte) : Act :=
  let p := c.cmd.collPar
  let row := rowOfBytes (p.ty = 1) bs
  let bad := (row.filter Option.isNone).length / (p.esize / 4)
  Act.seq [
    Act.each (row.zip (upFrom row.length 0)) fun (l, i) =>
      match l with
      | some v => collWrite c (p.dst + 4 * i) (leBytes 4 v.toNat)
      | none => .quiet,
    count c.cmd.who.colour 1 bad,
    .look fun s => Act.each (upFrom c.chunks 0) fun i => collMark c i (markWord 0 s.agreedTable.1),
    modColl c.id fun x => { x with status := some 2, lost := x.lost + bad } ]

/-! ## Chunks (R368, R369, R382) -/

/-- The message of a chunk. -/
def Coll.msg (c : Coll) (tree chunk : Nat) : CollMsg :=
  let p := c.cmd.collPar
  ⟨c.cmd.who.colour, p.tag, c.gen, tree, chunk, p.carry, p.red, p.ty, c.group, p.eop, p.len⟩

/-- Whether the DST of the participant of a rank holds bytes of a message's chunk. -/
def chunkHeld (k : CollMsg) (rank : Nat) : Bool := collHolds k.eop k.len k.group.length rank k.chunk

/-- The members below a package, in ascending rank. -/
def membersBelow (t : Tree) (group : List Nat) (p : Nat) : List Nat :=
  sortBy id ((t.below 4096 p).filter group.contains)

/-- The children of a package that carry a member's input. -/
def usedChildren (t : Tree) (group : List Nat) (p : Nat) : List Nat :=
  (t.children p).filter fun k => membersBelow t group k ≠ []

/-- What a vertex passes up: its own input and its children's, combined or side by side in rank order. -/
def vertexRows (t : Tree) (k : CollMsg) (self : Nat) (own : Option (List (Option Lane)))
    (kids : List (Nat × List (List (Option Lane)))) : List (List (Option Lane)) :=
  if k.carry then
    let mine := match own with
      | some r => [(self, r)]
      | none => []
    let theirs := kids.flatMap fun (p, rows) => (membersBelow t k.group p).zip rows
    (sortBy Prod.fst (mine ++ theirs)).map Prod.snd
  else [foldRows k.red k.ty (own.toList ++ kids.map fun (_, rows) => rows.headD [])]

/-- The result at the root: the rank-order sum of unreduced inputs, or the inputs of a gather or broadcast joined. -/
def rootRow (k : CollMsg) (rows : List (List (Option Lane))) : List (Option Lane) :=
  if k.carry then (if isFloatTy k.ty then foldRows k.red k.ty rows else rows.flatten) else rows.headD []

/-- The result of a chunk at a vertex: it goes on down the tree; a member writes its part and acknowledges. An element that is
an error is not written; it is counted here and in the error sink. -/
def collResult (id : Nat) (k : CollMsg) (row : List (Option Lane)) : Act := .look fun s =>
  match s.coll? id with
  | none => .quiet
  | some c =>
    let p := c.cmd.collPar
    let n := c.group.length
    let rank := rankIn c.group s.fabSelf
    let (lo, hi, dst) := p.output n rank
    let part := (row.zip (upFrom row.length 0)).filter fun (_, i) => lo ≤ 65536 * k.chunk + 4 * i && 65536 * k.chunk + 4 * i < hi
    let bad := (part.filter fun x => x.1.isNone).length / (p.esize / 4)
    let root := ((s.fabTrees[k.tree]?).map Tree.root) == some s.fabSelf
    Act.seq [
      fabSend (.down k row),
      Act.each part fun (l, i) =>
        match l with
        | some v => collWrite c (dst + (65536 * k.chunk + 4 * i - lo)) (leBytes 4 v.toNat)
        | none => .quiet,
      count c.cmd.who.colour 1 bad,
      modColl id fun x => { x with
        wrote := k.chunk :: x.wrote, lost := x.lost + bad
        acks := if root then (k.chunk, s.fabSelf) :: x.acks else x.acks },
      .when (!root && p.holds n rank k.chunk) (fabSend (.dstAck k s.m.fab.pkg)) ]

/-- A collective that has ended here. -/
def Coll.over_ (c : Coll) : Bool := c.finished || c.status.isSome

/-- The result of a chunk at a participant: not before its input has gone up, once, and at homes that it can reach. -/
def State.downGate (s : State) (c : Coll) (k : CollMsg) (row : List (Option Lane)) : Intake :=
  let (lo, hi, dst) := c.cmd.collPar.output c.group.length (rankIn c.group s.fabSelf)
  let a := max lo (65536 * k.chunk)
  let n := min hi (65536 * k.chunk + 4 * row.length) - a
  if c.over_ || c.wrote.contains k.chunk then .take .quiet
  else if c.frozen || !c.sent.contains k.chunk then .wait
  else
    match collHomes s c.cmd (dst + (a - lo)) n true with
    | .error (code, d, b) => .stop (collFault c code d b)
    | .ok _ => if s.collFar c.cmd (dst + (a - lo)) n true then .wait else .take (collResult c.id k row)

/-- The key of a message. -/
def CollIn.key : CollIn → Colour × Lane
  | .marks k _ => (k.colour, k.tag)
  | .up k _ _ => (k.colour, k.tag)
  | .down k _ => (k.colour, k.tag)
  | .dstAck k _ => (k.colour, k.tag)
  | .commit k => (k.colour, k.tag)
  | .abort c tag => (c, tag)

/-- A message waits for its collective in the colour's spoil (R363). -/
def collEarly (m : CollIn) : Act := (Act.fab fun f => { f with early := f.early ++ [m] }).andThen (spoilAdd m.key.1 256)

/-- Chunk `chunk` on tree `tree` goes up as far as it can: once every child that has an input has sent it, this package's own is
read, and the whole is passed to the parent, or at the root is the result. -/
def collUp (id chunk tree : Nat) : Act := .look fun s =>
  match s.coll? id, s.fabTrees[tree]? with
  | some c, some t =>
    if c.frozen || c.waiting || c.finished || c.status.isSome || c.sent.contains chunk then .quiet
    else
      let p := c.cmd.collPar
      let kids := (usedChildren t c.group s.fabSelf).map fun k =>
        (k, (c.partials.find? fun x => x.1 == chunk && x.2.1 == k).map fun x => x.2.2)
      if kids.any fun k => k.2.isNone then .quiet
      else
        let (a, len) := p.input c.group.length (rankIn c.group s.fabSelf) chunk
        match collRead s c.cmd a len with
        | .bad code d b => collFault c code d b
        | .wait b h n m => collWait c b h n m
        | .far => .quiet
        | .bytes bs =>
          let k := c.msg tree chunk
          let rows := vertexRows t k s.fabSelf (some (rowOfBytes (p.ty = 1) bs)) (kids.map fun x => (x.1, x.2.getD []))
          (modColl id fun x => { x with sent := chunk :: x.sent }).andThen
            (if t.root = s.fabSelf then atRoot id k (rootRow k rows) else fabSend (.up k rows))
  | _, _ => .quiet
where
  /-- The result at the root, as it comes to the others. -/
  atRoot (id : Nat) (k : CollMsg) (row : List (Option Lane)) : Act := .look fun s =>
    match s.coll? id with
    | none => .quiet
    | some c =>
      match s.downGate c k row with
      | .take a => a
      | .stop a => a.andThen (collEarly (.down k row))
      | .wait => collEarly (.down k row)

/-- Every chunk dealt goes up as far as it can. -/
def collProgress (id : Nat) : Act := .look fun s =>
  match s.coll? id with
  | some c => Act.each c.deal fun (chunk, tree) => collUp id chunk tree
  | none => .quiet

/-! ### The exchange of marks (R369, R382) -/

/-- The reports of two subtrees together. -/
def joinReports (a b : MarkReport) : MarkReport where
  child := a.child
  marks := a.marks ++ b.marks.filter fun x => !a.marks.any fun y => y.1 == x.1
  again := a.again || b.again
  redone := max a.redone b.redone

/-- Whether a message is of a collective's key. -/
def Coll.of (c : Coll) (k : CollMsg) : Bool := c.cmd.who.colour == k.colour && c.tag == k.tag

/-- A collective that takes part in the exchange of its generation: its start has passed, or it has completed here, and the others may still run. -/
def Coll.takesPart (c : Coll) : Bool := c.status.isNone && (c.started || c.finished)

/-- The whole of the marks has come: a chunk marked elsewhere is marked here with the same value; the rest are dealt in ascending order over the
trees. Where a participant has dealt chunks before, those dealt now are redone (log 143). -/
def collDeal (id : Nat) (r : MarkReport) : Act := .look fun s =>
  match s.coll? id with
  | none => .quiet
  | some c =>
    if c.finished then modColl id fun x => { x with dealt := true, redone := max r.redone x.redone }
    else
      let own := s.fullMarks c
      let adopt := r.marks.filter fun m => m.1 < c.chunks && !own.any fun x => x.1 == m.1
      let todo := (upFrom c.chunks 0).filter fun i => !(own ++ adopt).any fun x => x.1 == i
      let trees := s.fabTrees.length
      Act.seq [
        modColl id fun x => { x with full := own },
        Act.each adopt fun (i, v) => collMark c i v,
        modColl id fun x => { x with
          dealt := true, begun := true, deal := (todo.zip (upFrom todo.length 0)).map fun (i, j) => (i, j % trees)
          redone := r.redone + if r.again then todo.length else 0 },
        collProgress id ]

/-- A participant's report goes up tree 0 once its children's have come, with its own marks, which can no longer change under the exchange; at the root
it is the whole, and goes down. -/
def collReport (id : Nat) : Act := .look fun s =>
  match s.coll? id, s.fabTrees[0]? with
  | some c, some t =>
    let kids := (usedChildren t c.group s.fabSelf).map fun p => (c.reports.find? fun x => x.1 == p).map Prod.snd
    if c.reported || !c.takesPart || kids.any Option.isNone then .quiet
    else
      let own : MarkReport := ⟨some s.m.fab.pkg, if c.finished then c.full else s.fullMarks c, c.begun, c.redone⟩
      let all := (kids.filterMap id').foldl joinReports own
      (modColl id fun x => { x with reported := true }).andThen
        (if t.root = s.fabSelf then (fabSend (.marks (c.msg 0 0) { all with child := none })).andThen (collDeal id all)
         else fabSend (.marks (c.msg 0 0) all))
  | _, _ => .quiet
where
  id' (x : Option MarkReport) : Option MarkReport := x

/-! ### Start (R366, R369, R370) -/

/-- `start`: the GROUP is read, the participants are ruled on, the checks are made, and the exchange of marks begins. -/
def collStart (id : Nat) : Act := .look fun s =>
  match s.coll? id with
  | none => .quiet
  | some c₀ =>
    let p := c₀.cmd.collPar
    match collRead s c₀.cmd p.group 4 with
    | .bad code d a => collFault c₀ code d a
    | .wait b h k m => collWait c₀ b h k m
    | .far => .quiet
    | .bytes nb =>
      let n := leNat (nb.map Prod.fst)
      if 4096 < n then collFault c₀ Code.collParam 0 p.group
      else
        match collRead s c₀.cmd (p.group + 4) (2 * n) with
        | .bad code d a => collFault c₀ code d a
        | .wait b h k m => collWait c₀ b h k m
        | .far => .quiet
        | .bytes bs =>
          let ids := groupIds bs n
          let c := { c₀ with group := ids, chunks := (p.total n + 65535) / 65536 }
          let known := modColl id fun x => { x with group := ids, chunks := c.chunks }
          if collBreach s c ids then known.andThen (collFault c₀ Code.collParam 0 0)
          else if s.startFar c n then known
          else if n = 0 then
            match (if p.eop = 0 then collHomes s c.cmd p.dst p.len true else .ok []) with
            | .error (code, d, a) => known.andThen (collFault c₀ code d a)
            | .ok _ => zeroParties c
          else if p.len = 0 then modColl id fun x => { x with group := ids, status := some 0 }
          else
            match collUnmapped s c n with
            | some (code, d, a) => known.andThen (collFault c₀ code d a)
            | none =>
              if n = 1 then
                match collRead s c.cmd p.src p.len with
                | .bytes bs => known.andThen (soloParty c bs)
                | .wait b h k m => collWait c b h k m
                | .bad code d a => known.andThen (collFault c code d a)
                | .far => known
              else if !ids.all fun g => s.fabComp.contains g then
                known.andThen (collFault c₀ (if c.tried then Code.collPart else Code.collCount) 0 0)
              else (modColl id fun x => { x with
                group := ids, chunks := c.chunks, started := true, tried := true, reported := false, dealt := false, gen := s.fabGen, reports := []
                deal := [], sent := [], wrote := [], partials := [], acks := [] }).andThen (collReport id)

/-! ## Messages (R363, R368, R369, R372) -/

/-- The live collective of a key. -/
def State.collKey (s : State) (c : Colour) (tag : Lane) : Option Coll :=
  s.m.fab.colls.find? fun x => x.cmd.who.colour == c && x.tag == tag && !x.finished

/-- The collective in which a chunk is dealt, the latest of its key. -/
def State.collHas (s : State) (k : CollMsg) : Option Coll :=
  (s.m.fab.colls.filter fun c => c.of k && c.gen == k.gen && c.dealt && c.deal.contains (k.chunk, k.tree)).getLast?

/-- The messages of a key that wait are gone with its collective. -/
def dropEarly (p : CollIn → Bool) (c : Colour) : Act := .look fun s =>
  (Act.fab fun f => { f with early := f.early.filter fun m => !p m }).andThen (Act.each (s.m.fab.early.filter p) fun _ => spoilSub c 256)

/-- A collective ends with status ABORTED here, and what waits for it goes. -/
def collAbortHere (c : Coll) : Act :=
  (modColl c.id fun x => if x.status.isNone then { x with status := some 3, frozen := false } else x).andThen
    (dropEarly (fun m => m.key == (c.cmd.who.colour, c.tag)) c.cmd.who.colour)

/-- A package that only relays (R368): it passes its children's inputs up once all have come. -/
def relayUp (k : CollMsg) (pkg : Nat) (rows : List (List (Option Lane))) : Act := .look fun s =>
  match s.fabTrees[k.tree]? with
  | none => .quiet
  | some t =>
    let have_ := (s.m.fab.relay.filter fun x => x.1 == k && x.2.1 != pkg) ++ [(k, pkg, rows)]
    let kids := usedChildren t k.group s.fabSelf
    if kids.all fun p => have_.any fun x => x.2.1 == p then
      let parts := kids.map fun p => (p, ((have_.find? fun x => x.2.1 == p).map fun x => x.2.2).getD [])
      let out := vertexRows t k s.fabSelf none parts
      (Act.fab fun f => { f with relay := f.relay.filter fun x => x.1 != k }).andThen
        (if t.root = s.fabSelf then fabSend (.down k (rootRow k out)) else fabSend (.up k out))
    else .fab fun f => { f with relay := (f.relay.filter fun x => !(x.1 == k && x.2.1 == pkg)) ++ [(k, pkg, rows)] }

/-- So it does with its children's reports of marks, the first of each; the root sends the whole down. -/
def relayReport (k : CollMsg) (pkg : Nat) (r : MarkReport) : Act := .look fun s =>
  match s.fabTrees[0]? with
  | none => .quiet
  | some t =>
    let have_ := s.m.fab.relayMarks ++ [(k, pkg, r)]
    let firsts := (usedChildren t k.group s.fabSelf).map fun p => have_.find? fun x => x.1 == k && x.2.1 == p
    match (if firsts.any Option.isNone then [] else firsts.filterMap id) with
    | [] => .fab fun f => { f with relayMarks := have_ }
    | x :: xs =>
      let all := xs.foldl (fun a y => joinReports a y.2.2) x.2.2
      (Act.fab fun f => { f with relayMarks := (x :: xs).foldl List.erase have_ }).andThen
        (fabSend (.marks k { all with child := if t.root = s.fabSelf then none else some s.m.fab.pkg }))

/-- A commit at a participant: its mark is written behind its DST. -/
def State.commitGate (s : State) (c : Coll) (k : CollMsg) : Intake :=
  let rank := rankIn c.group s.fabSelf
  if c.over_ then .take .quiet
  else if c.frozen || (chunkHeld k rank && !c.wrote.contains k.chunk) then .wait
  else if c.marked k.chunk then .take (fabSend (.commit k))
  else
    match s.markGate c k.chunk (markWord k.tree k.gen) with
    | .take a => .take ((fabSend (.commit k)).andThen a)
    | g => g

/-- What becomes of a message of the agreed generation, at a participant or at a package that only relays. -/
def State.collGate (s : State) (m : CollIn) : Intake :=
  match m with
  | .abort colour tag =>
    match s.collKey colour tag with
    | some c => if c.admitted then .take (collAbortHere c) else .wait
    | none => if s.m.fab.colls.any fun c => c.cmd.who.colour == colour && c.tag == tag then .take .quiet else .wait
  | .marks k r =>
    if !k.group.contains s.fabSelf then
      match r.child with
      | some p => .take (relayReport k p.toNat r)
      | none => .take (fabSend (.marks k r))
    else
      match r.child with
      | some p =>
        match s.m.fab.colls.find? fun c => c.of k && c.gen == k.gen && c.takesPart && !c.reported && !c.reports.any fun x => x.1 == p.toNat with
        | some c => .take ((modColl c.id fun x => { x with reports := x.reports ++ [(p.toNat, r)] }).andThen (collReport c.id))
        | none => .wait
      | none =>
        match s.m.fab.colls.find? fun c => c.of k && c.gen == k.gen && c.takesPart && c.reported && !c.dealt with
        | some c => if c.frozen || (!c.finished && s.startFar c c.group.length) then .wait else .take ((fabSend (.marks k r)).andThen (collDeal c.id r))
        | none => .wait
  | .up k p data =>
    if !k.group.contains s.fabSelf then .take (relayUp k p.toNat data)
    else
      match s.collHas k with
      | some c => if c.over_ then .take .quiet else .take ((modColl c.id fun x => { x with
          partials := x.partials ++ [(k.chunk, p.toNat, data)] }).andThen (collUp c.id k.chunk k.tree))
      | none => .wait
  | .down k row =>
    if !k.group.contains s.fabSelf then .take (fabSend (.down k row))
    else
      match s.collHas k with
      | some c => s.downGate c k row
      | none => .wait
  | .dstAck k p =>
    if (s.fabTrees[k.tree]?.map Tree.root) ≠ some s.fabSelf then .take (fabSend (.dstAck k p))
    else if !k.group.contains s.fabSelf then .take (.fab fun f => { f with relayAcks := (k, p.toNat) :: f.relayAcks })
    else
      match s.collHas k with
      | some c => .take (modColl c.id fun x => { x with acks := (k.chunk, p.toNat) :: x.acks })
      | none => .wait
  | .commit k =>
    if !k.group.contains s.fabSelf then .take (fabSend (.commit k))
    else
      match s.collHas k with
      | some c => s.commitGate c k
      | none => .wait

/-- The generation that a message was sent under; an abort has none. -/
def CollIn.gen? : CollIn → Option Nat
  | .marks k _ => some k.gen
  | .up k _ _ => some k.gen
  | .down k _ => some k.gen
  | .dstAck k _ => some k.gen
  | .commit k => some k.gen
  | .abort _ _ => none

/-- A message of an earlier generation is discarded, one of a later generation waits until that is agreed here (R369). -/
def State.intake (s : State) (m : CollIn) : Intake :=
  match m.gen? with
  | none => s.collGate m
  | some g => if g < s.fabGen then .take .quiet else if s.fabGen < g then .wait else s.collGate m

/-- What waits for its collective in the spoil is taken up where it can be (R363); n bounds the messages. -/
def takeEarly : Nat → Act
  | 0 => .quiet
  | n + 1 => .look fun s =>
    match s.m.fab.early.find? fun m => !(s.intake m).waits with
    | none => .quiet
    | some m =>
      match s.intake m with
      | .take a => Act.seq [.fab fun f => { f with early := f.early.erase m }, spoilSub m.key.1 256, a, takeEarly n]
      | .stop a => a.andThen (takeEarly n)
      | .wait => .quiet

/-- After what may let waiting messages go on. -/
def retryEarly : Act := .look fun s => takeEarly (s.m.fab.early.length + s.m.fab.colls.length)

/-- A message reaches the engine. -/
def collIn (m : CollIn) : Act := .look fun s =>
  (match s.intake m with
    | .take a => a
    | .stop a => a.andThen (collEarly m)
    | .wait => collEarly m).andThen retryEarly

/-- R369: a report of marks reaches this package on tree 0. -/
def execCollMarkExchange (k : CollMsg) (report : MarkReport) (s : State) : Host.Outcome State Fault Refusal :=
  .next ((collIn (.marks k report)).run s)

/-- R368: what child `pkg` passes up for a chunk. -/
def execCollChunkUp (k : CollMsg) (pkg : BitVec 12) (data : List (List (Option Lane))) (s : State) :
    Host.Outcome State Fault Refusal :=
  .next ((collIn (.up k pkg data)).run s)

/-- R368: a chunk's result from the root. -/
def execCollChunkDown (k : CollMsg) (data : List (Option Lane)) (s : State) : Host.Outcome State Fault Refusal :=
  .next ((collIn (.down k data)).run s)

/-- R368: participant `pkg` has written its part of a chunk: noted at the root, passed on elsewhere. -/
def execCollDstAck (k : CollMsg) (pkg : BitVec 12) (s : State) : Host.Outcome State Fault Refusal :=
  .next ((collIn (.dstAck k pkg)).run s)

/-- At the root of its tree, whether every participant that holds bytes of a chunk has acknowledged. -/
def State.allAcked (s : State) (k : CollMsg) : Bool :=
  (upFrom k.group.length 0).all fun r => !chunkHeld k r ||
    (let g := k.group.getD r 0
     if k.group.contains s.fabSelf then (s.collHas k).any fun c => c.wrote.contains k.chunk && c.acks.contains (k.chunk, g)
     else s.m.fab.relayAcks.contains (k, g))

/-- R368: the commit of a chunk: the root sends it once every participant that holds bytes of the chunk has acknowledged, whether it is one
itself or not; each participant then writes its mark. -/
def execCollChunkCommit (k : CollMsg) (s : State) : Host.Outcome State Fault Refusal :=
  .next ((Act.look fun s =>
    if (s.fabTrees[k.tree]?.map Tree.root) ≠ some s.fabSelf then collIn (.commit k)
    else if k.gen ≠ s.fabGen || !s.allAcked k then .quiet
    else if !k.group.contains s.fabSelf then
      (Act.fab fun f => { f with relayAcks := f.relayAcks.filter fun x => x.1 != k }).andThen (fabSend (.commit k))
    else
      match s.collHas k with
      | some c => if c.marked k.chunk || c.frozen then .quiet else
        (match s.commitGate c k with
        | .take a => a
        | .stop a => a
        | .wait => .quiet)
      | none => .quiet).run s)


/-! ## Admission, the end, aborts (R363, R371, R372) -/

/-- A command reaches the collective engine. -/
def collEnqueue (c : Cmd) : Act := .look fun s =>
  .fab fun f => { f with
    colls := f.colls ++ [{
      id := f.nextColl, cmd := c, vdev := s.vdevKey c.who.colour, tag := c.collPar.tag, admitted := false, started := false
      reported := false, dealt := false, tried := false, begun := false, frozen := false, finished := false, waiting := false, gen := 0
      group := [], chunks := 0, reports := [], full := [], marks := [], deal := [], sent := [], wrote := [], partials := [], acks := [], redone := 0, lost := 0
      status := none }]
    nextColl := f.nextColl + 1 }

/-- The next collective to admit: round-robin over the virtual devices, each one's in the order of issue. -/
def State.collNext (s : State) : Option Coll :=
  let waits := s.m.fab.colls.filter fun c => !c.admitted && !c.finished && c.status.isNone
  (upFrom 33 0).findSome? fun i => waits.find? fun c => c.vdev == (s.m.fab.rrColl + i) % 33

/-- R363: a waiting collective is admitted where fewer than 16 run, and started. -/
def execCollAdmit (s : State) : Host.Outcome State Fault Refusal :=
  .next ((Act.look fun s =>
    if 16 ≤ (s.m.fab.colls.filter fun c => c.admitted && !c.finished).length then .quiet
    else
      match s.collNext with
      | none => .quiet
      | some c => Act.seq [
          .fab fun f => { f with rrColl := (c.vdev + 1) % 33 },
          modColl c.id fun x => { x with admitted := true },
          collStart c.id,
          retryEarly ]).run s)

def collUnit (id : Nat) : Nat := (Party.coll id).unit

/-- Whether a completion may be presented: not while its issuer's configuration is saved or being saved (R372). -/
def State.presents (s : State) (cfg : Nat) : Bool :=
  match tget? s.m.pkg.confs cfg with
  | some f => !([CfgPhase.settling, .saving, .saved, .restoring, .restored, .wedging].contains f.phase)
  | none => true

/-- R371: every mark of the package is written, or a ruling has ended the collective: its completion goes to the reply
target. -/
def execCollComplete (s : State) : Host.Outcome State Fault Refusal :=
  .next ((Act.look fun s =>
    match s.coll? s.m.at_.id with
    | none => .quiet
    | some c =>
      let all := c.begun && (upFrom c.chunks 0).all c.marked
      if c.finished || (c.frozen && c.status.isNone) || !(c.status.isSome || all) || !s.presents c.cmd.cfg then .quiet
      else Act.seq [
        modColl c.id fun x => { x with finished := true },
        cmdDone c.cmd classC,
        cmdReply (collUnit c.id) c.cmd [BitVec.ofNat 32 (c.status.getD 0), BitVec.ofNat 32 c.redone,
          BitVec.ofNat 32 s.agreedTable.1, BitVec.ofNat 32 c.lost] ]).run s)

/-- An abort from this package: it ends here and an abort goes to every participant, whether or not a start has passed. -/
def collAbort (c : Coll) : Act := .look fun s =>
  (collAbortHere c).andThen (fabSend (.abort c.cmd.who.colour c.tag (s.collGroup c)))

/-- A frozen collective goes on: where its start has passed from where it stood, else with a start. -/
def collResume (c : Coll) : Act := Act.seq [
  modColl c.id fun y => { y with frozen := false },
  Act.when c.admitted (if c.started then collProgress c.id else collStart c.id),
  retryEarly ]

/-- A forced teardown aborts its configuration's collectives (R372). -/
def collAbortConf (cfg : Nat) : Act := .look fun s =>
  Act.each (s.m.fab.colls.filter fun c => c.cmd.cfg == cfg && !c.finished) collAbort

/-- R372: an abort ends the collective of its key here. -/
def execCollAbortMessage (colour : Colour) (tag : BitVec 32) (s : State) : Host.Outcome State Fault Refusal :=
  .next ((collIn (.abort colour tag)).run s)

/-! ## Reports (R373 to R375) -/

/-- `lnkr`: an entry of the agreed table. -/
def lnkrLanes (s : State) (v : Nat) : List Lane :=
  let (g, t) := s.agreedTable
  let p := if bits v 15 1 = 1 then s.fabSelf else bits v 16 12
  let i := bits v 0 6
  [entryOfPkg t p i, BitVec.ofNat 32 g, if (edgeAt t p i).isSome then 1 else 0]

/-- `trgen`: this package's place in a tree. -/
def trgenLanes (s : State) (i : Nat) : List Lane :=
  let ts := s.fabTrees
  let g := BitVec.ofNat 32 s.agreedTable.1
  match ts[i]? with
  | none => [BitVec.ofNat 32 ts.length, 0, 0, g]
  | some t =>
    let place := match t.parent? s.fabSelf with
      | some (p, port) => p * 2 ^ 16 + port
      | none => 2 ^ 31 + 0x1F
    [BitVec.ofNat 32 ts.length, BitVec.ofNat 32 place, BitVec.ofNat 32 (t.children s.fabSelf).length, g]

/-- `collab`: the collective of a key, the latest where several have ended. -/
def collabLanes (s : State) (c : Colour) (tag : Lane) : List Lane :=
  match (s.collKey c tag).orElse fun _ => (s.m.fab.colls.filter fun x => x.cmd.who.colour == c && x.tag == tag).getLast? with
  | none => [0, 0, 0]
  | some x =>
    let st : Lane := if x.finished || x.status.isSome then 3 else if x.frozen then 2 else 1
    [st, BitVec.ofNat 32 x.marks.length, BitVec.ofNat 32 x.deal.length]

/-- A command of the fabric reaches its unit. -/
def fabCommand (c : Cmd) : Act :=
  match c.kind with
  | .lnkr ps => reply fun s => lnkrLanes s (param ps 0 0)
  | .trgen ps => reply fun s => trgenLanes s (param ps 0 0 % 16)
  | .collab clear ps =>
    (Act.when clear (.look fun s =>
      match s.collKey c.who.colour (BitVec.ofNat 32 (param ps 0 0)) with
      | some x => collAbort x
      | none => .quiet)).andThen (reply fun s => collabLanes s c.who.colour (BitVec.ofNat 32 (param ps 0 0)))
  | _ => collEnqueue c
where
  reply (f : State → List Lane) : Act := .look fun s => (cmdDone c classC).andThen (cmdReply 92000 c (f s))

/-- The image's DET bit of a configuration (15 R251). -/
def State.confDet (s : State) (cfg : Nat) : Bool := ((tget? s.m.pkg.confs cfg).map ConfState.det).getD false

/-- A `coll` form: the breaches that need no home are COLL_PARAM at firing (R366). -/
def collAt (eop : Nat) (f : FormX) : Act :=
  xcmd 0x1B0 f 6 fun s x ps =>
    let ty := f.flags.toNat % 32
    let esize := if ty = 1 then 8 else 4
    if paramAddr .g ps 2 % 4 ≠ 0 || paramAddr .g ps 3 % 4 ≠ 0 || param ps 4 0 % esize ≠ 0 || bits (param ps 5 1) 12 20 ≠ 0 then
      .error Code.collParam
    else .ok (.coll eop (f.var.toNat % 8) ty (f.flags.getLsbD 5 || s.confDet x.a.cfg) ps)

/-- R367. -/
def execCollAllReduce (f : FormX) (s : State) : Host.Outcome State Fault Refusal := .next ((collAt 0 f).run s)
/-- R367. -/
def execCollReduceScatter (f : FormX) (s : State) : Host.Outcome State Fault Refusal := .next ((collAt 1 f).run s)
/-- R367. -/
def execCollAllGather (f : FormX) (s : State) : Host.Outcome State Fault Refusal := .next ((collAt 2 f).run s)
/-- R367. -/
def execCollBroadcast (f : FormX) (s : State) : Host.Outcome State Fault Refusal := .next ((collAt 3 f).run s)

/-- R373: an entry of the agreed table; LNK_PARAM. -/
def execLnkr (f : FormX) (s : State) : Host.Outcome State Fault Refusal :=
  .next ((xcmd 0x1B1 f 1 fun _ _ ps =>
    let v := param ps 0 0
    if 33 < bits v 0 6 || bits v 6 9 ≠ 0 || bits v 28 4 ≠ 0 then .error Code.lnkParam else .ok (.lnkr ps)).run s)

/-- R374: a tree's report; LNK_PARAM. -/
def execTrgen (f : FormX) (s : State) : Host.Outcome State Fault Refusal :=
  .next ((xcmd 0x1B2 f 1 fun _ _ ps => if bits (param ps 0 0) 4 28 ≠ 0 then .error Code.lnkParam else .ok (.trgen ps)).run s)

/-- R375: a collective's report, or its abort. -/
def execCollab (f : FormX) (s : State) : Host.Outcome State Fault Refusal :=
  .next ((xcmd 0x1B3 f 1 fun _ _ ps => .ok (.collab (f.var.getLsbD 0) ps)).run s)

/-! ## Fabric barriers (R376) -/

def fbKey (idx : Nat) : Nat := barKey 4 0 idx

/-- An entry recounted from its units. -/
def BarState.recount (b : BarState) : BarState :=
  { b with
    enr := b.units.length
    arr := b.marks.length
    pnd := (b.units.filter fun u => !b.marks.contains u).length }

/-- The name here of a barrier unit of another package: its cores are numbered from 2^20 times one more than its ID. -/
def pkgUnit (pkg : BitVec 12) (u : Nat × Nat × Nat) : Nat × Nat × Nat := (u.1 + 2 ^ 20 * (pkg.toNat + 1), u.2)

/-- An arrival held for a unit. -/
def heldArrival (idx : Nat) (c : Colour) (u : Nat × Nat × Nat) : BarEv :=
  ⟨⟨u.1, u.2.1, u.2.2, 0, 0, c, 0⟩, 4, idx, .arrive, mkTok c .data 0 [], none⟩

/-- The figures of the units that a tag names, 0 this package or one more than another's ID, by their names at home. -/
def BarState.figure (b : BarState) (tag idx : Nat) : FbFigure :=
  let mine (u : Nat × Nat × Nat) : Bool := u.1 / 2 ^ 20 == tag
  let home (u : Nat × Nat × Nat) : Nat × Nat × Nat := (u.1 % 2 ^ 20, u.2)
  ⟨idx, b.st, b.colour, b.exp, b.gen, (b.units.filter mine).map home, (b.marks.filter mine).map home,
    (b.last.filter fun x => mine x.1).map (fun x => (home x.1, x.2)), (b.broke.filter mine).map home,
    ((b.again.map fun e => e.who.unit).filter mine).map home⟩

/-- An entry with the figures of units, by the names that `name` gives them, and none else. -/
def barOf (f : FbFigure) (name : Nat × Nat × Nat → Nat × Nat × Nat) : BarState :=
  { BarState.free with
    st := f.st, colour := f.colour, exp := f.exp, gen := f.gen, units := f.units.map name, marks := f.marks.map name
    last := f.last.map fun x => (name x.1, x.2), broke := f.broke.map name, again := f.again.map fun u => heldArrival f.idx f.colour (name u) }

/-- The generation has completed: the first arrival held of each unit counts in the next. -/
def BarState.renewed (b : BarState) : BarState :=
  let (firsts, rest) := firstOfEach b.again
  firsts.foldl (fun x y => x.arrived y.who.unit) { b with marks := [], again := rest }

/-- Two packages' figures of an entry together: ST, COL, EXP and GEN of the later generation, to which the other's units pass on (log 144). -/
def BarState.merge (a b : BarState) : BarState :=
  let later (x y : BarState) : Bool := y.st = 0 || (x.st ≠ 0 && 0 < (x.gen - y.gen).toNat && (x.gen - y.gen).toNat < 32)
  let (x, y) := if later a b then (a, if b.st = 0 then b else { b with gen := a.gen }.renewed)
    else if later b a then (b, if a.st = 0 then a else { a with gen := b.gen }.renewed) else (a, b)
  { x with
    units := x.units ++ y.units, marks := x.marks ++ y.marks, last := x.last ++ y.last, broke := x.broke ++ y.broke
    again := x.again ++ y.again, waiters := a.waiters ++ b.waiters }.recount

/-- The other packages of the component. -/
def State.fabOthers (s : State) : List (BitVec 12) := (s.fabComp.filter (· ≠ s.fabSelf)).map (BitVec.ofNat 12)

/-- The root tells every package whose figures have changed. -/
def fbTell (idx : Nat) (b : BarState) : Act := .look fun s =>
  let a := s.barrier (fbKey idx)
  Act.each s.fabOthers fun p =>
    .when (a.figure (p.toNat + 1) idx ≠ b.figure (p.toNat + 1) idx) (fbSend p (.entry (a.figure (p.toNat + 1) idx)))

/-- An event performed at the root. -/
def fbAtRoot (e : BarEv) : Act := .look fun s => Act.seq [
  (match e.who.remote with
    | some (p, _) => fbSend p (.took e.idx)
    | none => .quiet),
  barPerform (fbKey e.idx) e,
  fbTell e.idx (s.barrier (fbKey e.idx)) ]

/-- Whether this package is the root, and has every package's figures of the agreed generation. -/
def State.fbReady (s : State) : Bool :=
  s.fabRoot = s.fabSelf && s.fabOthers.all fun p => s.m.fab.figures.contains p.toNat

/-- An event of this package's own unit: performed at the root, or on its way there until the root says that it has taken it. -/
def fbOwn (e : BarEv) : Act := .look fun s =>
  if s.fbReady then fbAtRoot e
  else (Act.fab fun f => { f with fbPending := f.fbPending ++ [e] }).andThen
    (.when (s.fabRoot ≠ s.fabSelf) (fbSend s.m.fab.pkg (.event (e.fbEvent e.who.core))))

/-- R213, R376: message k, a barrier event at the home of its entry; an `.fb` event goes to the root's. -/
def execBarrierEvent (s : State) : Host.Outcome State Fault Refusal :=
  .next ((Act.look fun s =>
    match s.m.msg? s.m.at_.k with
    | some msg =>
      match msg.body with
      | .bar e => (takeMsg s.m.at_.k).andThen (if e.scope ≠ 4 then barPerform (barKey e.scope e.who.core e.idx) e else fbOwn e)
      | _ => .quiet
    | none => .quiet).run s)

/-- A forwarded event as the root performs it: its unit is one of another package. -/
def fbBar (pkg : BitVec 12) (e : FbEvent) : BarEv :=
  ⟨⟨(pkgUnit pkg (e.core, 0, 0)).1, e.frame, e.uid, e.wave, e.slot, e.colour, e.run⟩, 4, e.idx, e.op, mkTok e.colour .data e.seq [], none⟩

/-- The unit of an event by another name. -/
def BarEv.named (e : BarEv) (g : Nat × Nat × Nat → Nat × Nat × Nat) : BarEv :=
  let (c, f, u) := g e.who.unit
  { e with who := { e.who with core := c, frame := f, uid := u } }

/-- The units of an entry by other names. -/
def BarState.named (b : BarState) (g : Nat × Nat × Nat → Nat × Nat × Nat) : BarState :=
  { b with
    units := b.units.map g, marks := b.marks.map g, last := b.last.map fun x => (g x.1, x.2), broke := b.broke.map g
    again := b.again.map (·.named g), waiters := b.waiters.map (·.named g) }

/-- A package's units have other names since a round: so they have at the root. -/
def fbMoved (pkg : BitVec 12) (us : List ((Nat × Nat × Nat) × (Nat × Nat × Nat))) : Act :=
  let name (u : Nat × Nat × Nat) : Nat × Nat × Nat :=
    ((us.find? fun x => pkgUnit pkg x.1 == u).map fun x => pkgUnit pkg x.2).getD u
  Act.each (upFrom 16 0) fun idx => .look fun s => .when ((tget? s.m.pkg.bars (fbKey idx)).isSome)
    (putBar (fbKey idx) ((s.barrier (fbKey idx)).named name))

/-- A message for this package. -/
def fbHere (e : FbMsg) : Act := .look fun s =>
  match e.body with
  | .took idx =>
    match s.m.fab.fbPending.find? fun y => y.idx == idx with
    | none => .quiet
    | some y => (Act.fab fun f => { f with fbPending := f.fbPending.erase y }).andThen (match y.op with
      | .wait _ => putBar (fbKey idx) { s.barrier (fbKey idx) with waiters := (s.barrier (fbKey idx)).waiters ++ [y] }
      | _ => .quiet)
  | .answer idx core frame uid g =>
    let b := s.barrier (fbKey idx)
    match b.waiters.find? fun y => y.who.unit == (core, frame, uid) with
    | some y => (putBar (fbKey idx) { b with waiters := b.waiters.erase y }).andThen (barAnswer y g)
    | none => .quiet
  | .fault x code =>
    let w : Who := ⟨x.core, x.frame, x.uid, x.wave, x.slot, x.colour, x.run⟩
    (lateFault w x.seq code).andThen
      (.when (x.op = .join) (notJoined ⟨w, 4, x.idx, .join, mkTok x.colour .data x.seq [], none⟩))
  | .entry f => putBar (fbKey f.idx) { barOf f id with waiters := (s.barrier (fbKey f.idx)).waiters }.recount
  | _ => .quiet

/-- The root has every package's figures: its own waits are performed again, R213's test runs on every entry, every package is told, and its own
events that waited are performed. -/
def fbSettle : Act := Act.seq [
  Act.each (upFrom 16 0) fun idx => .look fun s =>
    let b := s.barrier (fbKey idx)
    Act.seq [
      putBar (fbKey idx) { b with waiters := [] },
      Act.each b.waiters fun e => barPerform (fbKey idx) { e with op := .wait 0 },
      barTest (fbKey idx) 64,
      .look fun s => Act.each s.fabOthers fun p => fbSend p (.entry ((s.barrier (fbKey idx)).figure (p.toNat + 1) idx)) ],
  .look fun s => (Act.fab fun f => { f with fbPending := [] }).andThen (Act.each s.m.fab.fbPending fbAtRoot) ]

/-- R376: what travels on tree 0 reaches this package: at the root events, figures and new names; elsewhere what concerns it; the rest goes on. A
message of an earlier generation is discarded; one of a later generation waits, and so does an event before the root has all figures (log 144). -/
def fbTake (e : FbMsg) : Act := .look fun s =>
  let root := s.fabRoot = s.fabSelf
  let held := Act.fab fun f => { f with fbHeld := f.fbHeld ++ [e] }
  let toRoot (act : Act) : Act := if !root then fabSend (.bar e) else if e.pkg = s.m.fab.pkg then .quiet else act
  if e.gen < s.fabGen then .quiet
  else if s.fabGen < e.gen then held
  else
    match e.body with
    | .event x => toRoot (if 16 ≤ x.idx then .quiet else if s.fbReady then fbAtRoot (fbBar e.pkg x) else held)
    | .moved us => toRoot (if s.fbReady then fbMoved e.pkg us else held)
    | .figures fs => toRoot (if s.m.fab.figures.contains e.pkg.toNat then .quiet else Act.seq [
        Act.each (fs.filter fun f => f.idx < 16) fun f => .look fun s =>
          putBar (fbKey f.idx) ((s.barrier (fbKey f.idx)).merge (barOf f (pkgUnit e.pkg))),
        .fab fun f => { f with figures := e.pkg.toNat :: f.figures },
        .look fun s => .when s.fbReady fbSettle ])
    | _ => if e.pkg = s.m.fab.pkg then fbHere e else fabSend (.bar e)

/-- What waits is taken up in its order; what must wait on does. -/
def fbRetry : Act := .look fun s => (Act.fab fun f => { f with fbHeld := [] }).andThen (Act.each s.m.fab.fbHeld fbTake)

/-- R376: a message for the `.fb` entries. -/
def execFbBarrierEvent (e : FbMsg) (s : State) : Host.Outcome State Fault Refusal := .next (((fbTake e).andThen fbRetry).run s)

/-- A newly agreed generation at the barrier units: each package's figures go to the new root, and behind them its waits and its events that no root
has taken. -/
def fbRebuild : Act := Act.seq [
  Act.each (upFrom 16 0) fun idx => .look fun s =>
    let b := s.barrier (fbKey idx)
    putBar (fbKey idx) { barOf (b.figure 0 idx) id with waiters := b.waiters.filter fun e => e.who.remote.isNone }.recount,
  .fab fun f => { f with figures := [] },
  .look fun s =>
    if s.fabRoot = s.fabSelf then Act.when s.fbReady fbSettle
    else
      let bs := (upFrom 16 0).map fun idx => (idx, s.barrier (fbKey idx))
      let waits := bs.flatMap fun x => x.2.waiters.map fun e => { e with op := BarOp.wait 0 }
      Act.seq [
        fbSend s.m.fab.pkg (.figures (bs.map fun (i, b) => b.figure 0 i)),
        Act.each bs fun (i, b) => putBar (fbKey i) { b with waiters := [] },
        .fab fun f => { f with fbPending := waits ++ f.fbPending },
        .look fun s => Act.each s.m.fab.fbPending fun e => fbSend s.m.fab.pkg (.event (e.fbEvent e.who.core)) ],
  fbRetry ]

/-! ## The live link table (R360, R361) -/

/-- The bytes of a table under its digest: each copy's ID, generation and entries, by ascending ID. -/
def tableBytes (t : Tab LltCopy) : List Byte :=
  t.flatMap fun (id, c) => leBytes 2 id ++ leBytes 8 c.gen ++ c.entries.flatMap fun e => leBytes 4 e.toNat

def FabricState.digest (f : FabricState) : List Byte := sha384 (tableBytes f.copies)

/-- The generation of the table that a package holds. -/
def FabricState.high (f : FabricState) : Nat := f.copies.foldl (fun m x => max m x.2.gen) f.gen

/-- A newly agreed generation (R369, R376): older messages are gone, running collectives start again, those that have completed here report their marks
to the others, barrier figures go to the new root. -/
def fabRegen : Act := .look fun s =>
  let running := s.m.fab.colls.filter fun c => c.admitted && !c.over_
  let ended := s.m.fab.colls.filter fun c => c.finished && c.status.isNone
  let again (c : Coll) : Coll := { c with started := false, reported := false, dealt := false, reports := [], gen := s.fabGen }
  Act.seq [
    Act.each (s.m.fab.early.filter fun m => m.gen?.any (· < s.fabGen)) fun m => spoilSub m.key.1 256,
    .fab fun f => { f with
      early := f.early.filter fun m => !m.gen?.any (· < s.fabGen), relay := [], relayMarks := [], relayAcks := [] },
    Act.each running fun c => (modColl c.id fun x => { again x with deal := [] }).andThen (.when (!c.frozen) (collStart c.id)),
    Act.each ended fun c => (modColl c.id again).andThen (collReport c.id),
    retryEarly,
    fbRebuild ]

/-- G is agreed once every reachable package has acknowledged it with this package's digest. -/
def tryAgree : Act := .look fun s =>
  let f := s.m.fab
  let others := (component f.copies f.pkg.toNat).filter (· ≠ f.pkg.toNat)
  let d := f.digest
  if others.all (fun p => tget? f.acks p == some (f.gen, d)) && f.agreed ≠ some (f.gen, f.copies) then
    (Act.fab fun f => { f with agreed := some (f.gen, f.copies) }).andThen fabRegen
  else .quiet

/-- A new generation of the package's entries is flooded over every edge. -/
def floodCopy : Act := .look fun s =>
  let f := s.m.fab
  let c : LltCopy := ⟨f.high + 1, f.pkg, f.local_⟩
  (Act.fab fun f => { f with gen := c.gen, copies := tput f.copies f.pkg.toNat c }).andThen (fabSend (.flood c))

/-- Whether a package of higher ID has acknowledged this package's generation with another digest. -/
def FabricState.disagrees (f : FabricState) : Bool := f.acks.any fun (p, g, d) => g == f.gen && d != f.digest && f.pkg.toNat < p

/-- The table has changed: an acknowledgement of it goes to every reachable package; where another has acknowledged the same generation under another
digest, the package with the lower ID floods again (R360). n bounds the floods. -/
def settleTable : Nat → Act
  | 0 => .quiet
  | n + 1 => .look fun s => (fabSend (.ack s.m.fab.gen s.m.fab.digest)).andThen
      (if s.m.fab.disagrees then floodCopy.andThen (settleTable n) else tryAgree)

def ackTable : Act := .look fun s => settleTable (s.m.fab.acks.length + 1)

/-- The package's entries have changed. -/
def floodOwn : Act := floodCopy.andThen ackTable

/-- R360: a flooded copy replaces an older one and goes on. -/
def execLltFlood (c : LltCopy) (s : State) : Host.Outcome State Fault Refusal :=
  .next ((Act.look fun s =>
    let newer := match tget? s.m.fab.copies c.id.toNat with
      | some x => x.gen < c.gen
      | none => true
    if !newer then .quiet
    else Act.seq [
      .fab fun f => { f with copies := tput f.copies c.id.toNat c, gen := max f.gen c.gen },
      fabSend (.flood c),
      ackTable ]).run s)

/-- R360: an acknowledgement; of two digests for one generation the package with the lower ID floods again. -/
def execLltAck (id : BitVec 12) (gen : Nat) (digest : List Byte) (s : State) : Host.Outcome State Fault Refusal :=
  .next (((Act.fab fun f => { f with acks := tput f.acks id.toNat (gen, digest) }).andThen (.look fun s =>
    let f := s.m.fab
    if gen = f.gen && digest ≠ f.digest && f.pkg.toNat < id.toNat then floodOwn else tryAgree)).run s)

/-- A local entry replaced, and flooded if it changes. -/
def setEntry (i : Nat) (e : BitVec 32) : Act := .look fun s =>
  if tgetD (0 : BitVec 32) s.m.fab.entries i = e then .quiet
  else (Act.fab fun f => { f with entries := tset 0 f.entries i e }).andThen floodOwn

def State.lltLocal (s : State) (i : Nat) : BitVec 32 := tgetD 0 s.m.fab.entries i

/-- R360: a link trains to a peer's port, with its 8 lanes. -/
def execLinkUp (port : Nat) (peer : BitVec 12) (pport : BitVec 5) (s : State) : Host.Outcome State Fault Refusal :=
  .next ((Act.when (port < 24) (setEntry port (lltEntry 2 4 peer.toNat pport.toNat))).run s)

/-- R357: a lane of a port fails: 8 lanes become 4, 4 become 2, and fewer take the link down. -/
def execLaneFail (s : State) : Host.Outcome State Fault Refusal :=
  .next ((Act.look fun s =>
    let p := s.m.at_.port
    let e := s.lltLocal p
    if 24 ≤ p || lltSt e = 0 then .quiet
    else
      match lltBw e with
      | 4 => setEntry p (lltEntry 1 2 (lltPeer e) (lltPport e))
      | 2 => setEntry p (lltEntry 1 1 (lltPeer e) (lltPport e))
      | _ => setEntry p (lltDown e)).run s)

/-- R357: a link goes down. -/
def execLinkDown (s : State) : Host.Outcome State Fault Refusal :=
  .next ((Act.look fun s =>
    let p := s.m.at_.port
    if 24 ≤ p then .quiet else setEntry p (lltDown (s.lltLocal p))).run s)

/-- A seam's entry. -/
def seamEntry (s : State) (k st bw : Nat) : BitVec 32 := lltEntry st bw s.fabSelf k

/-- R361: a seam that is up carries its traffic at lower bandwidth. -/
def execSeamDegraded (s : State) : Host.Outcome State Fault Refusal :=
  .next ((Act.look fun s =>
    let k := s.m.at_.seam
    if 10 ≤ k || lltSt (s.lltLocal (24 + k)) = 0 then .quiet else setEntry (24 + k) (seamEntry s k 1 3)).run s)

/-- R361: a seam goes down: traffic waits at it, SEAM_DOWN is recorded, every port is flooded as down. -/
def execSeamDown (s : State) : Host.Outcome State Fault Refusal :=
  .next ((Act.look fun s =>
    let k := s.m.at_.seam
    if 10 ≤ k || s.m.pkg.seams.contains k then .quiet
    else Act.seq [
      .pkg fun p => { p with seams := k :: p.seams },
      record { Record.blank with code := Code.seamDown },
      .fab fun f => { f with entries := tset 0 f.entries (24 + k) (seamEntry s k 0 0), away := true },
      floodOwn ]).run s)

/-- What the engine could not reach may be reached again. -/
def collWake : Act := .look fun s =>
  (Act.each (s.m.fab.colls.filter fun c => c.admitted && !c.over_ && !c.frozen) fun c =>
    if c.started then collProgress c.id else if c.waiting then .quiet else collStart c.id).andThen retryEarly

/-- R361: a seam is trained: its traffic is released, and with no seam down the package rejoins the fabric. -/
def execSeamTrained (s : State) : Host.Outcome State Fault Refusal :=
  .next ((Act.look fun s =>
    let k := s.m.at_.seam
    if 10 ≤ k then .quiet
    else Act.seq [
      .pkg fun p => { p with seams := p.seams.filter (· ≠ k) },
      .look fun s => .fab fun f => { f with
        entries := tset 0 f.entries (24 + k) (seamEntry s k 2 7), away := s.m.pkg.seams ≠ [] },
      floodOwn,
      collWake ]).run s)

end Sys2Proof.Machine
end

