-- ==== Sys2Proof/Machine/Queues.lean ====
section
/-! DEFINITION. Queues and their hoists (spec 16 R269, R270; 02 R60, R62; 19 R316; 21 R345): the descriptor in memory, a queue's
states, fetching a packet's words, what a packet reads and writes, and a queue's faults. -/

namespace Sys2Proof.Machine

/-! ## Descriptors (R269) -/

/-- The 64 bytes of a descriptor. -/
def QDesc.bytes (d : QDesc) : List Byte :=
  leBytes 8 (d.col.toNat * 2 ^ 56 + d.vdev % 32 * 2 ^ 51 + d.die % 8 * 2 ^ 48 + d.ptr % 2 ^ 48) ++
    leBytes 8 (d.pri % 8 * 2 ^ 61 + d.st % 8 * 2 ^ 58 + d.ibd % 8 * 2 ^ 55) ++
    (upFrom 4 0).flatMap (fun i => leBytes 8 (d.ibret.getD i 0 % 2 ^ 48)) ++
    leBytes 8 (d.lpcnt % 2 ^ 16 * 2 ^ 48 + d.lpadr % 2 ^ 48) ++ leBytes 8 0

def State.descAddr (s : State) (q : Nat) : Nat := s.m.pkg.mgmt.qtab + 64 * q

/-- The descriptor as memory holds it, read as one event of plain memory. -/
def State.readDesc (s : State) (q : Nat) : QDesc :=
  let w (i : Nat) : Nat := s.nat (s.descAddr q + 8 * i) 8
  { col := BitVec.ofNat 8 (bits (w 0) 56 8), vdev := bits (w 0) 51 5, die := bits (w 0) 48 3, ptr := bits (w 0) 0 48
    pri := bits (w 1) 61 3, st := bits (w 1) 58 3, ibd := bits (w 1) 55 3
    ibret := (upFrom 4 2).map fun i => bits (w i) 0 48
    lpcnt := bits (w 6) 48 16, lpadr := bits (w 6) 0 48 }

def State.queue? (s : State) (q : Nat) : Option QState := tget? s.m.pkg.queues q

def modQueue (q : Nat) (f : QState → QState) : Act := .pkg fun p =>
  match tget? p.queues q with
  | some x => { p with queues := tput p.queues q (f x) }
  | none => p

/-- The hoist writes a queue's descriptor back (R269). -/
def writeBack (q : Nat) : Act := .look fun s =>
  match s.queue? q with
  | some x => putBytes (s.descAddr q) x.desc.bytes
  | none => .quiet

/-! ## States (R270) -/

def qIdle : Nat := 0
def qWaiting : Nat := 1
def qMapped : Nat := 2
def qBlocked : Nat := 3
def qFrozen : Nat := 4

/-- A queue as a hoist first takes it: WAITING. -/
def QState.fresh (d : QDesc) (age : Nat) : QState where
  desc := d
  pri := d.pri
  slot := 0
  served := false
  mapped := false
  frozen := false
  blocked := false
  age := age
  rounds := 0
  held := 0
  selected := false
  segEnd := 0
  fetched := []
  progress := 0
  parked := false
  answer := none
  polled := none
  passOver := none

/-- A queue leaves its slot for a state: what it fetched ahead is discarded, its current packet will run from its start, and its
descriptor is written back (R269, R270). -/
def unbind (q st : Nat) : Act := Act.seq [
  .pkg fun p =>
    match tget? p.queues q with
    | some x => { p with
        queues := tput p.queues q { x with
          desc := { x.desc with st := st }, mapped := false, frozen := st == qFrozen, blocked := st == qBlocked, age := p.nextAge
          rounds := 0, held := 0, selected := false, served := false, fetched := [], progress := 0, parked := x.parked && st == qBlocked
          answer := none, polled := none, passOver := none }
        nextAge := p.nextAge + 1 }
    | none => p,
  writeBack q ]

/-- A queue enters WAITING with the descriptor that memory holds, whose ST the hoist sets, where the hypervisor has not put there one that stands
for no state (R270); its segment stands while PTR does. -/
def requeue (q : Nat) : Act := .look fun s =>
  let r := s.readDesc q
  let d := { r with st := if 5 ≤ r.st then r.st else qWaiting }
  let segEnd := match s.queue? q with
    | some x => if x.desc.ptr = d.ptr then x.segEnd else 0
    | none => 0
  (Act.pkg fun p => { p with
    queues := tput p.queues q { QState.fresh d p.nextAge with segEnd := segEnd }
    nextAge := p.nextAge + 1 }).andThen (writeBack q)

/-- The slots that a die's hoist has in use. -/
def State.slotsUsed (s : State) (die : Nat) : Nat :=
  (s.m.pkg.queues.filter fun (_, x) => x.mapped && x.desc.die == die).length

/-- The lowest free slot of a die's hoist. -/
def State.freeSlot (s : State) (die : Nat) : Nat :=
  ((upFrom 16 0).find? fun i => !s.m.pkg.queues.any fun (_, x) => x.mapped && x.desc.die == die && x.slot == i).getD 16

/-- A WAITING queue is bound to a slot, with PRI as the boundary read it (R272); `held` is 1 at a round boundary, from which it holds the slot for
a full round. -/
def bindQueue (q held : Nat) : Act := .look fun s => modQueue q fun x => { x with
  desc := { x.desc with st := qMapped }, slot := s.freeSlot x.desc.die, mapped := true, rounds := 0, held := held
  selected := false, served := false }

/-- A stands before b where a hoist serves its mapped queues (R272): highest PRI first, then slot order. -/
def QState.servedBefore (a b : QState) : Bool := if a.pri = b.pri then a.slot < b.slot else b.pri < a.pri

/-- The mapped queue that a hoist serves next: the first in its order that it has not served since it served them all (log 117). -/
def State.turn (s : State) (die : Nat) : Option Nat :=
  let order := sortRel (fun a b : Nat × QState => a.2.servedBefore b.2) (s.m.pkg.queues.filter fun (_, x) => x.mapped && x.desc.die == die)
  ((order.find? fun (_, x) => !x.served).orElse fun _ => order.head?).map Prod.fst

/-- A queue has been served; with the last of its die's, all may be served again. -/
def markServed (q die : Nat) : Act := .pkg fun p =>
  let mine (x : QState) : Bool := x.mapped && x.desc.die == die
  let allServed := p.queues.all fun (k, x) => !mine x || x.served || k == q
  { p with queues := p.queues.map fun (k, x) => (k, if mine x then { x with served := !allServed && (x.served || k == q) } else x) }

/-! ## Faults of a queue (R284, 02 R62, 21 R345) -/

/-- The site that a hoist's records name: the spec gives none, so the first of its die (log 29). -/
def hoistSite (die : Nat) : Nat := siteId die 0 0

/-- The queue stops before its packet: FROZEN. -/
def freezeQueue (q : Nat) : Act := unbind q qFrozen

/-- A fault of a queue, with its packet's header in DETAIL and its descriptor's address in ADDR. -/
def queueFault (q code header : Nat) : Act := .look fun s =>
  match s.queue? q with
  | none => .quiet
  | some x => (record { Record.blank with
      code := code, col := x.desc.col, mkind := 3, frz := true, site := hoistSite x.desc.die, detail := header
      addr := s.descAddr q }).andThen (freezeQueue q)

/-! ## Fetching (R60, R62, R316) -/

/-- Whether a word address lies beyond the queue's current segment; in an indirect buffer there is no end. -/
def QState.beyond (x : QState) (a : Nat) : Bool := x.segEnd != 0 && x.desc.ibd == 0 && x.segEnd ≤ a

/-- A word as the hoist reads it at its home; behind a lost port its value is free (log 24). -/
def State.hoistWord (s : State) (h : Nat) : Lane :=
  if s.lostHome h then BitVec.ofNat 32 (leNat ((upFrom 4 h).map fun a => Config.freeByte s.m.free a)) else BitVec.ofNat 32 (s.nat h 4)

def fetchedWord (ws : List (Nat × Lane)) (a : Nat) : Option Lane := (ws.find? fun w => w.1 == a).map Prod.snd

/-- Whether some of n bytes from a virtual address lie at homes that the queue's hoist cannot reach now: the access waits (19 R325, 22 R361). -/
def State.vaAway (s : State) (x : QState) (a n : Nat) : Bool :=
  (upFrom ((a % 128 + n + 127) / 128) 0).any fun i =>
    match s.xlate x.desc.col classH false (a / 128 * 128 + 128 * i) with
    | .ok (h, _) => s.away x.desc.die h
    | .error _ => false

/-- The hoist reads one word of a queue's packets, as one event (R62); at an address without translation, `lost`. -/
def hoistFetch (q a : Nat) (lost : Act) : Act := .look fun s =>
  match s.queue? q with
  | none => .quiet
  | some x =>
    match s.xlate x.desc.col classH false a with
    | .ok (h, _) =>
      if s.away x.desc.die h then .quiet
      else (modQueue q fun x => { x with fetched := x.fetched ++ [(a, s.hoistWord h)] }).andThen
        (.when (s.lostHome h) (.mod fun m => { m with free := m.free + 1 }))
    | .error _ => lost

/-- The first of n words from an address on that has not been fetched. -/
def QState.nextWord (x : QState) (a n : Nat) : Option Nat :=
  ((upFrom n 0).map fun i => a + 4 * i).find? fun b => (fetchedWord x.fetched b).isNone

/-- What the hoist may fetch ahead: the next word of the 512 bytes from PTR (R62); before the first segment, whose end is not known,
nothing (R316). -/
def QState.ahead (x : QState) : Option Nat :=
  if !x.mapped || (x.segEnd = 0 && x.desc.ibd = 0) then none
  else (x.nextWord x.desc.ptr 128).bind fun a => if x.beyond a then none else some a

/-- A packet that a queue is about to execute: its words, the next word to fetch of it with the header to record, or the code and header
of its fault. Where the header word itself lies beyond the segment there is none to record: DETAIL is 0 (log 118). -/
inductive PacketRead where
  | ready (ws : List Lane)
  | more (a header : Nat)
  | bad (code header : Nat)
deriving DecidableEq, Repr

def QState.packetAt (x : QState) : PacketRead :=
  let a := x.desc.ptr
  if x.beyond a then .bad Code.pktBadop 0
  else
    match fetchedWord x.fetched a with
    | none => .more a 0
    | some h =>
      let n := 1 + bits h.toNat 16 8
      if x.beyond (a + 4 * (n - 1)) then .bad Code.pktBadop h.toNat
      else
        match x.nextWord a n with
        | some b => .more b h.toNat
        | none => .ready ((upFrom n 0).filterMap fun i => fetchedWord x.fetched (a + 4 * i))

/-! ## What a packet reads -/

/-- The result of a packet's read of a word: its value, a word that reads ERR or poison, a fault's code, or a wait. -/
inductive HoistRead where
  | word (w : Lane)
  | bad
  | fault (code : Nat)
  | wait (park : Act)

/-- A word read as one event through class H; `defers` where an EMPTY word of a write-once page holds the packet. -/
def hoistRead (s : State) (q : Nat) (x : QState) (a : Nat) (defers : Bool) : HoistRead :=
  match x.answer with
  | some (.bytes bs) => .word (BitVec.ofNat 32 (leNat (bs.take 4)))
  | some (.err _) => .bad
  | some .poison => .bad
  | _ =>
    if x.parked then .wait .quiet
    else
      match s.xlate x.desc.col classH false a with
      | .error _ => .fault Code.xlate
      | .ok (h, m) =>
        if s.away x.desc.die h then .wait .quiet
        else if s.lostHome h then .bad
        else if defers && s.engineDefers h 4 m then
          .wait ((modQueue q fun y => { y with parked := true }).andThen
            (homeLoad (unitOf h) ⟨.queue q, x.desc.col, 0, h, 4, m, .load, [], false, 2 ^ 20, true, .g, a, false⟩))
        else if s.presenceOf h m ≠ .none && s.presAt h = .err then .bad
        else .word (if s.presAt h = .defer && s.presenceOf h m ≠ .none then 0 else BitVec.ofNat 32 (s.nat h 4))

/-! ## Going on -/

/-- The packet has ended: PTR names the next, and of what has been fetched the 512 bytes from there stay. -/
def goTo (q a : Nat) : Act := modQueue q fun x => { x with
  desc := { x.desc with ptr := a % 2 ^ 48 }, progress := 0, parked := false, answer := none, polled := none, passOver := none
  fetched := x.fetched.filter fun v => a % 2 ^ 48 ≤ v.1 && v.1 < a % 2 ^ 48 + 512 }

def packetLen (p : Packet) : Nat := 4 * (1 + p.plen.toNat)

/-- The header of a packet. -/
def packetHeader (p : Packet) (pop : Nat) : Nat := pop * 2 ^ 24 + p.plen.toNat * 2 ^ 16 + p.pflg.toNat

/-- The virtual device whose space a queue's handles lie in; queues of colour 0 share one more (R346). -/
def QState.space (x : QState) : Nat := if x.desc.col = 0 then 32 else x.desc.vdev % 32

/-- The number of the configuration that a handle names. -/
def QState.cfgNo (x : QState) (p : Packet) : Nat := x.space * 4096 + p.pflg.toNat % 4096

end Sys2Proof.Machine
end

