-- ==== Sys2Proof/Machine/Elements.lean ====
section
/-! DEFINITION. Special elements (spec 12 R207 to R210, 09 R159, R160, 13 R231) and voters (19 R323). A seal element is in
Seal. -/

namespace Sys2Proof.Machine

/-! ## Elements -/

/-- The inputs of an element (R207, R323). -/
def elemInputs (k : ElemKind) : Nat :=
  match k with
  | .isect => 2
  | .union => 2
  | .voter => 3
  | _ => 1

/-- EOS of a colour on an element's output, once. -/
def elemEos (id : Nat) (t : Token) : Act := .look fun s =>
  match s.elem? id with
  | none => .quiet
  | some e =>
    if e.eosDone.contains t.colour then .quiet
    else (elemOut e t).andThen (modElem id fun e => { e with eosDone := t.colour :: e.eosDone })

/-- EOS on an input: forwarded once `need` inputs have seen it, after what `flush` emits. -/
def elemEosIn (id input need : Nat) (t : Token) (flush : ElemState → Act) : Act :=
  (modElem id fun e => { e with eos := if e.eos.contains (input, t.colour) then e.eos else (input, t.colour) :: e.eos }).andThen
    (.look fun s =>
      match s.elem? id with
      | none => .quiet
      | some e =>
        if need ≤ (e.eos.filter fun x => x.2 == t.colour).length && !e.eosDone.contains t.colour then
          Act.seq [flush e, elemEos id t]
        else .quiet)

/-- The colours that a configuration's round wedges: those bound to its virtual device that an entry port's mask or a node
names. -/
def State.confColours (s : State) (cfg : Nat) : List Colour :=
  match tget? s.m.pkg.confs cfg with
  | none => []
  | some f =>
    ((upFrom 256 0).map fun i => (BitVec.ofNat 8 i : Colour)).filter fun c =>
      (c == 0 || f.vdev == 32 || s.bound c && s.vdevOf c == f.vdev) &&
        (f.entries.any (fun e => e.rcd.mask.getLsbD c.toNat) ||
          s.m.cores.any fun (_, k) => k.nodes.any fun (_, n) => n.cfg == cfg && n.info.colours.getLsbD c.toNat)

/-- Whether every input of an element that is not fed by a back edge is wedged for a colour (01 R30). -/
def ElemState.wedgedIn (e : ElemState) (c : Colour) : Bool :=
  (upFrom (elemInputs e.rcd.kind) 0).all fun i => e.rcd.back.contains i || e.wedges.contains (i, c)

/-- A wedge of each colour that is wedged on every input leaves, once; with the last colour of the configuration the element is frozen
(01 R30). -/
def elemFreeze (id : Nat) : Act := .look fun s =>
  match s.elem? id with
  | none => .quiet
  | some e =>
    let go := (s.confColours e.cfg).filter fun c => e.wedgedIn c && !e.wedgeSent.contains c
    Act.seq [
      Act.each go fun c => elemOut e (mkTok c .wedge (Config.freeSeq s.m.free) [0]),
      .mod fun m => { m with free := m.free + 1 },
      modElem id fun e => { e with wedgeSent := e.wedgeSent ++ go, frozen := (s.confColours e.cfg).all e.wedgedIn } ]

/-- A wedge reaches an input. -/
def elemWedge (id input : Nat) (t : Token) : Act := modElem id fun e => { e with wedges := (input, t.colour) :: e.wedges }

/-- Message k, a token on an input of an element whose kind a row names, once `can` lets it arrive; `act` takes what is neither EOS nor
wedge. -/
def elemEvent (kind : ElemKind → Bool) (can : State → ElemState → Token → Bool) (need : Nat) (flush : Token → ElemState → Act)
    (act : ElemState → Nat → Token → Act) : Act := .look fun s =>
  let k := s.m.at_.k
  match s.m.msg? k with
  | none => .quiet
  | some msg =>
    match msg.body with
    | .tok (.elem id input) t _ =>
      match s.elem? id with
      | none => .quiet
      | some e =>
        if !kind e.rcd.kind || e.frozen || !s.issues e.cfg || !s.m.inOrder k msg || s.halted e.rcd.core then
          .quiet
        else if !can s e t then .quiet
        else if t.kind = .eos then (takeMsg k).andThen (elemEosIn id input need t (flush t))
        else if t.kind = .wedge then Act.seq [takeMsg k, elemWedge id input t, elemFreeze id]
        else (takeMsg k).andThen (act e input t)
    | _ => .quiet

def always (_ : State) (_ : ElemState) (_ : Token) : Bool := true
def noFlush (_ : Token) (_ : ElemState) : Act := .quiet

/-! ## Read-modify-write (09 R159, R160) -/

/-- The word after an update, or an error code. -/
def rmwNew (op fmt : Nat) (x v : Lane) : Except ErrCode Nat :=
  let a := x.toNat
  let b := v.toNat
  let flt (r : Except ErrCode Nat) : Except ErrCode Nat := noNan .f32 [a, b] r
  let less (p q : Nat) : Bool := if fmt = 0x04 then p < q else sInt 32 p < sInt 32 q
  match op with
  | 0 => if fmt = 0x08 then flt (faddElem .f32 a b) else .ok ((a + b) % 2 ^ 32)
  | 1 => if fmt = 0x08 then flt (.ok (if fless a b then a else b)) else .ok (if less a b then a else b)
  | 2 => if fmt = 0x08 then flt (.ok (if fless b a then a else b)) else .ok (if less b a then a else b)
  | 3 => .ok (a &&& b)
  | 4 => .ok (a ||| b)
  | 5 => .ok (a ^^^ b)
  | _ => .ok b
where
  /-- Less as `fmin` has it: −0 below +0 (05 R112). -/
  fless (a b : Nat) : Bool :=
    let p := FFmt.f32.decode a
    let q := FFmt.f32.decode b
    p.lt q || (p.isZero && q.isZero && p.signBit && !q.signBit)

/-- R160 at the bank port: the word is read with its check, and one beyond correction gives no value to work on and stays (09 R173, log 50). -/
def rmwToken (e : ElemState) (word : BitVec 64) (t : Token) : Act := .look fun s =>
  let x := bankAddr e.rcd.core (4 * (bits word.toNat 41 14 + t.lane0.toNat))
  if t.kind = .stop then .quiet
  else if t.isBad then (countSink t.colour).andThen (releaseOpt e.cfg e.rcd.credited t.colour)
  else if t.lanes.length ≠ 2 then elemDiscard e t Code.rmwInput
  else if bits word.toNat 27 14 < t.lane0.toNat then elemDiscard e t Code.rmwRange
  else if s.damaged x 4 then checked x 4
  else if s.presAt x = .err then checked x 4
  else
    match rmwNew (bits word.toNat 60 4) (bits word.toNat 55 5) (BitVec.ofNat 32 (s.nat x 4)) (t.lanes.getD 1 0) with
    | .ok r => (checked x 4).andThen (fill x (leBytes 4 r))
    | .error c => (checked x 4).andThen (fillErr x 4 c)

/-- R160: message k, a token of a read-modify-write element, in arrival order. -/
def execRmwUpdate (s : State) : Host.Outcome State Fault Refusal :=
  .next ((elemEvent (fun k => match k with
      | .rmw _ => true
      | _ => false) always 1 noFlush fun e _ t =>
    match e.rcd.kind with
    | .rmw w => rmwToken e w t
    | _ => .quiet).run s)

/-! ## Corner turn (R208) -/

/-- A colour's tokens in an element's buffer for an input. -/
def ElemState.of (e : ElemState) (input : Nat) (c : Colour) : List Token :=
  (e.queue.filter fun x => x.1 == input && x.2.colour == c).map Prod.snd

def ElemState.without (e : ElemState) (c : Colour) : List (Nat × Token) := e.queue.filter fun x => x.2.colour != c

/-- The output tokens of a block: the transposed ones, or its first error or poison token in place of each. -/
def turned (iw nt : Nat) (ts : List Token) : List Token :=
  let t0 := ts.headD ⟨0, .data, 0, 0, 0, 0, 0, 0, [], []⟩
  (upFrom iw 0).map fun j =>
    match ts.find? Token.isBad with
    | some b => mkTok t0.colour b.kind t0.seq (padLanes nt b.lanes)
    | none => mkTok t0.colour .data t0.seq (ts.map fun t => t.lanes.getD j 0)

/-- R208: message k, a token of a corner-turn element. A token of another width than IW + 1 is the error token WIDTH in its
block; a stop token passes through. -/
def execCturnToken (s : State) : Host.Outcome State Fault Refusal :=
  .next ((elemEvent (fun k => match k with
      | .cturn _ => true
      | _ => false) always 1 (fun z e =>
        let c := z.colour
        match e.rcd.kind, e.of 0 c with
        | .cturn w, t :: _ => (elemOuts e (List.replicate (bits w.toNat 27 5 + 1)
              (errTok c errUnpaired t.seq (bits w.toNat 22 5 + 1)))).andThen
            (modElem e.rcd.id fun e => { e with queue := e.without c })
        | _, _ => .quiet) fun e _ t =>
    match e.rcd.kind with
    | .cturn w =>
      let iw := bits w.toNat 27 5 + 1
      let nt := bits w.toNat 22 5 + 1
      if t.kind = .stop then elemOut e t
      else
        let u := if t.kind = .data && t.lanes.length ≠ iw then errTok t.colour errWidth t.seq iw else t
        let ts := e.of 0 t.colour ++ [u]
        if ts.length < nt then modElem e.rcd.id fun e => { e with queue := e.queue ++ [(0, u)] }
        else (modElem e.rcd.id fun e => { e with queue := e.without t.colour }).andThen (elemOuts e (turned iw nt ts))
    | _ => .quiet).run s)

/-! ## Reorder (R209) -/

/-- The frame's indices in the order of emission. -/
def reorderIdx (w : BitVec 64) : List Nat :=
  let x := w.toNat
  let f := bits x 58 6 + 1
  (upFrom (bits x 40 6 + 1) 0).flatMap fun i2 => (upFrom (bits x 46 6 + 1) 0).flatMap fun i1 =>
    (upFrom (bits x 52 6 + 1) 0).map fun i0 =>
      (bits x 16 6 + bits x 34 6 * i0 + bits x 28 6 * i1 + bits x 22 6 * i2) % f

/-- What a frame emits: the indices that name tokens present. -/
def reordered (w : BitVec 64) (ts : List Token) : List Token := (reorderIdx w).filterMap fun i => ts[i]?

/-- R209: message k, a token of a reorder element. -/
def execReorderToken (s : State) : Host.Outcome State Fault Refusal :=
  .next ((elemEvent (fun k => match k with
      | .reorder _ => true
      | _ => false) always 1 (fun z e =>
        let c := z.colour
        match e.rcd.kind, e.of 0 c with
        | .reorder w, t :: ts => (elemOuts e (reordered w (t :: ts))).andThen
            (modElem e.rcd.id fun e => { e with queue := e.without c })
        | _, _ => .quiet) fun e _ t =>
    match e.rcd.kind with
    | .reorder w =>
      let ts := e.of 0 t.colour ++ [t]
      if ts.length < bits w.toNat 58 6 + 1 then modElem e.rcd.id fun e => { e with queue := e.queue ++ [(0, t)] }
      else (modElem e.rcd.id fun e => { e with queue := e.without t.colour }).andThen (elemOuts e (reordered w ts))
    | _ => .quiet).run s)

/-! ## Intersect and union (R210) -/

/-- What the heads of a colour's two fibres do: what is emitted, and whether each head is consumed. -/
def fibreStep (union : Bool) (a b : Token) : Option Token × Bool × Bool :=
  let out (t : Token) (ls : List Lane) : Option Token := some (mkTok t.colour .data t.seq ls)
  let val (t : Token) : Lane := t.lanes.getD 1 0
  let onlyA : Option Token × Bool × Bool := (if union then out a [a.lane0, val a, 0] else none, true, false)
  let onlyB : Option Token × Bool × Bool := (if union then out b [b.lane0, 0, val b] else none, false, true)
  if a.isBad then (some (mkTok a.colour a.kind a.seq (padLanes 3 a.lanes)), true, false)
  else if b.isBad then (some (mkTok b.colour b.kind b.seq (padLanes 3 b.lanes)), false, true)
  else
    match a.kind == .stop, b.kind == .stop with
    | true, true =>
      if a.stopLevel = b.stopLevel then (some (mkTok a.colour .stop a.seq (padLanes 3 a.lanes)), true, true)
      else (some (errTok a.colour errStopMix a.seq 3), true, true)
    | true, false => onlyB
    | false, true => onlyA
    | false, false =>
      if a.lane0 = b.lane0 then (out a [a.lane0, val a, val b], true, true)
      else if a.lane0.toNat < b.lane0.toNat then onlyA
      else onlyB

/-- A token of an intersect or union element as it is compared: a data token of another width is the error token WIDTH. -/
def fibreTok (t : Token) : Token := if t.kind = .data && t.lanes.length ≠ 2 then errTok t.colour errWidth t.seq 2 else t

/-- The messages that may arrive at an element enter its buffers, the EOS of an input among them; n bounds them. -/
def elemAbsorb (id : Nat) : Nat → Act
  | 0 => .quiet
  | n + 1 => .look fun s =>
    let found := (upFrom s.m.net.length 0).find? fun k =>
      match s.m.msg? k with
      | some x => x.dst == elemUnit id && s.m.inOrder k x
      | none => false
    match found with
    | none => .quiet
    | some k =>
      match (s.m.msg? k).map Msg.body with
      | some (.tok (.elem _ input) t _) =>
        Act.seq [takeMsg k, (if t.kind = .wedge then elemWedge id input t
          else modElem id fun e => { e with queue := e.queue ++ [(input, fibreTok t)] }), elemAbsorb id n]
      | _ => .quiet

/-- A colour whose two heads, or whose one bad head, can be compared. A head left on one input once the other has seen EOS has nothing to be
compared with: R210 gives it no row, so it stays, and an EOS behind it is not seen (log 139). -/
def fibreReady (e : ElemState) (c : Colour) : Bool :=
  match e.of 0 c, e.of 1 c with
  | a :: _, b :: _ => a.kind ≠ .eos && b.kind ≠ .eos
  | a :: _, [] => a.isBad
  | [], b :: _ => b.isBad
  | [], [] => false

/-- A colour whose EOS stands at the head of an input. -/
def fibreEos (e : ElemState) : Option (Nat × Token) :=
  e.queue.find? fun (i, t) => t.kind = .eos && (e.of i t.colour).head? == some t

def dropHead (e : ElemState) (input : Nat) (c : Colour) : ElemState :=
  { e with queue := e.queue.eraseP fun x => x.1 == input && x.2.colour == c }

/-- One comparison of an element, of the first colour that allows one. -/
def fibreAct (union : Bool) : Act := .look fun s =>
  let id := s.m.at_.id
  match s.elem? id with
  | none => .quiet
  | some e0 =>
    let ok := match e0.rcd.kind with
      | .isect => !union
      | .union => union
      | _ => false
    if !ok || e0.frozen || !s.issues e0.cfg || s.halted e0.rcd.core then .quiet
    else (elemAbsorb id 64).andThen (.look fun s =>
      match s.elem? id with
      | none => .quiet
      | some e =>
        match e.queue.find? fun x => fibreReady e x.2.colour with
        | some (_, x) =>
          let c := x.colour
          match e.of 0 c, e.of 1 c with
          | a :: _, b :: _ =>
            let (t, da, db) := fibreStep union a b
            Act.seq [modElem id fun e => (let e' := if da then dropHead e 0 c else e; if db then dropHead e' 1 c else e'),
              elemOuts e t.toList]
          | a :: _, [] => (modElem id fun e => dropHead e 0 c).andThen
              (elemOut e (mkTok c a.kind a.seq (padLanes 3 a.lanes)))
          | [], b :: _ => (modElem id fun e => dropHead e 1 c).andThen
              (elemOut e (mkTok c b.kind b.seq (padLanes 3 b.lanes)))
          | [], [] => .quiet
        | none =>
          match fibreEos e with
          | some (i, t) => (modElem id fun e => dropHead e i t.colour).andThen (elemEosIn id i 2 t fun _ => .quiet)
          | none => elemFreeze id)

/-- R210: element `id` compares the heads of its two fibres. -/
def execIsectElement (s : State) : Host.Outcome State Fault Refusal := .next ((fibreAct false).run s)

/-- R210: element `id` merges the heads of its two fibres. -/
def execUnionElement (s : State) : Host.Outcome State Fault Refusal := .next ((fibreAct true).run s)

/-! ## Sparse accumulation (13 R231) -/

/-- Whether tokens of an element wait at a tile's port, or have been refused there: an EOS or a wedge stays behind them. -/
def State.elemHeld (s : State) (e : ElemState) : Bool :=
  let own (h : PortHeld) : Bool := h.issuer == some (elemUnit e.rcd.id)
  s.m.clusters.any (fun (_, k) => k.held.any fun x => own x.2) || s.m.pkg.refused.any fun x => own x.2

/-- R231: message k, a token of a sparse-accumulator element, reaches its tile's port, which holds it until the tile is READY (R199). -/
def execSpaccElement (s : State) : Host.Outcome State Fault Refusal :=
  .next ((elemEvent (fun k => match k with
      | .spacc _ => true
      | _ => false) (fun s e t => !((t.kind == .eos || t.kind == .wedge) && s.elemHeld e)) 1 noFlush fun e _ t =>
    match e.rcd.kind with
    | .spacc w => .look fun s =>
      let x : TileEv := ⟨⟨e.rcd.core, 0, 0, 0, 0, t.colour, 0⟩, clusterOf e.rcd.core, bits w.toNat 24 8, .elem e.rcd.id t⟩
      tileArrive (x.port s) x
    | _ => .quiet).run s)

/-! ## Voters (19 R323) -/

/-- Equal in kind, width and payload. -/
def sameTok (a b : Token) : Bool := a.kind == b.kind && a.lanes == b.lanes

def voteRecord (e : ElemState) (c : Colour) (seq : BitVec 16) (copy : Nat) : Act :=
  record { Record.blank with code := Code.vote, col := c, site := e.rcd.core, seq := seq, detail := copy }

/-- The copies of a colour not marked out. -/
def liveCopies (e : ElemState) (c : Colour) : List Nat := (upFrom 3 0).filter fun i => !e.marked.contains (i, c)

/-- Sequences that every copy still compared has shown are done with. -/
def settleVotes (e : ElemState) : ElemState :=
  { e with voted := e.voted.filter fun (_, c, _, seen) => !(liveCopies e c).all seen.contains }

/-- How many of a colour's decided sequences stand behind the last that a copy has shown. -/
def behindBy (e : ElemState) (c : Colour) (copy : Nat) : Nat :=
  ((e.voted.filter fun x => x.2.1 == c).reverse.takeWhile fun x => !x.2.2.2.contains copy).length

/-- A copy 64 sequences behind the others is marked out, once. -/
def markBehind (id : Nat) (c : Colour) : Act := .look fun s =>
  match s.elem? id with
  | none => .quiet
  | some e =>
    match (liveCopies e c).find? fun i => 64 ≤ behindBy e c i with
    | some i => (modElem id fun e => settleVotes { e with marked := (i, c) :: e.marked }).andThen (voteRecord e c 0 i)
    | none => .quiet

/-- A sequence of a colour is decided: its token leaves, its copies are out of the buffer. `how` is 0 where a copy still to come is compared
with it, and 1 where it ended in poison. -/
def decide_ (id : Nat) (how : Nat) (t : Token) (seen : List Nat) : Act := .look fun s =>
  match s.elem? id with
  | none => .quiet
  | some e =>
    (elemOut e t).andThen (modElem id fun e => settleVotes { e with
      queue := e.queue.filter fun x => !(x.2.colour == t.colour && x.2.seq == t.seq)
      voted := e.voted ++ [(how, t.colour, t, seen)] })

/-- A token of a copy. -/
def voteToken (e : ElemState) (copy : Nat) (t : Token) : Act :=
  let id := e.rcd.id
  let c := t.colour
  if e.marked.contains (copy, c) then .quiet
  else
    match e.voted.find? fun (_, d, u, seen) => d == c && u.seq == t.seq && !seen.contains copy with
    | some (n, d, u, seen) =>
      Act.seq [
        .when (n = 0 && !sameTok u t) (voteRecord e c t.seq copy),
        modElem id fun e => settleVotes { e with
          voted := e.voted.map fun x => if x = (n, d, u, seen) then (n, d, u, copy :: seen) else x } ]
    | none =>
      let others := e.queue.filter fun x => x.2.colour == c && x.2.seq == t.seq && x.1 != copy
      if others.any fun x => sameTok x.2 t then (decide_ id 0 t (copy :: others.map Prod.fst)).andThen (markBehind id c)
      else
        if 2 ≤ others.length then
          Act.seq [voteRecord e c t.seq copy,
            decide_ id 1 (mkTok c .poison t.seq (List.replicate t.lanes.length 0)) [0, 1, 2]]
        else (modElem id fun e => { e with queue := e.queue ++ [(copy, t)] }).andThen (markBehind id c)

/-- R323: message k, a token of a copy at a voter. -/
def execVoterToken (s : State) : Host.Outcome State Fault Refusal :=
  .next ((elemEvent (fun k => k = .voter) always 2 noFlush voteToken).run s)

/-- R323: the oldest sequence of voter `id` for which two differing tokens wait ends in poison and a VOTE record. -/
def execVoterTimeout (s : State) : Host.Outcome State Fault Refusal :=
  .next ((Act.look fun s =>
    match s.elem? s.m.at_.id with
    | none => .quiet
    | some e =>
      if s.halted e.rcd.core then .quiet else
      match e.queue.find? fun x => 2 ≤ (e.queue.filter fun y => y.2.colour == x.2.colour && y.2.seq == x.2.seq).length with
      | some (_, t) =>
        let seen := (e.queue.filter fun y => y.2.colour == t.colour && y.2.seq == t.seq).map Prod.fst
        (voteRecord e t.colour t.seq (((upFrom 3 0).find? fun i => !seen.contains i).getD 3)).andThen
          (decide_ e.rcd.id 1 (mkTok t.colour .poison t.seq (List.replicate t.lanes.length 0)) seen)
      | none => .quiet).run s)

end Sys2Proof.Machine
end

