-- ==== Sys2Proof/Machine/Seal.lean ====
section
/-! DEFINITION. Seal engines, elements and instructions (spec 19 R317 to R321, 21 R354, R355). -/

namespace Sys2Proof.Machine

/-! ## Records (R320) -/

/-- The bytes that a signature of an algorithm has. -/
def sigLen (alg : BitVec 2) : Nat :=
  match alg.toNat with
  | 0 => 96
  | 1 => 64
  | _ => 3309

/-- 48 bytes as six little-endian words of eight bytes are those bytes. -/
def pad48 (bs : List Byte) : List Byte := (bs ++ List.replicate 48 0).take 48

/-- The digest of what a session has hashed. -/
def Session.digest (x : Session) : List Byte := if x.sha3 then sha3_384 x.input else sha384 x.input

/-- The 128 bytes of a record. -/
def Session.bytes (x : Session) (boot : Nat) : List Byte :=
  let alg := Config.slotAlg x.slot
  let w0 := 0x56534C52 * 2 ^ 32 + 2 ^ 24 + x.status * 2 ^ 16 + x.cause * 2 ^ 8 + x.colour.toNat
  let w1 := x.slot * 2 ^ 58 + (if x.sha3 then 2 ^ 57 else 0) + alg.toNat * 2 ^ 54 + x.sid.toNat
  let w2 := x.count % 2 ^ 32 * 2 ^ 32 + x.first.toNat * 2 ^ 16 + x.last.toNat
  leBytes 8 w0 ++ leBytes 8 w1 ++ leBytes 8 w2 ++ pad48 x.digest ++ pad48 x.meas ++
    leBytes 8 (sigLen alg * 2 ^ 48 + boot % 2 ^ 48)

/-- The signature over a record: ECDSA signs the SHA-384 of its bytes (R320); its value is free (log 9). -/
def Session.signature (x : Session) (rec_ : List Byte) : List Byte :=
  let alg := Config.slotAlg x.slot
  (Config.signature x.slot (if alg = 0 then sha384 rec_ else rec_) ++ List.replicate (sigLen alg) 0).take (sigLen alg)

/-- The lines of a session's signature, behind its record. -/
def sealLines (x : Session) (rec_ : List Byte) : List (Nat × List Byte) :=
  let sig := x.signature rec_
  (upFrom ((sig.length + 127) / 128) 0).map fun i => (x.va + 128 + 128 * i, (sig.drop (128 * i)).take 128)

def modSession (x : Session) (f : Session → Session) : Act := .pkg fun p =>
  { p with sessions := p.sessions.map fun y =>
      if y.engine = x.engine && y.index = x.index && y.gen = x.gen then f y else y }

def genKey (engine index : Nat) : Nat := engine * 64 + index

/-- The session is over: its handle goes stale. -/
def dropSession (x : Session) : Act := .pkg fun p => { p with
  sessions := p.sessions.filter fun y => !(y.engine == x.engine && y.index == x.index && y.gen == x.gen)
  gens := tput p.gens (genKey x.engine x.index) ((x.gen + 1) % 256) }

/-- The write of a session's record is frozen by a fault (R320, R355). -/
def sealFault (x : Session) (code detail addr : Nat) : Act :=
  (modSession x fun y => { y with phase := .frozen }).andThen
    (record ⟨code, x.colour, 2, true, x.who.core, x.who.frame, x.who.wave, 0, x.who.slot, x.seq, detail, addr, 0⟩)

def sealUnit : Nat := 91000

/-- The completion of a seal command. -/
def sealDone (c : Cmd) (ls : List Lane) : Act := (cmdDone c classE).andThen (cmdReply sealUnit c ls)

def Session.handle (x : Session) : Nat := x.gen * 256 + x.engine * 64 + x.index

/-- The engine may go on with a session's write: the session has ended, or a write is acknowledged. -/
def sealGo (src : Nat) (x : Session) : Act := send src Party.engine.unit .q1 (.ans ⟨.engine, 2 ^ 21 + x.handle, .ack⟩)

/-- The session whose write an acknowledgement lets go on. -/
def State.sealing? (s : State) (piece : Nat) : Option Session :=
  s.m.pkg.sessions.find? fun x => x.phase == .ended && 2 ^ 21 + x.handle == piece

/-- The record has been written: what waits for it is answered (R355), and the session is over. -/
def sealWritten (x : Session) : Act := (Act.each x.asks fun c => sealDone c (match c.kind with
  | .sealc _ => [0]
  | _ => [1, BitVec.ofNat 32 x.count, x.last.setWidth 32])).andThen (dropSession x)

/-- An ended session's next write, as one event at its home, translated as class E (R320): of the lines of its signature one that is left, which the
latch chooses; with all of them acknowledged the record. -/
def sealStep (take : Act) (x : Session) : Act := .look fun s =>
  let rec_ := x.bytes s.m.pkg.mgmt.boot
  let sig := sealLines x rec_
  let left := (upFrom sig.length 0).filter fun i => !x.wrote.contains i
  let i := left.getD (s.m.at_.j % left.length) sig.length
  let (va, bs) := sig.getD i (x.va, rec_)
  match s.xlate x.colour classE true va with
  | .error e => take.andThen (sealFault x Code.xlate e.code va)
  | .ok (h, m) =>
    if s.away (siteDie x.who.core) h then .quiet
    else if (s.presenceOf h m = .wo && !(wordsOf h 1).all fun w => s.presAt (4 * w) = .empty || s.presAt (4 * w) = .defer) ||
        (s.engineRefusal h (bs.length / 4 * 4) m).isSome then take.andThen (sealFault x Code.woRewrite 0 va)
    else Act.seq [
      take,
      engineWrite x.colour h m (plainBytes bs),
      if left.isEmpty then sealWritten x else (modSession x fun y => { y with wrote := y.wrote ++ [i] }).andThen (sealGo (unitOf h) x) ]

/-- A frozen write goes on where it stood (R355). -/
def sealResume (x : Session) : Act := (modSession x fun y => { y with phase := .ended }).andThen (sealGo sealUnit x)

/-- A session ends under a status and a cause (R319): its engine begins the write of one record. -/
def sealEnd (x : Session) (status cause : Nat) : Act :=
  if x.phase ≠ .opened then .quiet
  else .look fun s =>
    let meas := ((tget? s.m.pkg.confs x.cfg).map ConfState.meas).getD []
    (modSession x fun y => { y with status := status, cause := cause, phase := .ended, meas := meas }).andThen (sealGo sealUnit x)

/-! ## The element (R318, R319) -/

/-- The open session of an element and a colour. -/
def State.session? (s : State) (elem : Nat) (c : Colour) : Option Session :=
  s.m.pkg.sessions.find? fun x => x.elem == elem && x.colour == c && x.phase == .opened

/-- What a token adds to the hash's input. -/
def sealBytes (t : Token) : List Byte :=
  leBytes 2 t.seq.toNat ++ [if t.kind = .stop then 0x04 else 0x00, BitVec.ofNat 8 (t.lanes.length - 1), 0, 0, 0, 0] ++
    laneBytes t.lanes

/-- A token of a colour without an open session is counted and recorded (which counter: log 27). -/
def sealNone (e : ElemState) (t : Token) : Act := (countDiscard t.colour).andThen
  (record { Record.blank with code := Code.sealNosess, col := t.colour, site := e.rcd.core, seq := t.seq, addr := t.tag.toNat })

/-- A token at a seal element. -/
def sealToken (e : ElemState) (_ : Nat) (t : Token) : Act := .look fun s =>
  (match s.session? e.rcd.id t.colour with
    | none => sealNone e t
    | some x =>
      if t.kind = Kind.error then sealEnd x 2 1
      else if t.kind = Kind.poison then sealEnd x 2 2
      else modSession x fun y => { y with
        input := y.input ++ sealBytes t, count := y.count + 1, first := if y.count = 0 then t.seq else y.first, last := t.seq }).andThen
    (elemOut e t)

/-- EOS ends the colour's session before it is forwarded. -/
def sealEos (t : Token) (e : ElemState) : Act := .look fun s =>
  match s.session? e.rcd.id t.colour with
  | some x => if x.faulted then sealEnd x 2 6 else sealEnd x 1 0
  | none => sealNone e t

/-- R318: message k, a token of a seal element: forwarded, and hashed into its colour's session or ending it. -/
def execSealElementToken (s : State) : Host.Outcome State Fault Refusal :=
  .next ((elemEvent (fun k => match k with
      | .seal _ => true
      | _ => false) always 1 sealEos sealToken).run s)

/-! ## Commands (R355) -/

/-- The e-th seal element of a configuration, in declaration order: that of the elements' numbers in the image (log 115). -/
def State.sealElem (s : State) (cfg e : Nat) : Option ElemState :=
  ((sortRel (fun a b : Nat × ElemState => a.1 < b.1) s.m.pkg.elems |>.filter fun (_, x) => x.cfg == cfg && (match x.rcd.kind with
    | .seal _ => true
    | _ => false)).map Prod.snd)[e]?

def openOn (s : State) (engine : Nat) : Nat := (s.m.pkg.sessions.filter fun x => x.engine == engine && x.phase == .opened).length

/-- The engine and the place of a new session: on the engine with fewer open ones, 0 on a tie; where the records that it has still to write leave no
place there, on the other (log 142). -/
def State.sealPlace (s : State) : Option (Nat × Nat) :=
  let free (e : Nat) : Option (Nat × Nat) :=
    ((upFrom 64 0).find? fun i => !s.m.pkg.sessions.any fun x => x.engine == e && x.index == i).map (e, ·)
  let e := if openOn s 0 ≤ openOn s 1 then 0 else 1
  (free e).orElse fun _ => free (1 - e)

/-- `sealo`: the status, or the session opened. -/
def sealoPerform (c : Cmd) (ps : List (List Lane)) : Act := .look fun s =>
  let status (n : Nat) : Act := sealDone c [BitVec.ofNat 32 n, 0]
  match s.sealElem c.cfg (param ps 2 0) with
  | none => status 2
  | some e =>
    let word := match e.rcd.kind with
      | .seal w => w
      | _ => 0
    if s.sealPlace.isNone then status 1
    else if (s.session? e.rcd.id c.who.colour).isSome then status 2
    else if !Config.slotProvisioned (bits word.toNat 26 6) (s.vdevKey c.who.colour) then status 3
    else
      match s.sealPlace with
      | none => status 1
      | some (engine, i) =>
        let g := tgetD 0 s.m.pkg.gens (genKey engine i)
        (Act.pkg fun p => { p with sessions := p.sessions ++ [{
            engine := engine, index := i, gen := g, cfg := c.cfg, elem := e.rcd.id, colour := c.who.colour
            slot := bits word.toNat 26 6, sha3 := word.getLsbD 25, va := paramAddr .g ps 0
            sid := BitVec.ofNat 32 (param ps 1 0), input := [], count := 0, first := 0, last := 0, faulted := false
            status := 0, cause := 0, phase := .opened, meas := [], wrote := [], asks := [], who := c.who, seq := c.l.seq }] }).andThen
          (sealDone c [0, BitVec.ofNat 32 (g * 256 + engine * 64 + i)])

/-- The session that a handle names. -/
def State.handle? (s : State) (h : Nat) : Option Session :=
  if bits h 16 16 ≠ 0 || bits h 7 1 ≠ 0 then none
  else s.m.pkg.sessions.find? fun x => x.engine == bits h 6 1 && x.index == bits h 0 6 && x.gen == bits h 8 8

/-- A seal command reaches its engine. `sealc` is answered once the record is written, and so is a `seals` that finds the session ended and its
record not yet written (log 142). -/
def sealSend (c : Cmd) : Act :=
  match c.kind with
  | .sealo ps => sealoPerform c ps
  | .sealc ps => .look fun s =>
    match s.handle? (param ps 0 0) with
    | some x => if x.phase = .opened then (waits c x).andThen (sealEnd x 2 5) else sealDone c [1]
    | none => sealDone c [1]
  | .seals ps => .look fun s =>
    match s.handle? (param ps 0 0) with
    | some x => if x.phase = .opened then sealDone c [0, BitVec.ofNat 32 x.count, x.last.setWidth 32] else waits c x
    | none => sealDone c [2, 0, 0]
  | _ => .quiet
where
  waits (c : Cmd) (x : Session) : Act := modSession x fun y => { y with asks := y.asks ++ [c] }

/-! ## The instructions -/

/-- R355: a session opened; a record address that is not 128-byte aligned is MISALIGN. -/
def execSealo (f : FormX) (s : State) : Host.Outcome State Fault Refusal :=
  .next ((xcmd 0x1A0 f 2 fun _ _ ps =>
    if paramAddr .g ps 0 % 128 ≠ 0 then .error Code.misalign
    else .ok (.sealo (ps ++ [[BitVec.ofNat 32 (f.flags.toNat % 256)]]))).run s)

/-- R355: a session closed. -/
def execSealc (f : FormX) (s : State) : Host.Outcome State Fault Refusal :=
  .next ((xcmd 0x1A1 f 1 fun _ _ ps => .ok (.sealc ps)).run s)

/-- R355: a session's state. -/
def execSeals (f : FormX) (s : State) : Host.Outcome State Fault Refusal :=
  .next ((xcmd 0x1A2 f 1 fun _ _ ps => .ok (.seals ps)).run s)

end Sys2Proof.Machine
end

