-- ==== Sys2Proof/Machine/Die.lean ====
section
/-! DEFINITION. Die instructions (spec 17): streamer commands and the streamer islands (R289 to R294, 12 R206, 16 R276),
`xfence`, `trap`, the system registers, `fltr`, `resume`, `plook`, `cntr`, `yield`; walks and invalidations (15 R250, R261,
R262). -/

namespace Sys2Proof.Machine

/-! ## Streamer commands at firing (R287, R289, R290) -/

def spaceOf (n : Nat) : Space :=
  match n % 4 with
  | 0 => .k
  | 1 => .s
  | 2 => .g
  | _ => .p

def srcSpace (f : FormX) : Space := spaceOf (bits f.var.toNat 3 2)
def dstSpace (f : FormX) : Space := spaceOf (bits f.var.toNat 1 2)
def ixSpace (f : FormX) : Space := spaceOf (bits f.flags.toNat 3 2)

/-- The element size of a gather or scatter (R287). -/
def elemSize (z : Nat) : Nat :=
  match z with
  | 0 => 1
  | 1 => 2
  | 2 => 4
  | 3 => 8
  | _ => 128

/-- The checks made at firing, the first breach winning. -/
def firstBreach : List (Bool × Nat) → Except Nat Unit
  | [] => .ok ()
  | (b, c) :: rest => if b then .error c else firstBreach rest

/-- A range that needs no home breaks R152 or R175 (R289): `.g` is left to translation. -/
def spaceBreach (sp : Space) (a n : Nat) : Bool × Nat :=
  match sp with
  | .g => (false, 0)
  | sp => match rangeFault sp a 0 n with
    | some c => (true, c)
    | none => (false, 0)

/-- Whether two ranges meet. -/
def meets (a n b k : Nat) : Bool := a < b + k && b < a + n && 0 < n && 0 < k

/-- R291: a copy. -/
def execCpy (f : FormX) (s : State) : Host.Outcome State Fault Refusal :=
  .next ((xcmd 0x180 f 3 fun _ _ ps =>
    let src := srcSpace f
    let dst := dstSpace f
    let a := paramAddr src ps 0
    let b := paramAddr dst ps 1
    let n := param ps 2 0
    (firstBreach [spaceBreach src a n, spaceBreach dst b n,
      (src = dst && meets a n b n && a < b, Code.strOverlap)]).map fun _ => .cpy src dst a b n).run s)

/-- A gather's or scatter's parameters. -/
def gatherAt (o : Nat) (f : FormX) (scatter : Bool) : Act :=
  xcmd o f 4 fun _ _ ps =>
    let src := srcSpace f
    let dst := dstSpace f
    let ix := ixSpace f
    let a := paramAddr src ps 0
    let b := paramAddr dst ps 1
    let i := paramAddr ix ps 2
    let v := param ps 3 0
    let n := bits v 0 24
    let size := elemSize (bits f.flags.toNat 0 3)
    (firstBreach [(bits v 24 8 ≠ 0, Code.strParam), (i % 4 ≠ 0, Code.strParam),
      (a % size ≠ 0 || b % size ≠ 0, Code.misalign),
      spaceBreach ix i (4 * n),
      (if scatter then spaceBreach src a (n * size) else spaceBreach dst b (n * size)),
      (!scatter && dst = ix && meets b (n * size) i (4 * n), Code.strOverlap)]).map fun _ =>
        if scatter then .scat src dst ix a b i n size else .gath src dst ix a b i n size

/-- R291: a gather. -/
def execGath (f : FormX) (s : State) : Host.Outcome State Fault Refusal := .next ((gatherAt 0x181 f false).run s)

/-- R291: a scatter. -/
def execScat (f : FormX) (s : State) : Host.Outcome State Fault Refusal := .next ((gatherAt 0x182 f true).run s)

/-- The parameters of a tile command: the address and the tile. -/
def tileParams (sp : Space) (ps : List (List Lane)) : Except Nat (Nat × Nat) :=
  let a := paramAddr sp ps 0
  let v := param ps 1 0
  (firstBreach [(a % 128 ≠ 0, Code.strParam), (bits v 8 24 ≠ 0, Code.strParam)]).map fun _ => (a, v)

/-- R292: a tile filled. -/
def execTfill (f : FormX) (s : State) : Host.Outcome State Fault Refusal :=
  .next ((xcmd 0x183 f 2 fun _ _ ps => (tileParams (srcSpace f) ps).map fun (a, t) => .tfill (srcSpace f) a t).run s)

/-- R292: a tile drained. -/
def execTdrain (f : FormX) (s : State) : Host.Outcome State Fault Refusal :=
  .next ((xcmd 0x184 f 2 fun _ _ ps => (tileParams (dstSpace f) ps).map fun (a, t) =>
    .tdrain (dstSpace f) a t (f.flags.getLsbD 5)).run s)

/-! ## The streamer islands (R291 to R293, 12 R206, 16 R276) -/

/-- The streamer island of an issuing core: cluster (cx, 0) of its die. -/
def islandOf (core : Nat) : Nat := siteDie core * 4 + siteX core / 16

/-- A virtual device's command at work on an island: its first in arrival order. -/
def State.streamHead (s : State) (x : StreamCmd) : Bool :=
  match s.m.pkg.streams.find? fun c => islandOf c.cmd.who.core == islandOf x.cmd.who.core && c.vdev == x.vdev with
  | some c => c.id == x.id
  | none => false

def StreamCmd.bytes (x : StreamCmd) : Nat :=
  match x.cmd.kind with
  | .cpy _ _ _ _ n => n
  | .gath _ _ _ _ _ _ n size => n * size
  | .scat _ _ _ _ _ _ n size => n * size
  | _ => x.extent * 128

/-- The index array's word i. -/
def StreamCmd.index (x : StreamCmd) (i : Nat) : Nat := leNat ((x.idx.drop (4 * i)).take 4)

/-- The next event of a command: a read of index bytes or of data, a write at a destination, each in a range that begins at `base`, a zero
element (R291), or none. -/
inductive StreamEv where
  | ixRead (sp : Space) (base a n : Nat)
  | read (sp : Space) (base a n : Nat)
  | zero (n : Nat)
  | write (sp : Space) (base a n : Nat)
  | skip
  | none

/-- The bytes from an address to the end of its line, at most n. -/
def lineLen (a n : Nat) : Nat := min n (128 - a % 128)

/-- A copy between addresses: the writes as far as what has been read allows. -/
def copyNext (x : StreamCmd) (src dst : Space) (sa da n : Nat) : StreamEv :=
  let k := lineLen (da + x.wrote) (n - x.wrote)
  if n ≤ x.wrote then .none
  else if x.wrote + k ≤ x.reads then .write dst da (da + x.wrote) k
  else .read src sa (sa + x.reads) (lineLen (sa + x.reads) (n - x.reads))

def StreamCmd.next (x : StreamCmd) : StreamEv :=
  match x.cmd.kind with
  | .cpy src dst sa da n => copyNext x src dst sa da n
  | .tfill src sa t => copyNext x src .s sa (tileOf t) (128 * x.extent)
  | .tdrain dst da t _ => copyNext x .s dst (tileOf t) da (128 * x.extent)
  | .gath src dst ix sa da ia n size =>
    if x.idx.length < 4 * n then .ixRead ix ia (ia + x.idx.length) (lineLen (ia + x.idx.length) (4 * n - x.idx.length))
    else if x.reads < n * size then
      let k := x.index (x.reads / size)
      if k = 0xFFFFFFFF then .zero size else .read src sa (sa + k * size) size
    else if x.wrote < n * size then
      .write dst da (da + x.wrote) (lineLen (da + x.wrote) (n * size - x.wrote))
    else .none
  | .scat src dst ix sa da ia n size =>
    if x.wrote < n * size then
      let i := x.wrote / size
      let k := x.index i
      if x.idx.length ≤ 4 * i then .ixRead ix ia (ia + 4 * i) 4
      else if k = 0xFFFFFFFF then .skip
      else if x.reads ≤ x.wrote then .read src sa (sa + i * size) size
      else .write dst da (da + k * size) size
    else .none
  | _ => .none
where
  /-- The slice address of the tile's first line, noted when the tile event was performed. -/
  tileOf (_ : Nat) : Nat := leNat x.idx

/-- The tile of a command that is at work on one. -/
def StreamCmd.tile? (x : StreamCmd) : Option Nat :=
  match x.cmd.kind with
  | .tfill _ _ t => some t
  | .tdrain _ _ t _ => some t
  | _ => none

/-- The source words that read ERR or poison among bytes at an address. -/
def badWordsOf (a : Nat) (bs : List EngByte) : Nat :=
  ((wordsOf a bs.length).filter fun w =>
    ((bs.zip (upFrom bs.length a)).any fun (b, at_) => at_ / 4 == w && b.2.isSome)).length

/-- An access that waits at its home: what the home answers is the access's outcome. -/
def streamWait (x : StreamCmd) (r : Req) : Act :=
  (modStream x.id fun c => { c with waiting := true }).andThen (reqArrive (unitOf r.addr) r)

/-- Where a command's access goes; one that runs past the end of the bank which its range begins in is BANK_RANGE, for the sum of a place and an
offset carries into no other place (09 R152, 10 R175). -/
def streamHome (s : State) (x : StreamCmd) (sp : Space) (base a n : Nat) (write : Bool) : Except (Nat × Nat) (Nat × PageMode) :=
  if sp = .p && 2 ^ 16 < base % 2 ^ 16 + (a - base) + n then .error (Code.bankRange, 0) else engineHome s x.cmd classS sp a n write

/-- The die of a command's streamer island. -/
def StreamCmd.die (x : StreamCmd) : Nat := siteDie x.cmd.who.core

/-- A read event: at its home, or waiting there, or on its way. -/
def streamRead (x : StreamCmd) (sp : Space) (base a n : Nat) (use : StreamCmd → List EngByte → StreamCmd) : Act := .look fun s =>
  match x.got with
  | some v => modStream x.id fun c => use { c with got := none } (v.engBytes n)
  | none =>
    match streamHome s x sp base a n false with
    | .error (c, d) => streamFault x c d a
    | .ok (h, m) =>
      if s.away x.die h then .quiet else
      let r := engineReq (.streamer x.id) x.cmd sp a h n m .load x.tile?
      if s.engineHeld r || s.engineDefers h n m then streamWait x r
      else (checked h n).andThen (modStream x.id fun c => use c (s.engineBytes h n m))

/-- A write event: at its home, or waiting there, or on its way. -/
def streamWrite (x : StreamCmd) (sp : Space) (base a n : Nat) : Act := .look fun s =>
  let done : Act := modStream x.id fun c => { c with got := none, buf := c.buf.drop n, wrote := c.wrote + n }
  match x.got with
  | some (.refused c) => (modStream x.id fun c => { c with got := none }).andThen (streamFault x c 0 a)
  | some _ => done
  | none =>
    match streamHome s x sp base a n true with
    | .error (c, d) => streamFault x c d a
    | .ok (h, m) =>
      if s.away x.die h then .quiet else
      let r := engineReq (.streamer x.id) x.cmd sp a h n m (.store (.line (x.buf.take n))) x.tile?
      if s.engineHeld r then streamWait x r
      else
        match s.engineRefusal h n m with
        | some c => streamFault x c 0 a
        | none => (engineWrite x.cmd.who.colour h m (x.buf.take n)).andThen done

/-- The read that a copy may make before the write that it could make (R291 orders a write behind its reads alone), where nothing holds the
read up. -/
def State.readAhead (s : State) (x : StreamCmd) : Option StreamEv :=
  let ask (sp : Space) (base a n : Nat) : Option StreamEv :=
    match streamHome s x sp base a n false with
    | .ok (h, m) =>
      if s.away x.die h || s.engineDefers h n m || s.engineHeld (engineReq (.streamer x.id) x.cmd sp a h n m .load x.tile?) then none
      else some (.read sp base a n)
    | .error _ => none
  let copy (sp : Space) (base n : Nat) : Option StreamEv :=
    if x.reads < n && x.got.isNone then ask sp base (base + x.reads) (lineLen (base + x.reads) (n - x.reads)) else none
  match x.cmd.kind with
  | .cpy src _ sa _ n => copy src sa n
  | .tfill src sa _ => copy src sa (128 * x.extent)
  | .tdrain _ _ _ _ => copy .s (leNat x.idx) (128 * x.extent)
  | _ => none

/-- One event of a command (R291); `ahead` where a copy may read on before it writes. -/
def streamStep (x : StreamCmd) (ahead : Bool) : Act := .look fun s =>
  match (if ahead then s.readAhead x else none).getD x.next with
  | .ixRead sp base a n => streamRead x sp base a n fun c bs => { c with idx := c.idx ++ bs.map Prod.fst }
  | .read sp base a n => streamRead x sp base a n fun c bs =>
      { c with buf := c.buf ++ bs, reads := (match c.cmd.kind with
          | .scat .. => c.wrote + n
          | _ => c.reads + n), badWords := c.badWords + badWordsOf a bs }
  | .zero n => modStream x.id fun c => { c with buf := c.buf ++ List.replicate n (0, none), reads := c.reads + n }
  | .skip => modStream x.id fun c => { c with wrote := c.wrote + (match c.cmd.kind with
      | .scat _ _ _ _ _ _ _ size => size
      | _ => 1) }
  | .write sp base a n => streamWrite x sp base a n
  | .none => modStream x.id fun c => { c with written := true }

/-- A tile command at its tile's port (R292): its event goes there; once that is performed, LEN and BASE are read, and the extent is
checked. -/
def streamTile (x : StreamCmd) (tile : Nat) : Act := .look fun s =>
  let k := s.m.cluster x.cluster
  let e := k.tile tile
  if !x.asked then
    let ev : TileEv := ⟨x.cmd.who, x.cluster, tile, (match x.cmd.kind with
      | .tfill .. => .fill x.id
      | _ => .drain x.id)⟩
    (modStream x.id fun c => { c with asked := true }).andThen
      (send (Party.streamer x.id).unit (20000 + x.cluster * 16 + tileBase (k.copyOf tile) / 2048) .q0 (.tile ev))
  else if !x.started then .quiet
  else
    let lines := tileLen e + 1
    let bad : Option (Nat × Nat × Nat) := match x.cmd.kind with
      | .tfill sp a _ => extentBad s sp a lines false
      | .tdrain sp a _ _ => extentBad s sp a lines true
      | _ => none
    match bad with
    | some (c, d, a) => streamFault x c d a
    | none => modStream x.id fun c => { c with extent := lines, idx := leBytes 4 (tileBase e * 128) }
where
  /-- The first breach of a range of lines, with its address. -/
  extentBad (s : State) (sp : Space) (a lines : Nat) (write : Bool) : Option (Nat × Nat × Nat) :=
    (upFrom lines 0).findSome? fun i =>
      match streamHome s x sp a (a + 128 * i) 128 write with
      | .error (c, d) => some (c, d, a + 128 * i)
      | .ok _ => none

/-- Whether a command has an event to perform now. -/
def State.streamCan (s : State) (x : StreamCmd) : Bool :=
  !x.frozen && !x.waiting && !x.written && !s.halted x.cmd.who.core && s.streamHead x && !(x.tile?.isSome && x.asked && !x.started)

/-- The command that an island serves next: round-robin over the virtual devices that have one (R276). -/
def State.streamPick (s : State) (isl : Nat) : Option StreamCmd :=
  let can := s.m.pkg.streams.filter fun x => islandOf x.cmd.who.core == isl && s.streamCan x
  let ptr := tgetD 0 s.m.pkg.rrStream isl
  (upFrom 33 0).findSome? fun i => can.find? fun x => x.vdev == (ptr + i) % 33

/-- R291: the island of command `id` performs the next event of the command that it serves; a copy may read on before it writes, which the
latch's `j` chooses. -/
def execStreamerExecute (s : State) : Host.Outcome State Fault Refusal :=
  .next ((Act.look fun s =>
    match s.stream? s.m.at_.id with
    | none => .quiet
    | some y =>
      let isl := islandOf y.cmd.who.core
      match s.streamPick isl with
      | none => .quiet
      | some x =>
        (Act.pkg fun p => { p with rrStream := tput p.rrStream isl ((x.vdev + 1) % 33) }).andThen (
          match x.tile? with
          | some t => if x.extent = 0 then streamTile x t else streamStep x (s.m.at_.j ≠ 0)
          | none => streamStep x (s.m.at_.j ≠ 0))).run s)

/-- What lane 0 of a completion counts (R291, R292). -/
def StreamCmd.count (x : StreamCmd) : Nat :=
  match x.cmd.kind with
  | .cpy _ _ _ _ n => n
  | .gath _ _ _ _ _ _ n _ => n
  | .scat _ _ _ _ _ _ n _ => n
  | _ => x.extent

/-- R293: command `id` has made its last write, and its tile has moved on: its completion goes to the reply target. -/
def execStreamerComplete (s : State) : Host.Outcome State Fault Refusal :=
  .next ((Act.look fun s =>
    match s.stream? s.m.at_.id with
    | none => .quiet
    | some x =>
      let moved := x.tile?.isNone || x.tileDone
      if x.written && !x.frozen && s.streamHead x && moved && !s.halted x.cmd.who.core then
        Act.seq [
          .pkg fun p => { p with streams := p.streams.filter fun c => c.id ≠ x.id },
          cmdDone x.cmd classS,
          cmdReply (Party.streamer x.id).unit x.cmd [BitVec.ofNat 32 x.count, BitVec.ofNat 32 x.badWords] ]
      else .quiet).run s)

/-! ## `xfence` and `trap` (R295, R296) -/

/-- The bytes fetched ahead are discarded for every queue of the colour's virtual device, for colour 0 for every queue of
the die. -/
def dropFetched (core : Nat) (c : Colour) : Act := .look fun s =>
  .pkg fun p => { p with queues := p.queues.map fun (k, q) =>
    (k, if q.desc.die = siteDie core && (c = 0 || q.desc.vdev = s.vdevOf c) then { q with fetched := [] } else q) }

/-- R295: performed where its gate lets it fire; the mask is delivered. -/
def execXfence (f : FormA) (s : State) : Host.Outcome State Fault Refusal :=
  .next ((fire 0x185 (.a f) noNull fun x =>
    (Act.when ((xfenceMask f).testBit classH) (dropFetched x.core x.colour)).andThen
      (x.emit f.c (x.data [BitVec.ofNat 32 (xfenceMask f)]))).run s)

/-- R296: TRAP, with the code in DETAIL and L's tag in ADDR. -/
def execTrap (f : FormA) (s : State) : Host.Outcome State Fault Refusal :=
  .next ((fire 0x186 (.a f) noNull fun x =>
    x.faultDetail Code.trap (f.imm.toNat % 2 ^ 16) (x.tagOf x.opTok)).run s)

/-! ## System registers (R297, R298) -/

/-- What a readable register holds, for an operator and a free cycle count. -/
def sysRead (s : State) (x : Ctx) (r : Nat) (cycle : Nat) : List Nat :=
  let cf := tget? s.m.pkg.confs x.a.cfg
  match r with
  | 0x000 => [x.colour.toNat]
  | 0x001 => [x.width]
  | 0x002 => [x.frame % 1024]
  | 0x003 => [x.idx % 256]
  | 0x004 => [x.w.block.toNat]
  | 0x005 => [x.n.info.handle.toNat]
  | 0x006 => [s.relPlace x.a.cfg x.core]
  | 0x007 => [if x.colour = 0 then 2 ^ 31 else s.vdevOf x.colour]
  | 0x008 => [(cf.map fun f => (f.w - 1) * 2 ^ 27 + (f.h - 1) * 2 ^ 23).getD 0]
  | 0x009 => [cycle % 2 ^ 32, cycle / 2 ^ 32]
  | 0x00A => [(cf.map fun f => tgetD 0 f.live x.colour.toNat).getD 0]
  | 0x100 => [(siteWord x.core).toNat]
  | 0x101 => [(tgetD (0 : BitVec 64) s.m.pkg.errc (2 * siteDie x.core)).toNat,
      (tgetD (0 : BitVec 64) s.m.pkg.errc (2 * siteDie x.core + 1)).toNat]
  | _ => []

/-- R297: a register as it stands; the cycle count is a free value (log 3). -/
def execSysr (f : FormS) (s : State) : Host.Outcome State Fault Refusal :=
  .next ((fire 0x187 (.s f) noNull fun x => .look fun s =>
    let v := sysRead s x f.sreg.toNat (Config.freeCycle s.m.free).toNat
    (Act.when (f.sreg = 0x009) (.mod fun m => { m with free := m.free + 1 })).andThen
      (x.emit f.c (x.data (v.map fun n => BitVec.ofNat 32 n)))).run s)

/-- Whether the lanes of a request are as R298 lays them out. What is written to a reserved field is ignored (00 R4). -/
def syswOk (r : Nat) (ls : List Lane) : Bool :=
  let a := (ls.getD 0 0).toNat
  let b := (ls.getD 1 0).toNat
  match r with
  | 0x102 => (bits a 21 1 == 0 || bits a 16 5 == 0) && b ≤ 32768
  | 0x103 => true
  | 0x104 => true
  | _ => false

/-- `sysw`: checked now, requested at commit. -/
def syswAt (f : FormS) (r : Nat) : Act :=
  fire 0x188 (.s f) noNull fun x =>
    let l := x.opTok
    if l.isBad then (x.deliver0 f.c (x.pass l)).andThen (x.unless (x.record .errCount))
    else if l.kind = .stop then x.deliver0 f.c (x.err errStopMix)
    else if !syswOk r l.lanes then x.fault Code.sysValue
    else x.record (.sysw r l.lanes { x.pass l with seq := x.seq } (x.replyTarget f.c))

/-- R298: place-table invalidation. -/
def execSyswPinv (f : FormS) (s : State) : Host.Outcome State Fault Refusal := .next ((syswAt f 0x102).run s)
/-- R298: translation invalidation. -/
def execSyswXinv (f : FormS) (s : State) : Host.Outcome State Fault Refusal := .next ((syswAt f 0x103).run s)
/-- R298: pre-emption. -/
def execSyswPreempt (f : FormS) (s : State) : Host.Outcome State Fault Refusal := .next ((syswAt f 0x104).run s)

/-- A request's status to its reply target. -/
def statusReply (w : Nat) (c : Colour) (l : Token) (r : Option Reply) (v : Nat) : Act :=
  match r with
  | some t => send 90000 t.core .q1 (.reply t (mkTok c .data l.seq (padLanes w [BitVec.ofNat 32 v])))
  | none => .quiet

/-! ### Rounds (16 R277) -/

/-- A resident configuration enters a round: GATING, with every entry port gated. -/
def startRound (cfg : Nat) : Act := modConf cfg fun c =>
  if c.phase = .resident then
    { c with phase := .gating, entries := c.entries.map fun e => { e with gated := true } } else c

/-- Whether a configuration is in a pre-emption round. -/
def CfgPhase.inRound : CfgPhase → Bool
  | .gating => true
  | .wedging => true
  | .settling => true
  | .saving => true
  | _ => false

/-- The pre-emption requests whose configurations are all SAVED are answered. -/
def answerPreempts : Act := .look fun s =>
  let done (q : Nat × List Lane × Token × Option Reply × Colour) : Bool :=
    q.1 == 0x104 && q.2.1.all fun k =>
      match tget? s.m.pkg.confs k.toNat with
      | some f => f.phase == .saved || f.phase == .restoring || f.phase == .restored || f.phase == .resident
      | none => true
  (Act.each (s.m.pkg.sysPending.filter done) fun (_, _, l, r, c) => statusReply l.lanes.length c l r 0).andThen
    (.pkg fun p => { p with sysPending := p.sysPending.filter fun q => !done q })

/-- R298 `z_preempt`: the rounds begin, merged with those under way (16 R277); none resident is status 1. The request waits with the
numbers of the configurations in its lanes. -/
def preemptRequest (v : Nat) (c : Colour) (l : Token) (r : Option Reply) : Act := .look fun s =>
  let mine := (s.m.pkg.confs.filter fun (_, f) => f.vdev == v && f.phase != .bidding && f.phase != .loading).map Prod.fst
  if mine = [] then statusReply l.lanes.length c l r 1
  else
    (Act.each mine startRound).andThen
      ((Act.pkg fun p => { p with sysPending := p.sysPending ++ [(0x104, mine.map fun k => BitVec.ofNat 32 k, l, r, c)] }).andThen answerPreempts)

/-- Whether a leaf with PIN stands between two 64 KiB pages, in a table whose first page is `base`. -/
def pinnedFrom (s : State) (lo hi : Nat) : Nat → Nat → List (Nat × Nat × Nat) → Bool
  | _, _, [] => false
  | t, base, (low, n, size) :: rest => (upFrom (2 ^ n) 0).any fun i =>
    let span := 2 ^ (low - 16)
    let p := base + i * span
    let d := s.nat (t + 8 * i) 8
    p < hi && lo < p + span && bits d 0 1 == 1 &&
      (if bits d 1 1 = 1 then size != 0 && leafOk d size && leafPin d
       else
        match tablePtr d with
        | .ok t' => pinnedFrom s lo hi t' p rest
        | .error _ => false)

/-- Whether a leaf with PIN stands in a range of a colour's pages; n = 0 is the whole space. -/
def State.pinnedIn (s : State) (c : Colour) (first n : Nat) : Bool :=
  match s.level0 c with
  | .ok t => pinnedFrom s (if n = 0 then 0 else first) (if n = 0 then 2 ^ 32 else first + n) t 0 walkLevels
  | .error _ => false

/-- A request reaches the management port (R298). A translation invalidation over a pinned leaf is refused there, unless forced. -/
def syswCommit (reg : Nat) (ls : List Lane) (c : Colour) (l : Token) (r : Option Reply) : Act :=
  if reg = 0x104 then preemptRequest (ls.headD 0).toNat c l r
  else .look fun s =>
    let a := (ls.getD 0 0).toNat
    if reg = 0x103 && bits a 8 1 = 0 && s.pinnedIn (BitVec.ofNat 8 a) (ls.getD 1 0).toNat (ls.getD 2 0).toNat then
      statusReply l.lanes.length c l r 1
    else .pkg fun p => { p with sysPending := p.sysPending ++ [(reg, ls, l, r, c)] }

/-! ### Invalidations (15 R250, R262) -/

/-- A pending request of a register: the k-th of the management port's. -/
def State.sysAt (s : State) (k reg : Nat) : Option (List Lane × Token × Option Reply × Colour) :=
  s.m.pkg.sysPending[k]?.bind fun q => if q.1 = reg then some q.2 else none

def sysDone (k : Nat) : Act := .pkg fun p => { p with sysPending := dropAt p.sysPending k }

/-- The space of the memory operator in a slot. -/
def Ctx.spaceAt (x : Ctx) (slot : Nat) : Option Space := ({ x with slot := slot } : Ctx).memForm.map FormM.sp

/-- The checked stores of a wave: space, address, bytes. -/
def Ctx.storeRanges (x : Ctx) : List (Space × Nat × Nat) := x.w.acts.filterMap fun (slot, c) =>
  match c with
  | .store _ _ ps va _ _ => (x.spaceAt slot).map fun sp => (sp, va, (ps.map fun p => p.2.1).sum)
  | _ => none

/-- The accesses of a pending operator that have been resolved and not performed: space, address, bytes. -/
def Pend.ranges (p : Pend) : List (Space × Nat × Nat) :=
  if p.kind.isStore then
    let n := (p.done.map fun d => d.2.1).sum + (if p.stage = .home then (p.pieces.headD (0, 0)).2 else 0)
    if n = 0 then [] else [(p.space, p.base, n)]
  else if p.stage = .home then (p.pieces.head?.map fun (a, n) => (p.space, a, n)).toList else []

/-- What the cores of a table hold so: the colour, and an access. -/
def State.rangesIn (s : State) (cores : Tab CoreState) : List (Colour × Space × Nat × Nat) :=
  let t : State := { s with m := { s.m with cores := cores } }
  cores.flatMap fun (core, k) =>
    (k.outs.flatMap fun (_, q) => (q.events.filterMap OutEvent.req?).map fun r => (r.colour, r.space, r.va, r.len)) ++
      k.acts.flatMap fun (_, a) => a.waves.flatMap fun w =>
        (w.pend.flatMap Pend.ranges ++ ((ctxAt t core a.frame w.idx 0).map Ctx.storeRanges).getD []).map fun y => (a.colour, y)

/-- Whether an access of a colour, a space and a range is one of those that an invalidation asks about. -/
def rangeHit (mine : Colour → Bool) (sp : Space) (hit : Nat → Bool) (x : Colour × Space × Nat × Nat) : Bool :=
  let (c, z, a, n) := x
  mine c && z == sp && (hit a || hit (a + n - 1))

/-- Whether a request is one of those; a merged one may stand at addresses of its issuers' own (15 R247). -/
def Req.hits (mine : Colour → Bool) (sp : Space) (hit : Nat → Bool) (r : Req) : Bool :=
  rangeHit mine sp hit (r.colour, r.space, r.va, r.len) || mine r.colour && r.space == sp && r.issuers != []

/-- Whether a packet that the entries of a place table (32: colour 0's) have routed has still to arrive: in flight, or an access to a place
that its core has still to send (15 R250). -/
def State.placed (s : State) (key : Nat) (hit : Nat → Bool) : Bool :=
  let mine (c : Colour) : Bool := s.vdevKey c == key
  let byAddr (a : Nat) : Bool := hit (a / 2 ^ 16)
  (s.m.net.any fun x =>
    match x.body with
    | .sent _ desc t => mine t.colour && hit (bits desc.toNat 0 16)
    | .capsule _ _ c => mine c.colour && hit (entryPlace (c.entry c.cur))
    | .req r => r.hits mine .p byAddr
    | _ => false) || (s.rangesIn s.m.cores).any (rangeHit mine .p byAddr)

/-- R250: request k, a place-table invalidation, completes: the caches have dropped the entries, and what old entries
routed has arrived. -/
def execPlaceInvalidationComplete (s : State) : Host.Outcome State Fault Refusal :=
  .next ((Act.look fun s =>
    match s.sysAt s.m.at_.k 0x102 with
    | none => .quiet
    | some (ls, l, r, c) =>
      let a := (ls.getD 0 0).toNat
      let key := if bits a 21 1 = 1 then 32 else bits a 16 5
      let n := bits (ls.getD 1 0).toNat 0 16
      let hit (p : Nat) : Bool := p < 2 ^ 15 && (n == 0 || (bits a 0 15 ≤ p && p < bits a 0 15 + n))
      if s.placed key hit then .quiet
      else
        Act.seq [
          sysDone s.m.at_.k,
          .mod fun m => { m with clusters := m.clusters.map fun (i, k) => (i, { k with places := k.places.filter fun e => !(e.1 == key && hit e.2.1) }) },
          statusReply l.lanes.length c l r 0 ]).run s)

/-- Whether an access of a colour that an entry of the pages `hit` translated is still to be performed: on a walk of the colour, in flight,
parked at its home or refused there, in a core, or saved with one (R262). -/
def State.translated (s : State) (c : Colour) (hit : Nat → Bool) : Bool :=
  let mine (d : Colour) : Bool := d == c
  let byAddr (a : Nat) : Bool := hit (a / 2 ^ 16)
  let req (r : Req) : Bool := r.hits mine .g byAddr
  let held : PortHeld → Bool
    | .req r _ => req r
    | .tile _ => false
  let coresHit (ks : Tab CoreState) : Bool := (s.rangesIn ks).any (rangeHit mine .g byAddr)
  s.m.pkg.walks.any (fun w => w.colour == c) ||
    s.m.net.any (fun x => match x.body with
      | .req r => req r
      | _ => false) ||
    s.m.pkg.pools.any (fun (_, es) => es.any fun e => req e.req) ||
    s.m.pkg.refused.any (fun x => held x.2) || coresHit s.m.cores ||
    s.m.pkg.confs.any fun (_, f) => f.save.any fun v =>
      v.withdrawn.any req || v.held.any (fun x => held x.2.2) || coresHit v.cores

/-- R262: request k, a translation invalidation, is complete once the caches, the walks and the old accesses are done with. -/
def execXlateInvalidationComplete (s : State) : Host.Outcome State Fault Refusal :=
  .next ((Act.look fun s =>
    match s.sysAt s.m.at_.k 0x103 with
    | none => .quiet
    | some (ls, l, r, c) =>
      let a := (ls.getD 0 0).toNat
      let col : Colour := BitVec.ofNat 8 a
      let first := (ls.getD 1 0).toNat
      let n := (ls.getD 2 0).toNat
      let hit (t : Trans) : Bool := t.colour == col && (n == 0 || (t.page < first + n && first < t.page + t.pages))
      let dropped := (s.m.cores.flatMap fun (_, k) => k.tlb.filter hit) ++ s.m.clusters.flatMap fun (_, k) => k.tlb.filter hit
      let page (p : Nat) : Bool := n == 0 || (first ≤ p && p < first + n) || dropped.any fun t => t.page ≤ p && p < t.page + t.pages
      if s.translated col page then .quiet
      else
        Act.seq [
          sysDone s.m.at_.k,
          .mod fun m => { m with
            cores := m.cores.map fun (i, k) => (i, { k with tlb := k.tlb.filter fun t => !hit t })
            clusters := m.clusters.map fun (i, k) => (i, { k with tlb := k.tlb.filter fun t => !hit t }) },
          statusReply l.lanes.length c l r 0 ]).run s)

/-! ### Walks (15 R261) -/

/-- A waiting operator whose walk gave no leaf faults; else it uses the leaf. -/
def walked (r : Except XReason Trans) (w : Who) : Act := .look fun s =>
  match pendAt s w with
  | none => .quiet
  | some (_, p) =>
    if p.stage ≠ .walk then .quiet
    else
      match r with
      | .error e => pendFault w p Code.xlate e.code (p.pieces.headD (0, 0)).1
      | .ok t => Act.seq [useTrans w.core t, modPend w fun p => { p with stage := .issue }, advance maxPieces w]

/-- R261: walk k, one of the 64 in flight at a die, completes. -/
def execWalkComplete (s : State) : Host.Outcome State Fault Refusal :=
  .next ((Act.look fun s =>
    match (s.walking s.m.at_.die)[s.m.at_.k]? with
    | none => .quiet
    | some k =>
      (Act.pkg fun p => { p with walks := p.walks.erase k }).andThen
        (Act.each k.waiters (walked (s.walk k.colour (k.page * 2 ^ 16))))).run s)

/-! ## Fault handling (R299, R300) -/

/-- A record's address in a colour's area. -/
def State.recordAddr (s : State) (c : Colour) (n : Nat) : Option Nat :=
  let (_, base, nrec) := s.faultArea c
  if nrec = 0 then none else some (base + (n - 1) % nrec * 32)

/-- R299: one read of 32 bytes through colour 0, deferred until the record is there. -/
def execFltr (f : FormA) (s : State) : Host.Outcome State Fault Refusal :=
  .next ((fire 0x189 (.a f) noNull fun x =>
    x.withData f.c x.opL (.look fun s =>
      let c : Colour := BitVec.ofNat 8 (x.lanesL.getD 0 0).toNat
      let n := (x.lanesL.getD 1 0).toNat
      if x.colour ≠ 0 && c ≠ x.colour then x.fault Code.fltColour
      else if n = 0 || !s.bound c then x.fault Code.fltRange
      else
        match s.recordAddr c n with
        | none => x.fault Code.fltRange
        | some a =>
          (x.await (.fltr (f.sub.getLsbD 0) a) x.opTok).andThen
            (sendReq x.core ⟨.task x.who, 0, 1, a, 32, .wo, .load, [], false, x.a.cfg, true, .g, a, false⟩))).run s)

/-- R300: the record's colour and code checked now; the master restarted at commit. -/
def execResume (f : FormA) (s : State) : Host.Outcome State Fault Refusal :=
  .next ((fire 0x18A (.a f) noNull fun x =>
    match x.early x.opL none with
    | some t => x.deliver0 f.c t
    | none =>
      let w0 := (x.lanesL.getD 0 0).toNat
      let skip := f.sub.getLsbD 0
      if x.colour ≠ 0 && bits w0 8 8 ≠ x.colour.toNat then x.fault Code.resColour
      else if skip && bits w0 16 16 ≠ Code.trap then x.fault Code.resState
      else x.record (.resume skip (x.lanesL.take 8) { x.pass x.opTok with seq := x.seq } (x.replyTarget f.c))).run s)

/-- An activation restarted (01 R34); a capsule whose buffer was given away waits for one (07 R134). -/
def restartAct (core frame : Nat) (skip : Option (Nat × Nat)) : Act := .look fun s =>
  match s.m.act? core frame with
  | none => .quiet
  | some a => (skipSlot core frame skip).andThen
      (if a.held.isSome && !(s.m.core core).buffers.any fun b => b.1 == a.uid then
        modCore core fun k => { k with bufReqs := k.bufReqs ++ [.resume frame a.uid a.colour] }
      else rerunAct core frame)

/-- The sites at which a master that a record names at a site may stand: the site, and those that its configuration has since moved it to
(16 R275, R277). -/
def State.nowAt (s : State) (site : Nat) : List Nat :=
  site :: s.m.pkg.confs.flatMap fun (_, f) => (f.moves.filter fun p => p.1 == site).map Prod.snd

/-- Whether a command was issued from a record's activation, wave and slot. -/
def Cmd.from_ (c : Cmd) (sites : List Nat) (frame wave slot : Nat) : Bool :=
  sites.contains c.who.core && c.who.frame % 1024 == frame && c.who.wave % 256 == wave && c.who.slot == slot

/-- The restart of the master that a record names (R300): status 0, 1 where it is absent or not frozen, 2 for the rest. -/
def resumeMaster (skip : Bool) (ls : List Lane) : State → Nat × Act := fun s =>
  let w (i : Nat) : Nat := (ls.getD i 0).toNat
  let c : Colour := BitVec.ofNat 8 (bits (w 0) 8 8)
  let site := siteId (bits (w 1) 29 3) (bits (w 1) 23 6) (bits (w 1) 18 5)
  let frame := bits (w 1) 8 10
  let wave := bits (w 1) 0 8
  let slot := bits (w 2) 21 5
  let sites := s.nowAt site
  match bits (w 0) 5 3 with
  | 0 =>
    match sites.find? fun k => (s.m.act? k frame).any fun a => a.colour == c && a.frozen with
    | some k => (0, restartAct k frame (if skip then some (wave, slot) else none))
    | none => (1, .quiet)
  | 2 =>
    match s.m.pkg.streams.find? fun x => x.frozen && x.cmd.from_ sites frame wave slot with
    | some x => (0, modStream x.id fun y => { y with frozen := false })
    | none =>
      match s.m.pkg.islands.find? fun (_, i) => i.stuck && (i.oldest.map fun y => y.from_ sites frame wave slot) == some true with
      | some (id, _) => (0, .pkg fun p =>
          { p with islands := p.islands.map fun (k, i) => (k, if k = id then { i with stuck := false } else i) })
      | none =>
        match s.m.fab.colls.find? fun x => x.frozen && x.cmd.from_ sites frame wave slot with
        | some x => (0, collResume x)
        | none =>
          match s.m.pkg.sessions.find? fun x => x.phase == .frozen && sites.contains x.who.core && x.who.frame % 1024 == frame &&
              x.who.wave % 256 == wave && x.who.slot == slot with
          | some x => (0, sealResume x)
          | none => (1, .quiet)
  | 3 =>
    let a := w 4 + w 5 * 2 ^ 32
    match s.m.pkg.queues.find? fun (k, q) => q.frozen && s.m.pkg.mgmt.qtab + 64 * k == a && (s.readDesc k).st ≠ qIdle with
    | some (k, _) => (0, requeue k)
    | none => (1, .quiet)
  | _ => (2, .quiet)

/-! ## Places, counters, yielding (R301 to R303) -/

/-- R301: the site of a place and the reason where there is none. -/
def execPlook (f : FormA) (s : State) : Host.Outcome State Fault Refusal :=
  .next ((fire 0x18B (.a f) noNull fun x =>
    x.withData f.c x.opL (.look fun s =>
      let p := (x.lanesL.headD 0).toNat % 2 ^ 16
      let cl := clusterOf x.core
      (usePlace cl x.colour p).andThen (x.emit f.c (x.data (
        match s.place cl x.colour x.a.cfg p with
        | .ok site => [siteWord site, 0]
        | .error e => [0, BitVec.ofNat 32 e.code]))))).run s)

/-- The counter that L names (R302), or none for a breach. -/
def State.cntrIdx (s : State) (c : Colour) (rel : Bool) (v : Nat) : Option Nat :=
  if rel then (if bits v 2 30 = 0 then some (s.counterIdx c (bits v 0 2)) else none)
  else if c ≠ 0 then (if bits v 6 26 = 0 then some (s.vdevOf c * 64 + bits v 0 6) else none)
  else if bits v 6 2 = 0 && bits v 13 19 = 0 then some (bits v 8 5 * 64 + bits v 0 6)
  else none

/-- R302: a read sent to the counter home, or a counter read and zeroed at commit. -/
def execCntr (f : FormA) (s : State) : Host.Outcome State Fault Refusal :=
  .next ((fire 0x18C (.a f) noNull fun x =>
    match x.early x.opL none with
    | some t => x.emit f.c t
    | none => .look fun s =>
      match s.cntrIdx x.colour (f.sub.getLsbD 0) (x.lanesL.headD 0).toNat with
      | none => x.fault Code.cntrRange
      | some i =>
        if f.sub.getLsbD 1 then x.record (.cntrClear i { x.pass x.opTok with seq := x.seq } (x.replyTarget f.c))
        else (x.await .cntr x.opTok).andThen
          (send x.core 90000 .q0 (.cntrRead x.who i))).run s)

/-- R303: a round of its own configuration requested at commit. -/
def execYield (f : FormA) (s : State) : Host.Outcome State Fault Refusal :=
  .next ((fire 0x18D (.a f) noNull fun x => x.record (.yield (f.sub.getLsbD 0) x.seq (x.replyTarget f.c))).run s)

end Sys2Proof.Machine
end

