-- ==== Sys2Proof/Machine/Island.lean ====
section
/-! DEFINITION. Matrix islands (spec 12 R202 to R205, 13 R223 to R225, 03 R81): rows and their sums, the commands, release. -/

namespace Sys2Proof.Machine

def State.island? (s : State) (id : Nat) : Option IslandState := tget? s.m.pkg.islands id

def modIsland (id : Nat) (f : IslandState → IslandState) : Act := .pkg fun p =>
  match tget? p.islands id with
  | some i => { p with islands := tput p.islands id (f i) }
  | none => p

/-! ## Formats at an island (R202) -/

/-- The bits of an element of a format: 8 for DSB8 and so on. -/
def islandBits (fmt : Nat) : Nat := if isBlockFmt fmt then blockBits fmt else eltBits fmt

/-- The channels of one row, in the order of its beats; DSB4 and `.mxf4` rows alternate between channels 0 and 1 and channels
2 and 3 (log 25). -/
def rowChans (fmt rows : Nat) : List Nat :=
  match islandBits fmt with
  | 4 => if rows % 2 = 0 then [0, 1] else [2, 3]
  | 6 => [0, 1, 2]
  | 16 => [0, 1, 2, 3, 0, 1, 2, 3]
  | _ => [0, 1, 2, 3]

/-- The A channels in use. -/
def usedChans (fmt : Nat) : List Nat := if islandBits fmt = 6 then [0, 1, 2] else [0, 1, 2, 3]

/-- Element k of a little-endian bit string. -/
def strElem (n k : Nat) (bs : List Byte) : Nat :=
  leNat ((bs.drop (n * k / 8)).take ((n * k % 8 + n + 7) / 8)) / 2 ^ (n * k % 8) % 2 ^ n

/-- An element of an unscaled format. -/
def plainElem (fmt x : Nat) : FVal :=
  if isFloatTy fmt then (tyFloat fmt).decode x
  else
    let z : Int := if tySigned fmt then sInt (eltBits fmt) x else (x : Int)
    .fin (z < 0) z.natAbs 0

/-- Group g of 32 elements of a bit string, under its scale entry. -/
def groupVals (fmt entry g : Nat) (bs : List Byte) : List FVal :=
  (upFrom 32 (32 * g)).map fun k =>
    let x := strElem (islandBits fmt) k bs
    if isBlockFmt fmt then blockElem fmt entry x else plainElem fmt x

/-- The scale entry of block g of an A row: the entry of the beat in which the block begins (log 25). -/
def aScale (fmt g : Nat) (scales : List (List Lane)) : Nat :=
  if !isBlockFmt fmt then 0
  else
    let begin (h : Nat) : Nat := h * 32 * blockBits fmt / 8 / 128
    let beat := begin g
    let first := ((upFrom 16 0).find? fun h => begin h == beat).getD 0
    scaleEntry fmt (lanesNat (scales.getD beat [])) (g - first)

/-- The scale entry of block g of column j of B (R224). -/
def bScaleAt (fmt j g : Nat) (bs : List Byte) : Nat :=
  if isDsb fmt then leNat ((bs.drop (2 * (16 * j + g))).take 2) else (bs.getD (16 * j + g) 0).toNat

/-! ## Sums (03 R81) -/

/-- An invalid accumulator element: a NaN pattern that holds the code (the model's form; no sum gives one). -/
def badElem (c : ErrCode) : Lane := 0x7FC00000 + c.setWidth 32

def elemErr (v : Lane) : Option ErrCode := if (FFmt.f32.decode v.toNat).isNan then some (v.setWidth 8) else none

/-- Whether the accumulators of a format are FP32 (R202). -/
def floatAcc (fmt : Nat) : Bool := isBlockFmt fmt || isFloatTy fmt

/-- S_g of one column: exact, or the code of what makes the element invalid. -/
def groupSum (a b : List FVal) : GroupSum :=
  if a.any FVal.isNan || b.any FVal.isNan then .bad errNanIn
  else
    match sumTerms (List.zipWith FVal.mul a b) with
    | .nan => .bad errArithInv
    | v => .exact v

/-- A sum rounded into an accumulator element: FP32, or an integer that wraps. -/
def GroupSum.into (float : Bool) (acc : Lane) (g : GroupSum) : Lane :=
  match float, g with
  | false, .exact v => BitVec.ofInt 32 ((acc.toNat : Int) + v.atScale 0)
  | false, .bad _ => acc
  | true, g =>
    if (elemErr acc).isSome then acc
    else
      match g with
      | .bad e => badElem e
      | .exact v =>
        match (FFmt.f32.result v).bind fun x => faddElem .f32 acc.toNat x with
        | .error e => badElem e
        | .ok y => BitVec.ofNat 32 y

/-- S_g of every column, for one group of a row of A. -/
def groupSums (i : IslandState) (a : List FVal) (g : Nat) : List GroupSum :=
  let fmt := i.fmt.toNat
  let n := islandBits fmt
  (upFrom 512 0).map fun j =>
    let e := bScaleAt fmt j g i.bScale
    if isBlockFmt fmt && scaleReserved fmt e then .bad errScaleRes
    else groupSum a (groupVals fmt e g ((i.bBytes.drop (512 * j * n / 8)).take (512 * n / 8)))

/-- The row's 16 groups, or the code of a reserved scale. -/
def rowGroups (fmt : Nat) (beats : List (Option Token × Token)) : Except ErrCode (List (List FVal)) :=
  let bs := beats.flatMap fun b => laneBytes b.2.lanes
  let scales := beats.map fun b => b.2.scale
  let es := (upFrom 16 0).map fun g => aScale fmt g scales
  if isBlockFmt fmt && es.any (scaleReserved fmt) then .error errScaleRes
  else .ok ((es.zip (upFrom 16 0)).map fun (e, g) => groupVals fmt e g bs)

/-! ## The checks of a row group (R205)

A row check compares Σ_n S_g[n] with a · c_g, and a column check Σ_r S_g[r][n] with (Σ_r a_r) · B[:, n]. Both right sides are sums of
a · B's own elements, `checks`, since c_g and Σ_r a_r are sums formed exactly. -/

/-- What a sum is off its check by, in units of 2^scale; none where the two differ and one of them is no number. -/
def GroupSum.off (scale : Int) (x y : GroupSum) : Option Int :=
  match x, y with
  | .exact (.fin m a e), .exact (.fin n b f) => some ((FVal.fin m a e).atScale scale - (FVal.fin n b f).atScale scale)
  | x, y => if x = y then some 0 else none

/-- The least exponent of sums that are numbers. -/
def sumScale (xs : List GroupSum) : Int := xs.foldl (fun m x => match x with
  | .exact (.fin _ _ e) => min m e
  | _ => m) 0

def totalOff (xs : List (Option Int)) : Option Int := xs.foldl (fun z x => z.bind fun a => x.map (a + ·)) (some 0)

/-- Column n of group g of a row: its sum, and what its check gives. -/
def SumRow.at_ (r : SumRow) (g n : Nat) : GroupSum × GroupSum :=
  ((r.sums.getD g []).getD n (.exact (.fin false 0 0)), (r.checks.getD g []).getD n (.exact (.fin false 0 0)))

/-- The accumulator rows as a mask. -/
def rowMask (rows : List Nat) : BitVec 64 := rows.foldl (fun m r => m ||| (1#64 <<< r)) 0

/-- The mismatches of group g: the rows and the columns whose checks fail, and by how much each row's does. -/
def groupMismatch (scale : Int) (rows : List SumRow) (g : Nat) : List (Nat × Option Int) × List Nat :=
  let off (r : SumRow) (n : Nat) : Option Int := (r.at_ g n).1.off scale (r.at_ g n).2
  (((upFrom rows.length 0).zip rows).filterMap fun (k, r) =>
    let z := totalOff ((upFrom 512 0).map (off r))
    if z = some 0 then none else some (k, z),
   (upFrom 512 0).filter fun n => totalOff (rows.map fun r => off r n) ≠ some 0)

/-- An exact number of units of 2^scale. -/
def ofUnits (scale z : Int) : GroupSum := .exact (.fin (z < 0) z.natAbs scale)

/-- Group g checked: a located single error is replaced by what satisfies the row check, and counted; any other mismatch marks the row
group's accumulator rows. -/
def checkGroup (i : IslandState) (g : Nat) : IslandState :=
  let scale := sumScale (i.group.flatMap fun r => r.sums.getD g [] ++ r.checks.getD g [])
  match groupMismatch scale i.group g with
  | ([], []) => i
  | ([(k, some z)], [n]) => { i with
      corrected := i.corrected + 1
      group := ((upFrom i.group.length 0).zip i.group).map fun (j, r) =>
        if j = k then
          match (r.at_ g n).1 with
          | .exact v => { r with sums := setAt r.sums g (setAt (r.sums.getD g []) n (ofUnits scale (v.atScale scale - z))) }
          | .bad _ => r
        else r }
  | _ => { i with poison := i.poison ||| rowMask (i.group.map SumRow.row) }

def zeroRow : List Lane := List.replicate 512 0

/-- A row's sums rounded into its accumulator row, in ascending group order (03 R81). -/
def roundRow (i : IslandState) (r : SumRow) : IslandState :=
  let acc := r.sums.foldl (fun acc xs => (acc.zip xs).map fun (v, x) => x.into (floatAcc i.fmt.toNat) v) (tgetD zeroRow i.acc r.row)
  { i with acc := tput i.acc r.row acc }

/-- A row group complete: checked, and its rows rounded in. -/
def settleGroup (i : IslandState) : IslandState :=
  let j := (upFrom 16 0).foldl checkGroup i
  { j.group.foldl roundRow j with group := [] }

/-! ## Rows (R202 to R204, R225) -/

/-- An accumulator row marked with its first code; 255 stands for poison. Of an error beat and a poison beat of one row the first that marked it is
kept: R225 gives both and does not say which is released (log 137). -/
def markRow (i : IslandState) (r : Nat) (c : BitVec 8) : IslandState :=
  if (tget? i.rowErr r).isSome then i else { i with rowErr := tput i.rowErr r c }

/-- A complete row's part in its accumulator row: its bad beats, its shape, or its sums. -/
def enterRow (i : IslandState) (r : Nat) (beats : List (Option Token × Token)) : IslandState :=
  let ts := beats.map Prod.snd
  match ts.find? fun t => t.kind = .poison with
  | some _ => markRow i r 255
  | none =>
    match ts.find? fun t => t.kind = .error with
    | some t => markRow i r t.code
    | none =>
      let c := (ts.headD ⟨0, .data, 0, 0, 0, 0, 0, 0, [], []⟩).colour
      if ts.any fun t => t.lanes.length ≠ 32 || t.colour ≠ c then markRow i r errWidth
      else
        match rowGroups i.fmt.toNat beats with
        | .error e => markRow i r e
        | .ok row =>
          let sums := (row.zip (upFrom 16 0)).map fun (a, g) => groupSums i a g
          { i with group := i.group ++ [⟨r, sums, sums⟩] }

/-- A complete row; the eighth of a row group completes it (R205). A row before any `mxb` has no accumulator row (log 26). -/
def addRow (i : IslandState) (beats : List (Option Token × Token)) : IslandState :=
  let j := { (if i.m = 0 then i else enterRow i (i.rowCount % i.m) beats) with rowCount := i.rowCount + 1 }
  if j.rowCount % 8 = 0 then settleGroup j else j

/-- The beats of the next row, where all have come, and the beats left. -/
def takeRow (beats : List (Nat × Option Token × Token)) : List Nat →
    Option (List (Option Token × Token) × List (Nat × Option Token × Token))
  | [] => some ([], beats)
  | ch :: chs =>
    match beats.find? fun b => b.1 == ch with
    | none => none
    | some b => (takeRow (beats.erase b) chs).map fun (row, rest) => (b.2 :: row, rest)

/-- Every row that is complete is summed; n bounds them. -/
def sumRows : Nat → IslandState → IslandState
  | 0, i => i
  | n + 1, i =>
    match takeRow i.beats (rowChans i.fmt.toNat i.rowCount) with
    | some (row, rest) => sumRows n (addRow { i with beats := rest } row)
    | none => i

/-- Whether a command of a kind waits at an island. -/
def IslandState.waitsFor (i : IslandState) (f : CmdKind → Bool) : Bool := i.inbox.any fun x => match x with
  | .cmd c => f c.kind
  | .beat _ _ => false

def CmdKind.isMxr : CmdKind → Bool
  | .mxr _ _ => true
  | _ => false

/-- EOS for the owner leaves once every A channel in use has seen it and no `mxr` waits (R225); its sequence is free (log 22). -/
def islandEos (id : Nat) : Act := .look fun s =>
  match s.island? id with
  | none => .quiet
  | some i =>
    match i.owner with
    | none => .quiet
    | some c =>
      if i.eosSent.contains c || i.waitsFor CmdKind.isMxr || !(usedChans i.fmt.toNat).all fun ch => i.eos.contains (ch, c) then .quiet
      else
        Act.seq [
          sendEdges (Party.island id).unit .st none i.out (mkTok c .eos (Config.freeSeq s.m.free) (List.replicate 32 0)) none,
          .mod fun m => { m with free := m.free + 1 },
          modIsland id fun i => { i with eosSent := c :: i.eosSent } ]

/-- A wedge on an A channel: forwarded, and the island frozen, once every channel in use has one (01 R30). -/
def islandWedge (id chan : Nat) (t : Token) : Act :=
  (modIsland id fun i => { i with wedges := (chan, t.colour) :: i.wedges }).andThen (.look fun s =>
    match s.island? id with
    | none => .quiet
    | some i =>
      let full (c : Colour) : Bool := (usedChans i.fmt.toNat).all fun ch => i.wedges.contains (ch, c)
      Act.seq [
        .when (full t.colour) (sendEdges (Party.island id).unit .st none i.out t none),
        .when ((s.confColours i.cfg).all full) (modIsland id fun i => { i with frozen := true }) ])

/-- A token of a beat: a scale token waits for its data (03 R74); a beat of the owner joins its row; any other colour's is
discarded. -/
def islandBeat (id chan : Nat) (t : Token) : Act := .look fun s =>
  match s.island? id with
  | none => .quiet
  | some i =>
    let key := chan * 256 + t.colour.toNat
    if t.kind = .stop then .quiet
    else if isBlockFmt i.fmt.toNat && (tget? i.held key).isNone then modIsland id fun i => { i with held := tput i.held key t }
    else
      let u := match tget? i.held key with
        | some z => if isBlockFmt i.fmt.toNat then paired z t else t
        | none => t
      let i' := { i with held := tdel i.held key }
      if i.owner ≠ some t.colour then
        Act.seq [modIsland id fun _ => i', countDiscard t.colour,
          record { Record.blank with code := Code.mxColour, col := t.colour, site := i.node.1, seq := t.seq }]
      else modIsland id fun _ => sumRows 4 { i' with beats := i'.beats ++ [(chan, none, u)] }

/-- EOS on a channel: a held scale token is discarded and counted (03 R74). -/
def islandEosIn (id chan : Nat) (c : Colour) : Act := .look fun s =>
  let key := chan * 256 + c.toNat
  Act.seq [
    .when (((s.island? id).bind fun i => tget? i.held key).isSome) (countDiscard c),
    modIsland id fun i => { i with eos := (chan, c) :: i.eos, held := tdel i.held key },
    islandEos id ]

/-- What a token on a channel does when the island takes it. -/
def islandTake (id chan : Nat) (t : Token) : Act :=
  if t.kind = .eos then islandEosIn id chan t.colour
  else if t.kind = .wedge then islandWedge id chan t
  else islandBeat id chan t

/-- Whether an `mxr` of a colour to a target need wait no longer: its rows are summed, or the colour's EOS has come on every A channel in
use (R225). -/
def IslandState.reached (i : IslandState) (c : Colour) (target : Lane) : Bool :=
  let want := target.toNat % 2 ^ 16
  want = 0 || want ≤ i.rowCount || (usedChans i.fmt.toNat).all fun ch => i.eos.contains (ch, c)

/-- The first token of an inbox that passes a test, and the inbox without it. -/
def firstBeat (ok : Token → Bool) : List IslandIn → Option (Nat × Token × List IslandIn)
  | [] => none
  | .beat ch t :: rest => if ok t then some (ch, t, rest) else (firstBeat ok rest).map fun (c, u, r) => (c, u, .beat ch t :: r)
  | x :: rest => (firstBeat ok rest).map fun (c, u, r) => (c, u, x :: r)

/-- The next token that the island may take, and what is then left. Tokens wait behind an earlier command (R223), but for the rows and the EOS
that the oldest command, an `mxr` of the owner, still waits for (R225, log 26); and a wedge is taken past a command that is frozen, or whose
read waits, so that the island freezes with what is queued (R225). -/
def IslandState.nextBeat (i : IslandState) : Option (Nat × Token × List IslandIn) :=
  if i.frozen then none
  else if i.stuck || i.waiting.isSome then firstBeat (fun t => t.kind == .wedge) i.inbox
  else
    match i.inbox with
    | .beat ch t :: rest => some (ch, t, rest)
    | .cmd c :: _ =>
      match c.kind with
      | .mxr _ target => if i.owner = some c.who.colour && !i.reached c.who.colour target then firstBeat (fun _ => true) i.inbox else none
      | _ => none
    | [] => none

/-- The island takes what it may of its inbox; n bounds the tokens. -/
def islandDrain (id : Nat) : Nat → Act
  | 0 => .quiet
  | n + 1 => .look fun s =>
    match (s.island? id).bind IslandState.nextBeat with
    | none => .quiet
    | some (ch, t, rest) => Act.seq [modIsland id fun i => { i with inbox := rest }, islandTake id ch t, islandDrain id n]

/-- The beats that stand on a channel and are not taken: the channel's producer holds four slot credits in all (R203). -/
def IslandState.waitingOn (i : IslandState) (chan : Nat) : Nat := (i.inbox.filter fun x => match x with
  | .beat ch _ => ch == chan
  | .cmd _ => false).length

/-- R204: message k, a token on an island channel. -/
def execIslandRow (s : State) : Host.Outcome State Fault Refusal :=
  .next ((Act.look fun s =>
    let k := s.m.at_.k
    match s.m.msg? k with
    | none => .quiet
    | some msg =>
      match msg.body with
      | .tok (.island id chan) t _ =>
        match s.island? id with
        | none => .quiet
        | some i =>
          if i.frozen || !s.issues i.cfg || !s.m.inOrder k msg || s.halted i.node.1 ||
              4 ≤ i.waitingOn chan then .quiet
          else
            Act.seq [takeMsg k, modIsland id fun i => { i with inbox := i.inbox ++ [.beat chan t] }, islandDrain id 64]
      | _ => .quiet).run s)

/-! ## Commands (R223 to R225) -/

/-- The oldest command is frozen by a fault. -/
def islandFault (id : Nat) (c : Cmd) (code addr : Nat) : Act :=
  (modIsland id fun i => { i with stuck := true }).andThen (cmdFault c code 0 addr)

/-- The oldest command is done: its completion leaves, and the island goes on with its inbox. -/
def islandDone (id : Nat) (c : Cmd) (ls : List Lane) : Act := Act.seq [
  modIsland id fun i => { i with inbox := i.inbox.drop 1, got := [] },
  cmdDone c classM, cmdReply (islandUnit id) c ls, islandDrain id 64]

/-- Accumulators to +0, the row counter to 0, marks and sums cleared. -/
def IslandState.zeroed (i : IslandState) : IslandState := { i with acc := [], rowCount := 0, rowErr := [], poison := 0, group := [] }

/-- The bytes of a range of the slices as an island reads them, a line that a home has answered since as it was answered; those of a
word that reads ERR or poison are free (log 24). -/
def islandBytes (s : State) (i : IslandState) (a n : Nat) : List Byte :=
  let line (x : Nat × Nat) : List EngByte :=
    match i.got.find? fun y => y.1 = x.1 with
    | some (_, v) => v.engBytes x.2
    | none => s.engineBytes x.1 x.2 .region
  (((linePieces (n / 128 + 2) a n).flatMap line).zip (upFrom n 0)).map fun (b, k) =>
    if b.2.isSome then Config.freeByte s.m.free k else b.1

/-- The size of B and of its scales in bytes. -/
def bSizes (fmt : Nat) : Nat × Nat :=
  (512 * 512 * islandBits fmt / 8, if isBlockFmt fmt then 512 * 16 * (if isDsb fmt then 2 else 1) else 0)

/-- The first of the pieces of a range, cut at the lines of its addresses, whose read waits, held at its port or for a word without a value: it goes to its port (12 R199). -/
def islandWaits (s : State) (id : Nat) (i : IslandState) (c : Cmd) (a n : Nat) : Option Act :=
  let req (b m : Nat) : Req := engineReq (.island id) c .s (b % 2 ^ 22) b m .region .load none
  ((linePieces (n / 128 + 2) a n).find? fun (b, m) =>
    !(i.got.any fun x => x.1 = b) && (s.engineHeld (req b m) || s.engineDefers b m .region)).map fun (b, m) =>
      (modIsland id fun i => { i with waiting := some b }).andThen (reqArrive (unitOf b) (req b m))

/-- `mxb` (R224). Of several breaches of its parameters the first in the order MX_COLOUR, MX_FMT, MISALIGN, SLICE_RANGE is the command's
fault: R224 gives no order (log 138). -/
def mxbPerform (id : Nat) (i : IslandState) (c : Cmd) (b scale v : Lane) : Act := .look fun s =>
  let fmt := bits v.toNat 8 5
  let (nb, ns) := bSizes fmt
  let cl := clusterOf i.node.1
  if i.owner ≠ some c.who.colour then islandFault id c Code.mxColour 0
  else if bits v.toNat 13 19 ≠ 0 || bits v.toNat 6 2 ≠ 0 || fmt ≠ i.fmt.toNat then islandFault id c Code.mxFmt 0
  else if b.toNat % 128 ≠ 0 then islandFault id c Code.misalign b.toNat
  else if 2 ^ 22 < b.toNat + nb || (0 < ns && 2 ^ 22 < scale.toNat + ns) then islandFault id c Code.sliceRange b.toNat
  else
    let a := sliceAddr cl b.toNat
    let z := sliceAddr cl scale.toNat
    match (islandWaits s id i c a nb).orElse fun _ => if ns = 0 then none else islandWaits s id i c z ns with
    | some wait => wait
    | none =>
      Act.seq [
        checked a nb, checked z ns,
        modIsland id fun j => { j with
          bFmt := BitVec.ofNat 5 fmt, bBytes := islandBytes s i a nb, bScale := islandBytes s i z ns, m := bits v.toNat 0 6 + 1 },
        .mod fun m => { m with free := m.free + 1 },
        islandDone id c [0] ]

/-- The mask of the row groups with a marked accumulator row (R225). -/
def IslandState.poisonGroups (i : IslandState) : Nat :=
  (upFrom 8 0).foldl (fun m g => if bits i.poison.toNat (8 * g) 8 = 0 then m else m + 2 ^ g) 0

/-- The oldest command performed; an `mxr` waits for its release. -/
def islandPerform (id : Nat) : Act := .look fun s =>
  match s.island? id with
  | none => .quiet
  | some i =>
    if i.frozen || i.stuck || i.waiting.isSome || !s.issues i.cfg || s.halted i.node.1 then .quiet
    else
      match i.oldest with
      | none => .quiet
      | some c =>
        match c.kind with
        | .mxb b scale v => mxbPerform id i c b scale v
        | .mxz => Act.seq [modIsland id fun i => { i.zeroed with owner := some c.who.colour }, islandDone id c [0], islandEos id]
        | .mxck clear =>
          if i.owner ≠ some c.who.colour then islandFault id c Code.mxColour 0
          else
            (Act.when clear (modIsland id fun i => { i with missed := 0, corrected := 0 })).andThen
              (islandDone id c [BitVec.ofNat 32 (min i.corrected (2 ^ 32 - 1)), BitVec.ofNat 32 (min i.missed (2 ^ 32 - 1)),
                BitVec.ofNat 32 i.poisonGroups, BitVec.ofNat 32 i.rowCount])
        | .mxr _ _ => if i.owner ≠ some c.who.colour then islandFault id c Code.mxColour 0 else .quiet
        | _ => modIsland id fun i => { i with inbox := i.inbox.drop 1 }

/-- R223: island `id` takes its next command, and performs its oldest. -/
def execIslandCommand (s : State) : Host.Outcome State Fault Refusal :=
  .next ((Act.look fun s =>
    let id := s.m.at_.id
    let arrived := (upFrom s.m.net.length 0).findSome? fun k =>
      match (s.m.msg? k).map Msg.body with
      | some (.islandCmd j c) => if j = id then some (k, c) else none
      | _ => none
    (match arrived with
      | some (k, c) => (takeMsg k).andThen (modIsland id fun i => { i with inbox := i.inbox ++ [IslandIn.cmd c] })
      | none => .quiet).andThen (islandPerform id)).run s)

/-- The 16 tokens of an accumulator row (R225). -/
def rowTokens (i : IslandState) (c : Colour) (seq : BitVec 16) (r : Nat) : List Token :=
  let acc := tgetD zeroRow i.acc r
  (upFrom 16 0).map fun q =>
    let ls := (acc.drop (32 * q)).take 32
    if i.poison.getLsbD r then mkTok c .poison seq (List.replicate 32 0)
    else
      match tget? i.rowErr r with
      | some e => if e = 255 then mkTok c .poison seq (List.replicate 32 0) else errTok c e seq 32
      | none =>
        match (if floatAcc i.fmt.toNat then ls.findSome? elemErr else none) with
        | some e => errTok c e seq 32
        | none => mkTok c .data seq ls

/-- R225: the oldest command of island `id`, an `mxr` of its owner whose target is reached or whose owner's EOS has come on
every A channel in use, checks the rows that remain (R205) and releases the accumulator rows. -/
def execMxrRelease (s : State) : Host.Outcome State Fault Refusal :=
  .next ((Act.look fun s =>
    let id := s.m.at_.id
    match s.island? id with
    | none => .quiet
    | some i =>
      match i.oldest with
      | some c =>
        match c.kind with
        | .mxr zero target =>
          if i.frozen || i.stuck || !s.issues i.cfg || s.halted i.node.1 || i.owner ≠ some c.who.colour || !i.reached c.who.colour target then .quiet
          else
            let j := settleGroup i
            Act.seq [
              Act.each ((upFrom j.m 0).flatMap fun r => rowTokens j c.who.colour c.l.seq r) fun t =>
                sendEdges (islandUnit id) .st none i.out t none,
              modIsland id fun _ => { (if zero then j.zeroed else j) with missed := j.missed + Config.freeMiss s.m.free },
              .mod fun m => { m with free := m.free + 1 },
              islandDone id c [BitVec.ofNat 32 i.rowCount],
              islandEos id ]
        | _ => .quiet
      | none => .quiet).run s)

/-! ## The instructions (R216, R223 to R225) -/

/-- R224: B bound. -/
def execMxb (f : FormX) (s : State) : Host.Outcome State Fault Refusal :=
  .next ((xcmd 0x165 f 3 fun _ _ ps => .ok (.mxb (BitVec.ofNat 32 (param ps 0 0)) (BitVec.ofNat 32 (param ps 1 0))
    (BitVec.ofNat 32 (param ps 2 0)))).run s)

/-- R225: accumulators zeroed, the island claimed. -/
def execMxz (f : FormX) (s : State) : Host.Outcome State Fault Refusal :=
  .next ((xcmd 0x166 f 0 fun _ _ _ => .ok .mxz).run s)

/-- R225: accumulator rows released. -/
def execMxr (f : FormX) (s : State) : Host.Outcome State Fault Refusal :=
  .next ((xcmd 0x167 f 1 fun _ _ ps => .ok (.mxr (f.var.getLsbD 0) (BitVec.ofNat 32 (param ps 0 0)))).run s)

/-- R225: counters read. -/
def execMxck (f : FormX) (s : State) : Host.Outcome State Fault Refusal :=
  .next ((xcmd 0x168 f 0 fun _ _ _ => .ok (.mxck (f.var.getLsbD 0))).run s)

end Sys2Proof.Machine
end

