-- ==== Sys2Proof/Machine/Issue.lean ====
section
/-! DEFINITION. Which instruction a core issues next (spec 09 R166, 01 R22), and the word it fetches from its block store. -/

namespace Sys2Proof.Machine

/-- A slot that may issue: its colour, its wave's age, the slot, and where it stands. -/
structure Ready where
  colour : Nat
  order : Nat
  slot : Nat
  frame : Nat
  idx : Nat
deriving DecidableEq, Repr

/-- Whether a slot is ready to issue in a class. -/
def slotReady (s : State) (core frame idx slot : Nat) (memory : Bool) : Bool :=
  match ctxAt s core frame idx slot with
  | none => false
  | some x =>
    match blockIns x.b slot with
    | none => false
    | some (o, f) => isVectorOp o != memory && x.ready s o f && x.gate s o f

def waveReady (s : State) (core frame : Nat) (colour : Colour) (w : Wave) (memory : Bool) : List Ready :=
  (upFrom w.slots.length 0).filterMap fun i =>
    if slotReady s core frame w.idx i memory then some ⟨colour.toNat, w.order, i, frame, w.idx⟩ else none

def readySlots (s : State) (core : Nat) (memory : Bool) : List Ready :=
  (s.m.core core).acts.flatMap fun (f, a) => a.waves.flatMap fun w => waveReady s core f a.colour w memory

/-- a issues before b: the next colour from the pointer on, then the wave allocated first, then the lowest slot. -/
def Ready.before (ptr : Nat) (a b : Ready) : Bool :=
  let ca := (a.colour + 256 - ptr) % 256
  let cb := (b.colour + 256 - ptr) % 256
  if ca ≠ cb then ca < cb else if a.order ≠ b.order then a.order < b.order else a.slot < b.slot

def firstReady (ptr : Nat) : List Ready → Option Ready
  | [] => none
  | r :: rs =>
    match firstReady ptr rs with
    | none => some r
    | some q => if r.before ptr q then some r else some q

/-- The instruction that a core issues in a class. -/
def pick (s : State) (core : Nat) (memory : Bool) : Option Ready :=
  let k := s.m.core core
  firstReady (if memory then k.rrMemory else k.rrVector).toNat (readySlots s core memory)

/-- The issue: the class's pointer passes beyond the colour, and the firing slot is latched. -/
def issued (s : State) (core : Nat) (memory : Bool) (r : Ready) : State :=
  let k := s.m.core core
  let p : BitVec 8 := BitVec.ofNat 8 (r.colour + 1)
  { s with m := { s.m with
      cores := tput s.m.cores core (if memory then { k with rrMemory := p } else { k with rrVector := p })
      cur := ⟨core, r.frame, r.idx, r.slot, 0⟩ } }

/-- The word in the firing slot of the block store. -/
def State.fetchWord (s : State) : Option Word :=
  (ctx? s).bind fun x => x.b.words[x.slot]?

/-- The instruction in the firing slot. -/
def State.fetch (s : State) : Option Instr :=
  s.fetchWord.bind fun w =>
    match decodeWord w with
    | .ok i => some i
    | .error _ => none

/-- The errors that an issue meets in its word and its block's header, which is read with it (02 R59, log 50): whether each is beyond
correction. -/
def Ctx.codeErrors (x : Ctx) : List Bool :=
  (x.n.hurt.filter fun (b, i, _) => b == x.w.block.toNat && (i == x.slot || i == 32)).map fun (_, _, unc) => unc

/-- Single-bit errors of the word and the header are corrected in place and counted (R59). -/
def Ctx.codeCorrect (x : Ctx) : Act := Act.seq [
  Act.each x.codeErrors fun unc => countErr (siteDie x.core) unc,
  modNode x.core x.a.node fun n => { n with
    hurt := n.hurt.filter fun (b, i, unc) => unc || b != x.w.block.toNat || (i != x.slot && i != 32) } ]

/-- The instruction that issues and the state in which it does, or the state that is left where none does: an error beyond correction
faults the wave before the slot fires (R59). -/
def State.fetched (s : State) : Except State (Instr × State) :=
  match ctx? s, s.fetch with
  | some x, some i =>
    if x.codeErrors = [] then .ok (i, s)
    else
      let t := x.codeCorrect.run s
      if x.codeErrors.contains true then .error ((takeFault x.who Code.blockEcc 0 0 x.seq 0).run t) else .ok (i, t)
  | _, _ => .error s

end Sys2Proof.Machine
end

