-- ==== Sys2Proof/Machine/Commit.lean ====
section
/-! DEFINITION. The commit of a block (spec 01 R23 to R25, 06 R119 to R124, 07 R137 to R144, 10 R177, R185), what acknowledgements
let go, and the end of waves, colours and nodes (01 R29, R30, 07 R141). -/

namespace Sys2Proof.Machine

/-! ## When a wave commits (R23) -/

/-- The credits that an output takes at its commit: one for each token (R29, 13 R230). -/
def CAct.costs : CAct → List (Net × Nat × Nat)
  | .out n p _ => [(n, p, 1)]
  | .scaled n p _ _ => [(n, p, 2)]
  | .send n p _ _ _ => [(n, p, 1)]
  | .spdr _ _ _ n p => [(n, p, 1)]
  | .ctxf _ _ t0 t1 => [t0, t1].filterMap fun t =>
    match t with
    | .port n p => some (n, p.toNat, 1)
    | _ => none
  | _ => []

def costAt (acts : List (Nat × CAct)) (net : Net) (p : Nat) : Nat :=
  sumNat (acts.flatMap fun (_, a) => a.costs.filterMap fun (n, q, k) => if n = net && q = p then some k else none)

/-- Every gated port has the credits that the wave's outputs take. -/
def Ctx.creditOk (x : Ctx) : Bool :=
  x.n.info.outs.all fun o => x.n.hasCredit o.net o.port x.colour (costAt x.w.acts o.net o.port)

/-- Every channel that the block binds has given its token, or can give none any more (R29). -/
def Ctx.channelsIn (x : Ctx) : Bool :=
  x.a.kind ≠ .default || (bindings x.n x.w).all fun b =>
    b.frame || x.w.chans.contains b.src || ((x.n.chan b.src x.colour).closed && (x.n.chan b.src x.colour).queue == [])

/-- No instruction of the wave is ready, or waits only for what is still to come of earlier ones. -/
def Ctx.idle (s : State) (x : Ctx) : Bool :=
  !(upFrom x.w.slots.length 0).any fun i =>
    let y := { x with slot := i }
    y.ins.any fun (o, f) => y.ready s o f && y.due s o f

/-- Every input channel of a node is closed for a colour and holds nothing for it. -/
def NodeState.channelsClosed (n : NodeState) (c : Colour) : Bool :=
  n.info.ins.all fun i => let x := n.chan i.chan c; x.closed && x.queue == [] && x.hold.isNone

/-- Whether a wave holds, or is owed, something from outside (R29). -/
def Activation.holds (a : Activation) (w : Wave) : Bool := w.outside || w.fault || w.pend ≠ [] || tgetD 0 a.owed w.idx ≠ 0

/-- Whether the oldest wave of an activation is to be withdrawn: every channel has closed, and it holds nothing from outside (R29). -/
def Ctx.withdrawn (x : Ctx) : Bool :=
  x.n.info.ins ≠ [] && x.n.channelsClosed x.colour && !x.a.holds x.w

/-- One exit has fired, and the stores and outputs are all there (R23). -/
def Ctx.complete (x : Ctx) : Bool := x.w.exit.isSome && x.w.stores == blockNst x.b && x.w.outputs == blockNout x.b

/-- Whether the oldest wave of an activation may commit (log 36). -/
def Ctx.commits (s : State) (x : Ctx) : Bool :=
  x.first && !x.w.fault && !x.a.spilled && !x.n.frozen && s.issues x.a.cfg && !s.halted x.core && x.complete && x.creditOk && x.w.pend == [] && x.w.framed && x.channelsIn && !x.withdrawn && x.idle s &&
    tgetD 0 x.a.owed x.idx == 0

/-! ## The checks as the commit begins (R121, R123, R137, R144, 13 R232) -/

/-- The core that hosts a node of a configuration. -/
def State.hostOf (s : State) (cfg core handle : Nat) : Nat :=
  let here (k : CoreState) : Bool := k.nodes.any fun (_, n) => n.cfg == cfg && n.info.handle.toNat == handle
  if here (s.m.core core) then core else ((s.m.cores.find? fun (_, k) => here k).map Prod.fst).getD core

def State.nodeOf (s : State) (cfg core handle : Nat) : Option NodeState :=
  ((s.m.core (s.hostOf cfg core handle)).nodes.find? fun (_, n) => n.cfg == cfg && n.info.handle.toNat == handle).map Prod.snd

def leaves : CAct → Bool
  | .cap .go => true
  | .cap (.park _) => true
  | _ => false

/-- The first breach: its slot and code. -/
def Ctx.commitFault (s : State) (x : Ctx) : Option (Nat × Nat) :=
  let acts := bySlot x.w.acts
  let gone := acts.any fun (_, a) => leaves a
  (acts.findSome? fun (i, a) =>
    match a with
    | .spawn c =>
      match s.nodeOf x.a.cfg x.core c.handle with
      | some n => if n.info.colours.getLsbD x.colour.toNat then none else some (i, Code.spawnColour)
      | none => none
    | .send net port p _ _ =>
      match s.portGroup x.n net port, s.place (clusterOf x.core) x.colour x.a.cfg p.toNat with
      | [], .error _ => some (i, Code.place)
      | _, _ => none
    | _ => none).orElse fun _ =>
      (match capPlan x.a.kind x.width (freshCapsule s x.core x.a.cfg x.width x.colour) x.a.held acts with
        | .error e => some e
        | .ok _ => none).orElse fun _ =>
        (joinFault x.a.enrol acts).orElse fun _ =>
          if x.a.kind ≠ ActKind.capsule then none
          else if gone && x.w.exit ≠ some Exit.retire then some (0, Code.capExit)
          else if !gone && x.w.exit = some Exit.retire then some (0, Code.capNogo)
          else none

/-! ## What a commit does -/

/-- One more reply to come into a wave of an activation (R121). -/
def owe (r : Reply) : Act := modAct r.core r.frame fun a =>
  if a.uid = r.uid then { a with owed := tput a.owed r.wave (tgetD 0 a.owed r.wave + 1) } else a

def oweOpt (r : Option Reply) : Act :=
  match r with
  | some r => owe r
  | none => .quiet

def sendReply (src : Nat) (r : Reply) (t : Token) : Act := send src r.core .q0 (.reply r t)

def takeCredits (core node : Nat) (net : Net) (p : Nat) (c : Colour) : Nat → Act
  | 0 => .quiet
  | n + 1 => (takeCredit core node net p c).andThen (takeCredits core node net p c n)

/-- An output leaves a port, with its credits. -/
def Ctx.leave (x : Ctx) (net : Net) (p credits : Nat) (a : CAct) : Act :=
  (takeCredits x.core x.a.node net p x.colour credits).andThen (portOut x.core x.a.node net p x.colour a)

/-- A token in the error sink: a release, counted if it is error or poison (R40, 15 R257). -/
def Ctx.toSink (x : Ctx) (t : Token) : Act :=
  (nodeRelease x.core x.a.node x.colour).andThen (Act.when t.isBad (countSink x.colour))

/-- In a capsule activation, whose frame is its tile, `slots` holds only what `ctxf` writes in the commit under way (R121), by slot
and frame slot, until the capsule's changes are applied. -/
def tileKey (slot n : Nat) : Nat := slot * 128 + n

/-- The frame writes that a commit has gathered so. -/
def tileWrites (slots : Tab Token) : List (Nat × CAct) := slots.map fun (k, t) => (k / 128, .frame (k % 128) t)

/-- A token that a target receives at the commit itself. -/
def Ctx.deliverNow (x : Ctx) (tg : Target) (t : Token) : Act :=
  match tg with
  | .frame n => modAct x.core x.frame fun a =>
      { a with slots := tput a.slots (if a.kind = .capsule then tileKey x.slot n.toNat else n.toNat) t }
  | .port net p => x.leave net p.toNat 1 (.out net p.toNat (if net = .control then ctlToken t else t))
  | .reply =>
    match x.a.reply with
    | some r => sendReply x.core r t
    | none => .quiet
  | .sink => x.toSink t
  | _ => .quiet

/-- An activation ends at once, or after the acknowledgements of its stores and what they let go. -/
def endOnce (core frame : Nat) (a : Activation) : Act :=
  if a.unacked = 0 && a.answers = [] && a.after = [] then endActivation core frame
  else modAct core frame fun a => { a with ending := true }

/-- `ctxf` (R121): the status, and the end of a parked activation. The committing wave is gone by then, its exit still to come
(log 107). -/
def Ctx.endContext (x : Ctx) (fr : Nat) : State → Nat × Act := fun s =>
  match s.m.act? x.core fr with
  | some a =>
    if a.kind ≠ .explicit || a.colour ≠ x.colour || a.node ≠ x.a.node || a.ending then (2, .quiet)
    else if a.waves ≠ [] || a.next ≠ .ended then (1, .quiet)
    else (0, endOnce x.core fr a)
  | none => (2, .quiet)

/-- A changed control word: from inline to fixed the scale tokens held are discarded (10 R190). -/
def Ctx.setEntry (x : Ctx) (e : Nat) (ctl : Lane) : Act := .look fun s =>
  let k := s.m.core x.core
  let v := tgetD ⟨0, 0, false⟩ k.vc e
  let dropHeld : Act :=
    if v.ctl.getLsbD 8 && !ctl.getLsbD 8 then
      Act.each k.nodes fun (id, n) =>
        Act.each (n.chans.filter fun (key, cs) => cs.hold.isSome && n.info.ins.any fun i => i.chan == key / 256 && i.entry == e)
          fun (key, cs) => (modNode x.core id fun n => { n with chans := tput n.chans key { cs with hold := none } }).andThen
            (nodeDiscard x.core id (BitVec.ofNat 8 key))
    else .quiet
  dropHeld.andThen (modCore x.core fun k => { k with vc := tput k.vc e { v with ctl := ctl } })

/-- Scale words replaced. -/
def Ctx.setScale (x : Ctx) (e : Nat) (ls : List Lane) : Act := modCore x.core fun k =>
  let v := tgetD ⟨0, 0, false⟩ k.vc e
  { k with vc := tput k.vc e { v with
      scale := BitVec.ofNat 128 (lanesNat (ls ++ (natLanes 4 v.scale.toNat).drop ls.length)) } }

/-- A cluster event of the block goes once the store-class events before it have gone (13 R218). -/
def Ctx.sendEvent (x : Ctx) (e : OutEvent) : Act := (queueOuts x.core x.a.uid [e]).andThen (sendOuts x.core x.a.uid 4096)

def Ctx.tileEvent (x : Ctx) (t : Nat) (op : TileOp) : Act := x.sendEvent (.tile ⟨x.who, clusterOf x.core, t, op⟩)

/-- The class of a command. -/
def CmdKind.cls : CmdKind → Nat
  | .mxb .. => classM
  | .mxz => classM
  | .mxr .. => classM
  | .mxck .. => classM
  | .cpy .. => classS
  | .gath .. => classS
  | .scat .. => classS
  | .tfill .. => classS
  | .tdrain .. => classS
  | .sealo .. => classE
  | .sealc .. => classE
  | .seals .. => classE
  | _ => classC

/-- A command that no island takes goes to its unit. -/
def sendCmd (c : Cmd) : Act :=
  match c.kind.cls with
  | 1 => streamSend c
  | 5 => sealSend c
  | _ => fabCommand c

/-- What waits until the activation's stores are acknowledged goes. -/
def afterDo (core cfg uid : Nat) (a : CAct) : Act :=
  match a with
  | .cap (.leave h code) => capLeave core cfg uid h code
  | .cap (.copy h) => forward core cfg h none
  | .bar e => sendBar e
  | .cmd c => sendCmd c
  | _ => .quiet

/-- What a commit or an acknowledgement lets go; an activation that has ended is then gone. -/
def flushAfter (core frame : Nat) : Act := .look fun s =>
  match s.m.act? core frame with
  | none => .quiet
  | some a =>
    if a.unacked ≠ 0 || a.answers ≠ [] then .quiet
    else
      Act.seq [
        modAct core frame fun a => { a with after := [] },
        Act.each a.after fun (_, x) => afterDo core a.cfg a.uid x,
        Act.when a.ending (endActivation core frame),
        settleFault core frame ]

def Ctx.later (x : Ctx) (a : CAct) : Act := modAct x.core x.frame fun b => { b with after := b.after ++ [(x.idx, a)] }

/-- A barrier event (13 R232): an arrival waits for the acknowledgements of earlier stores, and events after it with it. -/
def Ctx.barEvent (x : Ctx) (e : BarEv) : Act :=
  Act.seq [
    modAct x.core x.frame fun a =>
      match e.op with
      | .join => { a with enrol := a.enrol ++ [⟨e.scope, e.idx⟩] }
      | .leave => { a with enrol := a.enrol.filter fun y => !(y.scope == e.scope && y.idx == e.idx) }
      | _ => a,
    oweOpt e.reply,
    .look fun s =>
      let held := match s.m.act? x.core x.frame with
        | some a => a.after.any fun (_, y) => match y with
          | .bar _ => true
          | _ => false
        | none => false
      if e.op = .arrive || held then x.later (.bar e) else x.sendEvent (.bar e) ]

/-- A `capn` committed (07 R141, R144; 15 R257). An adoption takes the tokens that fed it as a new capsule does, so it is a release too: R306's
handler is fed more records than its entry's quota (log 130). -/
def Ctx.capMade (x : Ctx) (a : CapAct) : Act :=
  match a with
  | .new .. => (nodeRelease x.core x.a.node x.colour).andThen (liveMod x.a.cfg x.colour 1 0)
  | .adopt handle => .look fun s =>
    match s.m.pkg.parked.find? fun p => p.handle == handle with
    | none => .quiet
    | some p => Act.seq [
        nodeRelease x.core x.a.node x.colour,
        .pkg fun q => { q with parked := q.parked.filter fun y => y.handle ≠ handle },
        spoilSub p.colour p.cap.size,
        Act.when (p.cfg ≠ some x.a.cfg) ((p.cfg.elim .quiet fun g => liveMod g p.colour 0 1).andThen (liveMod x.a.cfg p.colour 1 0)) ]
  | _ => .quiet

/-- A yield (17 R303): a round of the configuration, which ranks it as the newest bid where asked. -/
def Ctx.yield (x : Ctx) (newest : Bool) (seq : BitVec 16) (r : Option Reply) : Act :=
  Act.seq [
    .pkg fun p =>
      match tget? p.confs x.a.cfg with
      | some f => { p with
          confs := tput p.confs x.a.cfg { f with
            yields := f.yields ++ r.toList.map fun r => (r, seq), age := if newest then p.nextAge else f.age }
          nextAge := if newest then p.nextAge + 1 else p.nextAge }
      | none => p,
    startRound x.a.cfg ]

/-- One effect of a block, in its slot; stores and capsule changes go apart. -/
def Ctx.commitAct (x : Ctx) (a : CAct) : Act :=
  match a with
  | .frame n t => Act.when (x.a.kind ≠ .capsule) (modAct x.core x.frame fun b => { b with slots := tput b.slots n t })
  | .out net p _ => x.leave net p 1 a
  | .scaled net p _ _ => x.leave net p 2 a
  | .send net p _ _ _ => x.leave net p 1 a
  | .eos net p _ _ => x.leave net p 0 a
  | .wedge net p _ _ => x.leave net p 0 a
  | .demand net p chan k _ =>
    match outPortOf x.n.info net p with
    | none => .quiet
    | some o => Act.each o.dests fun d =>
      match d with
      | .chan core node _ => send x.core core .q3 (.demand core node chan x.colour k)
      | .exit cfg port => send x.core (exitUnit cfg port) .q3 (.demandEntry cfg port x.colour k)
      | _ => .quiet
  | .spawn c => .look fun s =>
    let core := s.hostOf x.a.cfg x.core c.handle
    (oweOpt c.reply).andThen (send x.core core .q0 (.spawn { c with core := core }))
  | .ctxa fr g l => .look fun s =>
    startAct x.core { newAct x.colour fr (s.m.core x.core).nextUid g x.a.node x.a.cfg .explicit l.seq 0 with
      slots := [(0, seedSlot x.colour l g)] }
  | .ctxf fr l t0 t1 => .look fun s =>
    let (st, act) := x.endContext fr s
    let t := { l with lanes := padLanes x.width [BitVec.ofNat 32 st] }
    Act.seq [act, x.deliverNow t0 t, x.deliverNow t1 t]
  | .cap c => x.capMade c
  | .vcset e ctl => x.setEntry e ctl
  | .sclset e ls => x.setScale e ls
  | .tag op => x.sendEvent (.tag ⟨x.who, clusterOf x.core, op, true⟩)
  | .tile t op => x.tileEvent t op
  | .spdr t level l net p => Act.seq [
      takeCredits x.core x.a.node net p x.colour 1,
      modNode x.core x.a.node fun n =>
        let ps := n.portOf net p x.colour
        n.setPort net p x.colour { ps with backlog := ps.backlog ++ [(false, a)] },
      x.tileEvent t (.spdr level l net p x.a.node) ]
  | .bar e => x.barEvent e
  | .cmd c => Act.seq [
      modAct x.core x.frame fun b => { b with cmdsOut := tput b.cmdsOut c.kind.cls (tgetD 0 b.cmdsOut c.kind.cls + 1) },
      oweOpt c.reply,
      match x.n.info.island with
      | some i => if c.kind.cls = classM then x.sendEvent (.cmd i c) else x.later a
      | none => .when (c.kind.cls ≠ classM) (x.later a) ]
  | .sysw reg ls l r => (oweOpt r).andThen (syswCommit reg ls x.colour l r)
  | .resume skip ls l r => .look fun s =>
    let (st, act) := resumeMaster skip ls s
    Act.seq [oweOpt r, act, statusReply x.width x.colour l r st]
  | .yield newest seq r => (oweOpt r).andThen (x.yield newest seq r)
  | .cntrClear i l r => .look fun s =>
    Act.seq [
      oweOpt r,
      .pkg fun p => { p with counters := tput p.counters i 0 },
      (match r with
        | some t => send 90000 t.core .q1 (.reply t (mkTok x.colour .data l.seq (padLanes x.width (s.counter i))))
        | none => .quiet) ]
  | .fltrClear a => clearWords a 32
  | .answer r t => (if r.uid = x.a.uid && r.core = x.core then owe r else .quiet).andThen (sendReply x.core r t)
  | .sink t => x.toSink t
  | .drop => nodeRelease x.core x.a.node x.colour
  | .errCount => countSink x.colour
  | .store .. => .quiet

/-! ### Stores (10 R177, R180, R185) -/

/-- The requests of one store-class operator on address `va`, with whether each continues a split access. -/
def Ctx.storeReqs (x : Ctx) (det : Bool) (slot : Nat) (kind : ReqKind) (pieces : List (Nat × Nat × PageMode)) (va : Nat) (answer : Bool) :
    List (Bool × Req) :=
  let sp := (x.spaceAt slot).getD .k
  (pieces.foldl (fun ((acc, off) : List (Bool × Req) × Nat) (h, n, m) =>
    let k := match kind with
      | .store (.bytes bs) => ReqKind.store (.bytes ((bs.drop off).take n))
      | k => k
    let r : Req := ⟨.task { x.who with slot := slot }, x.colour, acc.length, h, n, m, k, [], det, x.a.cfg, answer, sp, va + off, false⟩
    let lost : Bool := match k with
      | .store (.err _) => m == .plain
      | _ => false
    (if lost = true then acc else acc ++ [(!acc.isEmpty, r)], off + n)) ([], 0)).1

/-- The reply target of the instruction in a slot. -/
def Ctx.replyOf (x : Ctx) (slot : Nat) : Option Reply :=
  match blockIns x.b slot with
  | some (_, f) => x.replyTarget f.common
  | none => none

/-- The store-class events of the block, in ascending SQO. -/
def Ctx.commitStores (x : Ctx) (det : Bool) : Act :=
  let stores := sortBy Prod.fst (x.w.acts.filterMap fun (slot, a) =>
    match a with
    | .store sqo kind pieces va answer seq => some (sqo, slot, kind, pieces, va, answer, seq)
    | _ => none)
  Act.seq [
    Act.each stores fun (_, slot, kind, pieces, va, answer, seq) =>
      let reqs := x.storeReqs det slot kind pieces va answer
      let sunk := match kind with
        | .store (.err _) => pieces.any fun p => p.2.2 == .plain
        | _ => false
      let reply := x.replyOf slot
      Act.seq [
        Act.when sunk (countSink x.colour),
        (if kind.isAtomic then
          (modAct x.core x.frame fun a => { a with answers := a.answers ++ [(x.idx, slot, reply, seq)] }).andThen (oweOpt reply)
        else modAct x.core x.frame fun a => { a with unacked := a.unacked + reqs.length }),
        queueOuts x.core x.a.uid (reqs.map fun (after, r) => .req after r) ],
    sendOuts x.core x.a.uid 4096 ]

/-! ### The wave goes (R23, R119) -/

/-- The capsule changes of a commit that begins in the state s: the held capsule as they leave it, the copies and the capsule that
leaves wait for the acknowledgements (07 R137, R138, R140). -/
def Ctx.commitCapsule (x : Ctx) (s : State) : Act := .look fun s' =>
  let late := if x.a.kind = .capsule then ((s'.m.act? x.core x.frame).map fun a => tileWrites a.slots).getD [] else []
  match capPlan x.a.kind x.width (freshCapsule s x.core x.a.cfg x.width x.colour) x.a.held (x.w.acts ++ late) with
  | .error _ => .quiet
  | .ok plan =>
    let copies := plan.copies.map fun h => CAct.cap (.copy h)
    let goes := match plan.leave with
      | some (h, code) => [CAct.cap (.leave h code)]
      | none => []
    Act.seq [
      modAct x.core x.frame fun a => { a with held := plan.held, slots := if a.kind = .capsule then [] else a.slots },
      Act.each plan.copies fun h => liveMod h.home h.cap.colour 1 0,
      Act.each (copies ++ goes) x.later ]

/-- Tokens queued on a default activation's channels after `retire` are late (R119). -/
def dropQueued (core node : Nat) (c : Colour) : Act := .look fun s =>
  match s.m.node? core node with
  | none => .quiet
  | some n => Act.each n.info.ins fun i =>
      (modNode core node fun n => n.setChan i.chan c { n.chan i.chan c with queue := [] }).andThen
        (Act.each (n.chan i.chan c).queue fun t => nodeLate core node 0 t)

/-- Tokens that wait for a window that will never be are late. -/
def dropTagged (core frame : Nat) : Act := .look fun s =>
  match s.m.act? core frame with
  | none => .quiet
  | some a => (modAct core frame fun a => { a with tagged := [] }).andThen
      (Act.each a.tagged fun (_, t) => nodeLate core a.node frame t)

/-- An activation that holds no wave and opens none will send no reply: its creator's wave is owed none (R119, R121). -/
def noReply (a : Activation) : Act :=
  match a.reply with
  | some r => replyCame r
  | none => .quiet

/-- What a wave's exit does at its commit. -/
def Ctx.commitExit (x : Ctx) : Act :=
  match x.w.exit with
  | some (.ret l) => Act.seq [
      (match x.a.reply with
        | some r => sendReply x.core r l
        | none => .quiet),
      modAct x.core x.frame fun a => { a with next := .ended, ending := true } ]
  | some .retire => Act.seq [
      modAct x.core x.frame fun a => { a with next := .ended, ending := a.kind = .capsule },
      dropTagged x.core x.frame,
      noReply x.a,
      Act.when (x.a.kind = .default) (dropQueued x.core x.a.node x.colour) ]
  | _ => .quiet

/-- The commit (R23 to R25): its window is freed, then every effect takes place as one event, and the next wave's frame bindings
are performed. -/
def Ctx.commit (x : Ctx) : Act := .look fun s =>
  match x.commitFault s with
  | some (slot, code) => takeFault { x.who with slot := slot } code 0 0 x.a.seq 0
  | none => Act.seq [
      modAct x.core x.frame fun a => { a with
        waves := a.waves.filter fun w => w.idx ≠ x.idx, owed := tdel a.owed x.idx },
      x.commitStores (s.confDet x.a.cfg),
      Act.each (bySlot x.w.acts) fun (i, a) => Ctx.commitAct { x with slot := i } a,
      x.commitCapsule s,
      x.commitExit,
      flushAfter x.core x.frame,
      bindFrame x.core x.frame,
      settleFault x.core x.frame ]

/-- R23: the oldest wave of the activation at a frame commits where every condition holds. -/
def execBlockCommit (s : State) : Host.Outcome State Fault Refusal :=
  .next ((Act.look fun s =>
    match s.m.act? s.m.at_.core s.m.at_.frame with
    | none => .quiet
    | some a =>
      match a.waves with
      | [] => .quiet
      | w :: _ =>
        match ctxAt s s.m.at_.core s.m.at_.frame w.idx 0 with
        | some x => if x.commits s then x.commit else .quiet
        | none => .quiet).run s)

/-! ## Acknowledgements and answers (10 R177, R185; 13 R219 to R222; 17 R299, R302) -/

/-- The lanes of an atomic's old value. -/
def oldLanes (bs : List Byte) : List Lane := bytesLanes bs (bs.length / 4)

/-- An answer to a committed atomic: its reply, where it has a target. -/
def atomicAnswer (core frame : Nat) (a : Activation) (wave slot : Nat) (v : AnsVal) : Act :=
  match a.answers.find? fun y => y.1 == wave && y.2.1 == slot with
  | none => .quiet
  | some y =>
    let (_, _, reply, seq) := y
    let t : Option Token := match v with
      | .bytes bs => some (mkTok a.colour .data seq (padLanes a.width (oldLanes bs)))
      | .err c => some (errTok a.colour c seq a.width)
      | .poison => some (mkTok a.colour .poison seq (List.replicate a.width 0))
      | _ => none
    (modAct core frame fun b => { b with answers := b.answers.erase y }).andThen
      (match reply, t with
        | some r, some t => itemOrSpill core (.reply r t)
        | _, _ => .quiet)

/-- An answer to an operator that waits for one answer of a unit. -/
def unitAnswer (w : Who) (x : Ctx) (p : Pend) (v : AnsVal) : Act :=
  let put (ls : List Lane) : Act := x.emit x.common (x.late p .data (padLanes x.width ls))
  match p.kind, v with
  | .look, .lanes ls => (dropPend w).andThen (put ls)
  | .cntr, .lanes ls => (dropPend w).andThen (put ls)
  | .twait, .lanes ls => Act.seq [dropPend w, x.mod fun v => { v with memDone := v.memDone + 1 }, put ls]
  | .tinst op, .granted => (dropPend w).andThen (x.record (.tag op))
  | .tinst op, .refused c => pendFault w p c 0 (match op with
      | .ins a _ _ => a
      | _ => 0)
  | .fltr clear a, .bytes bs => fltr clear a (put (bytesLanes bs 8))
  | .fltr clear a, .err c => fltr clear a (x.emit x.common (x.lateErr p c))
  | .fltr clear a, .poison => fltr clear a (x.emit x.common (x.latePoison p))
  | _, _ => .quiet
where
  /-- A record's read answered (17 R299): its words are cleared at commit with CLR. -/
  fltr (clear : Bool) (a : Nat) (put : Act) : Act := Act.seq [dropPend w, put, Act.when clear (x.unless (x.record (.fltrClear a)))]

/-- A piece of a committed split store is acknowledged: the piece after it goes (09 R157). -/
def nextPiece (w : Who) (piece : Nat) : Act := .look fun s =>
  match tget? (s.m.core w.core).outs w.uid with
  | some q =>
    match q.events with
    | .req true r :: _ =>
      if r.who = .task w && r.piece = piece + 1 then
        (modCore w.core fun k => { k with outs := tput k.outs w.uid { q with waiting := false } }).andThen
          (sendOuts w.core w.uid 4096)
      else .quiet
    | _ => .quiet
  | none => .quiet

/-- An answer reaches a task's operator. -/
def taskAnswer (w : Who) (piece : Nat) (v : AnsVal) : Act := .look fun s =>
  match s.m.actOf? w with
  | none => .quiet
  | some a =>
    if (a.wave? w.wave).isSome then
      match pendAt s w with
      | none => .quiet
      | some (x, p) =>
        match p.kind with
        | .load _ => pieceAnswer w piece v
        | .ldp => pieceAnswer w piece v
        | .link _ _ _ => pieceAnswer w piece v
        | .dsb _ _ _ => pieceAnswer w piece v
        | .store _ _ => pieceAnswer w piece v
        | .buffer => .quiet
        | _ => unitAnswer w x p v
    else
      (if a.answers.any fun y => y.1 == w.wave && y.2.1 == w.slot then atomicAnswer w.core w.frame a w.wave w.slot v
      else match v with
        | .ack => (modAct w.core w.frame fun b => { b with unacked := b.unacked - 1 }).andThen (nextPiece w piece)
        | _ => .quiet).andThen (flushAfter w.core w.frame)

/-- An answer at its core: the value that a load reads goes to the spoil where its colour was evicted (R162) or an earlier item of its
activation lies there (R163). -/
def answerArrive (w : Who) (piece : Nat) (v : AnsVal) : Act := .look fun s =>
  let k := s.m.core w.core
  let item := Spilled.answer w piece v
  let value := match v with
    | .ack => false
    | .granted => false
    | .refused _ => false
    | _ => true
  if value && (k.evicted.contains w.colour || k.spilt item) && (pendAt s w).isSome then spill w.core item else taskAnswer w piece v

/-- The lines that a spilled item asks for as it arrives again: those of its token, and a frame's where it opens a default activation. EOS
takes none, nor does a token or an answer to a load that a standing window takes. -/
def Spilled.room (s : State) (core : Nat) (x : Spilled) : Nat :=
  let k := s.m.core core
  let stands (frame : Nat) (f : Activation → Bool) : Nat := if (tget? k.acts frame).any f then 0 else x.tok?.elim 0 tokenLines
  match x with
  | .chan node ch t _ =>
    if t.kind = .eos then 0
    else
      match s.m.node? core node with
      | none => 0
      | some n =>
        let entry := ((n.info.ins.find? fun i => i.chan == ch).map InChan.entry).getD 0
        let scale := inlineScale k entry && t.kind ≠ .stop && (n.chan ch x.colour).hold.isNone
        (if (k.defaultOf node x.colour).isNone then frameLines n.info.frame n.info.width else 0) +
          (if k.bindsNow n node ch x.colour && !scale then 0 else tokenLines t)
  | .tag t => stands t.frame.toNat fun a => (a.wave? (a.waveOf t)).isSome
  | .reply r _ => stands r.frame fun a => (a.wave? r.wave).isSome
  | .sent desc _ => stands (bits desc.toNat 16 10) fun a =>
      (s.m.node? core a.node).any fun n =>
        (fieldAt (if desc.getLsbD 31 then 1 else 0)).any fun f => (oldestEmpty n a (bits desc.toNat 26 5) f).isSome
  | .answer _ _ _ => 0

/-- An item of the spoil arrives again (R163). -/
def replay (core : Nat) (x : Spilled) : Act :=
  match x with
  | .answer w piece v => taskAnswer w piece v
  | x => itemArrive core x

/-- R163: the oldest spilled item of its key, the k-th of the core's spoil, arrives again where its colour has lines for it,
ahead of those of its key. -/
def execTokenReplay (s : State) : Host.Outcome State Fault Refusal :=
  .next ((Act.look fun s =>
    let core := s.m.at_.core
    let k := s.m.core core
    match k.spill[s.m.at_.k]? with
    | none => .quiet
    | some x =>
      if (k.spill.take s.m.at_.k).any (fun y => y.key == x.key) || k.evicted.contains x.colour ||
          !(k.occupy x.colour).grants x.colour (x.room s core) then .quiet
      else
        let behind := (k.spill.drop (s.m.at_.k + 1)).filter fun y => y.key == x.key
        Act.seq [modCore core fun k => { k with spill := k.spill.filter fun y => y.key != x.key }, spoilSub x.colour 256,
          occupyCore core x.colour, replay core x, modCore core fun k => { k with spill := k.spill ++ behind }]).run s)

/-- R177: message k, an acknowledgement or an answer, reaches the core, the streamer, the island, the collective or the seal engine that
waits for it. -/
def execAcknowledgement (s : State) : Host.Outcome State Fault Refusal :=
  .next ((Act.look fun s =>
    match s.m.msg? s.m.at_.k with
    | some msg =>
      match msg.body with
      | .ans a =>
        let take := takeMsg s.m.at_.k
        match a.who with
        | .task w => take.andThen (answerArrive w a.piece a.val)
        | .queue _ => .quiet
        | .streamer id => take.andThen (modStream id fun c => { c with waiting := false, got := some a.val })
        | .island id => take.andThen (modIsland id fun i => { i with
            waiting := none, got := i.got ++ i.waiting.toList.map fun b => (b, a.val) })
        | .coll id => Act.seq [take, modColl id fun c => { c with waiting := false }, .look fun s =>
            match s.coll? id with
            | some c => if c.started then collProgress id else if c.frozen then .quiet else collStart id
            | none => .quiet, retryEarly]
        | .engine => match s.sealing? a.piece with
          | some x => sealStep take x
          | none => take
      | _ => .quiet
    | none => .quiet).run s)

/-! ## The end of waves and colours (01 R12, R29; 07 R141) -/

/-- The activations of a node for a colour. -/
def CoreState.actsOf (k : CoreState) (node : Nat) (c : Colour) : List Activation :=
  (k.acts.filter fun (_, a) => a.node == node && a.colour == c).map Prod.snd

/-- No wave of a colour is left, and none is to come. -/
def CoreState.noWaves (k : CoreState) (node : Nat) (c : Colour) : Bool :=
  (k.actsOf node c).all (fun a => a.waves == [] && a.next == .ended) && !k.spill.any fun x => x.colour == c

/-- A withdrawal (R29): the oldest wave commits nothing and fixes no successor; one that stands already goes on, or is withdrawn in its
turn. -/
def withdrawWave (core frame : Nat) (a : Activation) (w : Wave) : Act :=
  let last := a.waves.length ≤ 1
  Act.seq [
    releaseWave ⟨core, frame, a.uid, w.idx, 0, a.colour, w.run⟩,
    .when w.buffer (freeBuffer core a.uid),
    modAct core frame fun a => { a with
      waves := a.waves.filter fun v => v.idx ≠ w.idx, owed := tdel a.owed w.idx, next := if last then .ended else a.next },
    bindFrame core frame,
    .when last ((dropTagged core frame).andThen (noReply a)) ]

/-- The first slot of a wave that holds a predicate without its data, or data without its predicate, for good (R31, log 44): nothing in
the wave can fire, it is not complete, and nothing more is to come into it. -/
def Ctx.leftover (s : State) (x : Ctx) : Option (Ctx × Field × Token) :=
  if x.w.fault || x.complete || x.w.pend ≠ [] || tgetD 0 x.a.owed x.idx ≠ 0 || !x.idle s then none
  else (upFrom x.w.slots.length 0).findSome? fun i =>
    let y := { x with slot := i }
    match y.ins, y.waiting with
    | some (o, g), some (f, t) => if imbalanced o g && !y.fields.fired then some (y, f, t) else none
    | _, _ => none

/-- R29: with every channel closed and every earlier wave committed, the oldest wave of the activation at a frame goes if it holds nothing
from outside; else it faults with PRED_IMBAL if a token stays unmatched there (R31). -/
def execWaveWithdraw (s : State) : Host.Outcome State Fault Refusal :=
  .next ((Act.look fun s =>
    let core := s.m.at_.core
    let frame := s.m.at_.frame
    match s.m.act? core frame with
    | none => .quiet
    | some a =>
      match s.m.node? core a.node, a.waves with
      | some n, w :: _ =>
        if n.info.ins ≠ [] && n.channelsClosed a.colour && w.framed && a.unacked == 0 && a.answers == [] then
          if !a.holds w then withdrawWave core frame a w
          else
            match (ctxAt s core frame w.idx 0).bind (Ctx.leftover s) with
            | some (x, f, t) => tokenFault x.who Code.predImbal (x.inField f t)
            | none => .quiet
        else .quiet
      | _, _ => .quiet).run s)

/-- The handles that a node names in its `spawn`s. -/
def NodeState.spawns (n : NodeState) : List Nat :=
  n.blocks.flatMap fun (_, b) => (blockAll b).filterMap fun (_, o, f) =>
    match f with
    | .c g => if o = 0x004 then some g.handle.toNat else none
    | _ => none

def NodeState.holdsCapn (n : NodeState) : Bool := n.blocks.any fun (_, b) => 0 < blockCount b fun o => o == 0x100

/-- The nodes of a configuration: core, index, node. -/
def State.nodesOf (s : State) (cfg : Nat) : List (Nat × Nat × NodeState) :=
  s.m.cores.flatMap fun (core, k) => (k.nodes.filter fun (_, n) => n.cfg == cfg).map fun (i, n) => (core, i, n)

/-- Whether a creation of an activation of a colour is on its way to a node, or waits there. -/
def State.creating (s : State) (core : Nat) (n : NodeState) (c : Colour) : Bool :=
  let here (x : Creation) : Bool := x.core == core && x.handle == n.info.handle.toNat && x.colour == c
  (s.m.core core).creations.any here || s.m.net.any fun y => match y.body with
    | .spawn x => here x
    | _ => false

/-- A node with input channels has closed for a colour; a creation that is still to take place counts as a wave (log 108). -/
def State.inputsClosed (s : State) (core node : Nat) (n : NodeState) (c : Colour) : Bool :=
  n.channelsClosed c && (s.m.core core).noWaves node c && !s.creating core n c

/-- A node holds no activation of a colour, and none is to be created there (log 108). -/
def State.noActs (s : State) (core node : Nat) (n : NodeState) (c : Colour) : Bool :=
  (s.m.core core).actsOf node c == [] && !s.creating core n c

/-- A capsule node has closed for a colour (07 R141): every node that holds `capn` has closed for it, those among capsule nodes
by holding no activation of it, and no capsule of it is live. -/
def State.capsulesClosed (s : State) (cfg : Nat) (c : Colour) : Bool :=
  (s.nodesOf cfg).all (fun (core, i, m) => !m.holdsCapn ||
    (if m.info.ins ≠ [] then s.inputsClosed core i m c else s.noActs core i m c)) &&
    ((tget? s.m.pkg.confs cfg).map fun f => tgetD 0 f.live c.toNat).getD 0 == 0

/-- The nodes without input channels that close together: those left once each that holds an activation, or that an open node
names in a `spawn`, is put out; n bounds the passes (R29). -/
def closingSet (s : State) (cfg : Nat) (c : Colour) : Nat → List (Nat × Nat × NodeState) → List (Nat × Nat × NodeState)
  | 0, xs => xs
  | k + 1, xs =>
    closingSet s cfg c k (xs.filter fun (core, i, n) =>
      (s.nodesOf cfg).all fun (core', j, m) =>
        (core' == core && j == i) || !m.spawns.contains n.info.handle.toNat ||
          (if m.info.ins ≠ [] then s.inputsClosed core' j m c
           else if m.info.capsule then s.capsulesClosed cfg c
           else xs.any fun y => y.1 == core' && y.2.1 == j))

/-- Whether a node has closed for a colour (R29, 07 R141). -/
def State.closed (s : State) (core node : Nat) (n : NodeState) (c : Colour) : Bool :=
  if n.info.ins ≠ [] then s.inputsClosed core node n c
  else if n.info.capsule then s.capsulesClosed n.cfg c
  else
    let start := (s.nodesOf n.cfg).filter fun (core', j, m) =>
      m.info.ins == [] && !m.info.capsule && s.noActs core' j m c
    (closingSet s n.cfg c start.length start).any fun y => y.1 == core && y.2.1 == node

/-- The default activation of a colour ends: at once, or after what it still has to do. -/
def endDefault (core node : Nat) (c : Colour) : Act := .look fun s =>
  match (s.m.core core).defaultOf node c with
  | some (f, a) => endOnce core f a
  | none => .quiet

/-- R29: a node that has closed for a colour sends EOS on each of its output channels, behind its outputs; its default
activation for the colour ends. -/
def execNodeEosSend (s : State) : Host.Outcome State Fault Refusal :=
  .next ((Act.look fun s =>
    let core := s.m.at_.core
    let node := s.m.at_.node
    let c : Colour := BitVec.ofNat 8 s.m.at_.colour
    match s.m.node? core node with
    | none => .quiet
    | some n =>
      if n.eosDone.getLsbD c.toNat || n.frozen || !n.info.colours.getLsbD c.toNat || !s.issues n.cfg || !s.closed core node n c then
        .quiet
      else Act.seq [
        modNode core node fun n => { n with eosDone := n.eosDone ||| (1#256 <<< c.toNat) },
        Act.each n.info.outs fun o =>
          portOut core node o.net o.port c (.eos o.net o.port (Config.freeSeq s.m.free) n.info.width),
        .mod fun m => { m with free := m.free + 1 },
        endDefault core node c ]).run s)

/-! ## Wedges (01 R30) -/

/-- Whether every input of a node that is awaited has a colour's wedge; a node without input channels has it injected. -/
def NodeState.wedgedIn (n : NodeState) (c : Colour) : Bool :=
  if n.info.ins = [] then n.wedges.contains c else n.info.ins.all fun i => i.back || (n.chan i.chan c).wedged

/-- Whether a node can neither fire nor commit. -/
def State.nodeIdle (s : State) (core node : Nat) : Bool :=
  (s.m.core core).acts.all fun (f, a) => a.node != node || a.waves.all fun w =>
    match ctxAt s core f w.idx 0 with
    | some x => x.idle s && !x.commits s
    | none => true

/-- R30: a node that is wedged on every input for every colour of its configuration, and can do nothing more, sends one wedge of
each on each output channel and freezes. -/
def execNodeWedgeFreeze (s : State) : Host.Outcome State Fault Refusal :=
  .next ((Act.look fun s =>
    let core := s.m.at_.core
    let node := s.m.at_.node
    match s.m.node? core node with
    | none => .quiet
    | some n =>
      let cs := s.confColours n.cfg
      let wedging := ((tget? s.m.pkg.confs n.cfg).map ConfState.phase) == some .wedging
      if n.frozen || !wedging || !cs.all n.wedgedIn || !s.nodeIdle core node then .quiet
      else Act.seq [
        Act.each n.info.outs fun o => Act.each cs fun c =>
          portOut core node o.net o.port c (.wedge o.net o.port (Config.freeSeq s.m.free) n.info.width),
        .mod fun m => { m with free := m.free + 1 },
        modNode core node fun n => { n with frozen := true } ]).run s)

end Sys2Proof.Machine
end

