-- ==== Sys2Proof/Machine/Check.lean ====
section
/-! DEFINITION. What the configuration wave checks that an instruction word does not carry in itself (spec 02 R41, R53 to R55, R58;
01 R13, R26; 03 R74, R77; 06 R117, R121, R125; 07 R142; 09 R159; 10 R176, R178, R188; 13 R216, R231; 15 R242, R245, R252; 17 R287,
R297; 21 R354): blocks against their node, records against their site. -/

namespace Sys2Proof.Machine

/-! ## A block's surroundings -/

/-- A node as its blocks are checked: its configuration, its core, its record and its blocks. While the image has been written in part, what lies
in a slab still to come is not asked for. -/
structure Env where
  s : State
  cfg : Nat
  core : Nat
  n : NodeState
  part : Bool

def Env.w (e : Env) : Nat := e.n.info.width
def Env.frame (e : Env) : Nat := e.n.info.frame

/-- The control word of the entry of an input channel. -/
def Env.chanCtl (e : Env) (chan : Nat) : Nat :=
  match e.n.info.ins.find? fun i => i.chan == chan with
  | some i => (tgetD (⟨0, 0, false⟩ : VcEntry) (e.s.m.core e.core).vc i.entry).ctl.toNat
  | none => 0

/-- Whether an instruction of a block uses a field of a slot. -/
def slotUses (b : Block) (slot : Nat) (f : Field) : Bool :=
  match blockIns b slot with
  | some (o, g) => usesField o g f
  | none => false

/-! ## Targets (R41) -/

/-- The blocks that an instruction's exit names. -/
def exitsOf (o : Nat) : Form → List Nat
  | .c g =>
    if o = 0x001 then [g.bt0.toNat]
    else if o = 0x002 then [g.bt0.toNat, g.bt1.toNat]
    else if o = 0x003 then upFrom (g.bt1.toNat + 1 - g.bt0.toNat) g.bt0.toNat
    else []
  | _ => []

/-- The blocks that a block's exits name. -/
def exitBlocks (b : Block) : List Nat := (blockAll b).flatMap fun (_, o, f) => exitsOf o f

/-- A reply target fits every block that its reply can land in. -/
def Env.replyOk (e : Env) (b : Block) (slot : Nat) (f : Field) : Bool :=
  exitBlocks b != [] && (exitBlocks b).all fun k =>
    match tget? e.n.blocks k with
    | some t => slotUses t slot f
    | none => false

/-- A target of the instruction in slot i. -/
def Env.targetOk (e : Env) (b : Block) (i : Nat) (reply : Bool) (t : Target) : Bool :=
  match t with
  | .window j f => if reply then e.replyOk b j.toNat f else j.toNat != i && slotUses b j.toNat f
  | .frame k => k.toNat < e.frame
  | .port net p => (outPortOf e.n.info net p.toNat).isSome && (net != .island || e.n.info.island.isSome)
  | _ => true

/-- Whether a channel of a node is in inline-scale mode. -/
def State.inlineAt (s : State) (core node chan : Nat) : Bool :=
  match s.m.node? core node with
  | some m => inlineScale (s.m.core core) (((m.info.ins.find? fun i => i.chan == chan).map InChan.entry).getD 0)
  | none => false

/-- Whether a target is an island channel, or a static or dynamic port all of whose receiving channels, those of a group's members
among them, are in inline-scale mode (03 R74). -/
def Env.inlinePort (e : Env) (t : Target) : Bool :=
  match t with
  | .port .island _ => true
  | .port .control _ => false
  | .port net p =>
    match outPortOf e.n.info net p.toNat with
    | some o => o.dests.all fun d =>
      match d with
      | .chan core node chan => e.s.inlineAt core node chan
      | .group cl grp node chan => (e.s.groupCores cl grp).all fun core => e.s.inlineAt core node chan
      | .island _ _ => true
      | _ => false
    | none => false
  | _ => false

/-- The targets of an instruction that sends scaled tokens: the first, and a second where it is not null (03 R74, 10 R182, R188). -/
def Env.inlineTargets (e : Env) (c : Common) : Bool := e.part || e.inlinePort c.t0 && (c.t1 == .null || e.inlinePort c.t1)

/-- Whether L of a slot is bound to a channel of a format. -/
def Env.boundTo (e : Env) (b : Block) (slot fmt : Nat) : Bool :=
  (blockBindings b).any fun x => !x.frame && x.slot == slot && x.field == .l && e.chanCtl x.src % 32 == fmt

/-! ## Instructions -/

/-- The parameter slots of an X instruction (R50). -/
def paramSlots (o : Nat) : Nat :=
  if o = 0x165 || o = 0x180 then 3
  else if o = 0x181 || o = 0x182 then 4
  else if o = 0x183 || o = 0x184 || o = 0x1A0 then 2
  else if o = 0x1B0 then 6
  else if o = 0x166 || o = 0x168 then 0
  else 1

/-- What an A instruction asks of its node. -/
def Env.formA (e : Env) (b : Block) (i o : Nat) (f : FormA) : Bool :=
  let w := e.w
  let sub := f.sub.toNat
  if o = 0x00A then w ≤ 16
  else if [0x00B, 0x16B, 0x16C].contains o then w % 2 == 0
  else if o = 0x02D || o = 0x02F then sub < w
  else if o = 0x007 then 0 < e.frame
  else if o = 0x021 then f.ty.toNat % 4 * 32 + sub < e.frame
  else if [0x065, 0x07E, 0x07F, 0x0C3].contains o then sub < e.frame
  else if [0x085, 0x086, 0x0D5, 0x0D6].contains o then sub < 16 || sub % 16 < e.frame
  else if o = 0x163 then (sub != 1 && sub != 2) || 2 ≤ w
  else if o = 0x189 || o = 0x18A then 8 ≤ w
  else if o = 0x132 then blockLanes sub ≤ w && e.inlineTargets f.c
  else if o = 0x133 then blockLanes sub ≤ w && e.boundTo b i sub
  else if o = 0x02B || o = 0x02C then
    let src := f.imm.toNat % 32
    let es := fmtElems src w
    let d := fmtElems sub w
    e.n.info.cword.isSome && (!isBlockFmt src || e.boundTo b i src) &&
      (if o = 0x02C then isBlockFmt sub && es ≤ d
       else if isBlockFmt sub then (es ≤ d || f.c.t1 != .null) && e.inlineTargets f.c
       else if es ≤ d then f.c.t1 == .null else f.c.t1 != .null)
  else true

/-- Whether a memory operator is an atomic. -/
def isAtomicOp (o : Nat) : Bool := inRange 0x124 0x12E o

/-- No operator but an atomic follows an atomic in the block's chain (R178). -/
def chainOk (b : Block) (o : Nat) (f : FormM) : Bool :=
  isAtomicOp o || (blockAll b).all fun (_, p, g) =>
    match g with
    | .m g => !isAtomicOp p || !(g.sqo == f.sqp || g.sqs == f.sqo)
    | _ => true

/-- The registers of colour 0 alone, and the width that a register needs (R297). -/
def sregOk (e : Env) (r : Nat) : Bool :=
  (r < 0x100 || e.n.info.colours &&& ~~~1#256 == 0) &&
    (if r = 0x009 || r = 0x101 || r = 0x102 then 2 ≤ e.w else if r = 0x103 then 3 ≤ e.w else true)

/-- An instruction against its node: false is CFG_BADOP. -/
def Env.insOk (e : Env) (b : Block) (i o : Nat) (f : Form) : Bool :=
  let c := f.common
  let r := isReplyOp o f
  e.targetOk b i r c.t0 && e.targetOk b i false c.t1 &&
    (match f with
      | .a f => e.formA b i o f
      | .i _ => true
      | .m f =>
        (f.sz != .b64 || 2 ≤ e.w) && (o != 0x120 || (f.sz != .dsb8 || 8 ≤ e.w && e.inlineTargets f.c) && (f.sz != .dsb4 || 4 ≤ e.w && e.inlineTargets f.c)) &&
          (o != 0x12D || (if f.sz = .b64 then 4 ≤ e.w else 2 ≤ e.w)) && chainOk b o f
      | .c f =>
        if o = 0x004 then
          match (e.s.nodesOf e.cfg).find? fun (_, _, m) => m.info.handle == f.handle with
          | some (_, _, m) => (tget? m.blocks f.entry.toNat).isSome && 0 < m.info.frame
          | none => e.part
        else (exitsOf o (.c f)).all fun k => (tget? e.n.blocks k).isSome
      | .x f =>
        f.pbase.toNat + paramSlots o ≤ (if paramSlots o = 0 then 128 else e.frame) &&
          (if inRange 0x165 0x168 o then e.n.info.island.isSome
           else if inRange 0x180 0x184 o || o == 0x1A0 || o == 0x1B0 then 2 ≤ e.w
           else if o = 0x1A2 then 3 ≤ e.w else true) &&
          (o != 0x1A0 || e.part || (e.s.sealElem e.cfg (f.flags.toNat % 256)).isSome)
      | .k f =>
        ((o != 0x103 && o != 0x104 && !(o == 0x105 && f.kvar == 0)) || 2 ≤ e.w) &&
          (!(o == 0x100 && f.kvar == 0) || e.part ||
            (((tget? e.s.m.pkg.confs e.cfg).map fun k => (tget? k.classes (f.kimm.toNat % 256)).isSome).getD false))
      | .s f => sregOk e f.sreg.toNat)

/-! ## Blocks (R53 to R55) -/

/-- A binding's sixteen bits, and what it names. -/
def Env.bindingOk (e : Env) (b : Block) (x : Nat) : Bool :=
  let y := Binding.ofBits x
  bits x 0 1 == 0 && bits x 1 2 != 3 && slotUses b y.slot y.field &&
    (if y.frame then y.src < e.frame
     else bits x 13 2 == 0 &&
      (match e.n.info.ins.find? fun i => i.chan == y.src with
        | some i => i.net != .control || y.field == .p
        | none => true))

def bindingBits (b : Block) (i : Nat) : Nat :=
  if i < 2 then bits b.h0.toNat (16 * (1 - i)) 16 else bits b.h1.toNat (16 * (5 - i)) 16

/-- The first slot of a block that the wave rejects: slot 0 for what the header says of itself, then the first word that is no instruction, slot 0
again for what the header says of the words, then the first word that its node does not allow (log 132). -/
def Env.badSlot (e : Env) (idx : Nat) (b : Block) : Option Nat :=
  let n := bits b.h0.toNat 59 5 + 1
  let used := (upFrom 6 0).filter fun i => i < blockNbnd b
  let counted := ((blockAll b).flatMap fun (_, _, f) => [f.common.t0, f.common.t1]).filter fun t =>
    match t with
    | .frame _ => true
    | .port _ _ => true
    | .reply => true
    | .sink => true
    | _ => false
  let head := bits b.h0.toNat 53 6 ≠ idx || 6 < blockNbnd b || bits b.h0.toNat 32 6 ≠ 0 || b.words.length ≠ n || 30 < blockNst b ||
    (upFrom 6 0).any fun i => blockNbnd b ≤ i && bindingBits b i != 0
  let body := blockCount b isExitOp = 0 || 30 < blockCount b isMemOp || blockCount b isStoreOp < blockNst b || counted.length < blockNout b ||
    !used.all (fun i => e.bindingOk b (bindingBits b i)) || !((blockBindings b).map fun y => (y.slot, y.field)).Nodup
  if head then some 0
  else ((upFrom n 0).find? fun i => (blockIns b i).isNone).orElse fun _ =>
    if body then some 0 else (upFrom n 0).find? fun i => !(blockIns b i).any fun x => e.insOk b i x.1 x.2

/-- The converter word of a node (03 R76, R77), and its block 0 (01 R13). -/
def Env.nodeOk (e : Env) : Bool :=
  (tget? e.n.blocks 0).isSome && 1 ≤ e.w && e.w ≤ 32 &&
    (match e.n.info.cword with
      | none => true
      | some c =>
        let dsb := e.n.blocks.any fun (_, b) => (blockAll b).any fun (_, o, f) =>
          match f with
          | .a f => (o == 0x02B || o == 0x02C) && isDsb f.sub.toNat
          | _ => false
        bits c.toNat 29 3 < 6 && bits c.toNat 0 23 == 0 && dsb == (bits c.toNat 24 4 != 0))

/-- The first block of a node, and its slot, that the wave rejects. -/
def Env.bad (e : Env) : Option (Nat × Nat × Nat) :=
  if !e.nodeOk then some (e.core, 0, 0)
  else e.n.blocks.findSome? fun (i, b) => (e.badSlot i b).map fun k => (e.core, i, k)

/-- The checks of a slab on its own blocks as its section has been written (15 R254). -/
def State.slabBad (s : State) (cfg slab : Nat) : Option (Nat × Nat × Nat) :=
  ((s.nodesOf cfg).filter fun (core, _, _) => slabOf core == slab).findSome? fun (core, _, n) => (Env.mk s cfg core n true).bad

/-- Whether a channel, if its node has it, is on a network. -/
def State.chanOn (s : State) (net : Net) (c n k : Nat) : Bool :=
  ((s.m.node? c n).bind fun m => m.info.ins.find? fun i => i.chan == k).all fun i => i.net == net

/-- Whether an edge from an output port uses its network (15 R246): the network of the channel that it reaches, of the exit port that it feeds, an
island's for an island. -/
def State.edgeOk (s : State) (cfg : Nat) (o : OutPort) : Dest → Bool
  | .chan c n k => s.chanOn o.net c n k
  | .group cl g n k => (s.groupCores cl g).all fun c => s.chanOn o.net c n k
  | .island _ _ => o.net == .island
  | .exit _ p => ((tget? s.m.pkg.confs cfg).map fun f => f.exits.any fun x =>
      x.rcd.port == p && x.rcd.net == o.net && x.rcd.out == o.port).getD false
  | .elem _ _ => o.net != .island

/-- Whether an entry port's edge is on the network of the channel that it reaches (15 R246). -/
def State.entryOk (s : State) (e : EntryRec) : Bool :=
  match e.dest with
  | .chan c n k => s.chanOn e.net c n k
  | _ => true

/-- What the wave rejects in a configuration as it has been written: the core, the block and the slot. -/
def State.cfgBad (s : State) (cfg : Nat) : Option (Nat × Nat × Nat) :=
  ((s.nodesOf cfg).findSome? fun (core, _, n) => (Env.mk s cfg core n false).bad).orElse fun _ =>
  (((s.nodesOf cfg).find? fun (_, _, n) => n.info.outs.any fun o => !o.dests.all (s.edgeOk cfg o)).map fun x => (x.1, 0, 0)).orElse fun _ =>
  (tget? s.m.pkg.confs cfg).bind fun f => if f.entries.all fun e => s.entryOk e.rcd then none
    else some ((f.slabs.head?.map fun k => slabSite k 0).getD 0, 0, 0)

/-! ## Records (R252) -/

/-- A switch schedule's source bytes, 28 outgoing segments and 32 input-channel entries for each slot (R242). -/
def switchOk (core : Bool) (bs : List Byte) : Bool :=
  bs.length % 60 == 0 && (bs.zip (upFrom bs.length 0)).all fun (b, i) =>
    let v := b.toNat / 128 == 1
    let src := b.toNat % 128
    (src < 28 || 32 ≤ src && src < 64 && core) && (core || i % 60 < 28 || !v)

/-- An element's configuration word (R159, R208, R209, R231; 19 R318). -/
def elemOk (region : BitVec 16) : ElemKind → Bool
  | .rmw w =>
    let op := bits w.toNat 60 4
    let fmt := bits w.toNat 55 5
    let base := bits w.toNat 41 14
    let last := base + bits w.toNat 27 14
    op < 7 && [0x00, 0x04, 0x08].contains fmt && !(3 ≤ op && op ≤ 5 && fmt == 8) && last ≤ 16383 && bits w.toNat 0 17 == 0 &&
      !(upFrom 16 0).any fun i => region.getLsbD i && base * 4 < 4096 * (i + 1) && 4096 * i ≤ last * 4 + 3
  | .cturn w => bits w.toNat 0 22 == 0
  | .reorder w => bits w.toNat 0 16 == 0
  | .spacc w => [0x00, 0x08].contains (bits w.toNat 19 5) && bits w.toNat 0 19 == 0
  | .seal w => bits w.toNat 0 25 == 0
  | _ => true

/-- A channel entry's control word (R189, 03 R74). -/
def chanOk (ctl : BitVec 32) : Bool :=
  let f := bits ctl.toNat 0 5
  fmtOk f && bits ctl.toNat 5 3 == 0 && bits ctl.toNat 9 23 == 0 && (!ctl.getLsbD 8 || isBlockFmt f)

end Sys2Proof.Machine
end

