-- ==== Sys2Proof/Machine/Move.lean ====
section
/-! DEFINITION. A configuration's state at another origin (spec 15 R253, 16 R275, R277, R278): what names a site of the old
rectangle, a home address in it, or one of its activations, names the same one in the new. -/

namespace Sys2Proof.Machine

/-- Where a move takes sites, home addresses and islands, and what it adds to the serial numbers of a core's activations. -/
structure Move where
  site : Nat → Nat
  addr : Nat → Nat
  island : Nat → Nat
  off : Nat → Nat

/-! ## Sites and addresses -/

/-- The slice site that holds a slice address's site number in a cluster (12 R196). -/
def sliceSite (cluster n : Nat) : Nat :=
  siteId (cluster / 16) (16 * (cluster % 4) + (if n < 8 then 7 else 15)) (8 * (cluster / 4 % 4) + n % 8)

/-- The first slice address of a slice site. -/
def siteSlice (site : Nat) : Nat := sliceAddr (clusterOf site) ((siteY site % 8 + (if siteX site % 16 = 15 then 8 else 0)) * 2 ^ 18)

/-- A home address in a bank or a slice site that moves. -/
def moveAddr (site : Nat → Nat) (a : Nat) : Nat :=
  if 2 ^ 61 ≤ a then
    let off := a - 2 ^ 61
    let s := sliceSite (off / 2 ^ 22) (off / 2 ^ 18 % 16)
    siteSlice (site s) + off % 2 ^ 18
  else if 2 ^ 60 ≤ a then bankAddr (site ((a - 2 ^ 60) / 2 ^ 16)) (a % 2 ^ 16)
  else a

/-- The move of a rectangle: site i of one list becomes site i of the other. -/
def Move.of (old new : List Nat) (island off : Nat → Nat) : Move :=
  let site (c : Nat) : Nat := ((old.zip new).find? fun p => p.1 == c).elim c Prod.snd
  ⟨site, moveAddr site, island, off⟩

/-! ## What names them -/

def Move.reply (m : Move) (r : Reply) : Reply := { r with core := m.site r.core, uid := r.uid + m.off r.core }
def Move.who (m : Move) (w : Who) : Who := { w with core := m.site w.core, uid := w.uid + m.off w.core }

def Move.party (m : Move) : Party → Party
  | .task w => .task (m.who w)
  | .island i => .island (m.island i)
  | p => p

def Move.req (m : Move) (r : Req) : Req :=
  { r with who := m.party r.who, issuers := r.issuers.map m.party, addr := m.addr r.addr }

def Move.creation (m : Move) (c : Creation) : Creation := { c with core := m.site c.core, reply := c.reply.map m.reply }
def Move.cmd (m : Move) (c : Cmd) : Cmd := { c with who := m.who c.who, reply := c.reply.map m.reply }
def Move.islandIn (m : Move) : IslandIn → IslandIn
  | .beat ch t => .beat ch t
  | .cmd c => .cmd (m.cmd c)

def Move.barEv (m : Move) (e : BarEv) : BarEv := { e with who := m.who e.who, reply := e.reply.map m.reply }

def Move.tileEv (m : Move) (e : TileEv) : TileEv :=
  let w := m.who e.who
  { e with who := w, cluster := if w.core = e.who.core then e.cluster else clusterOf w.core }

def Move.tagEv (m : Move) (e : TagEv) : TagEv :=
  let w := m.who e.who
  { e with who := w, cluster := if w.core = e.who.core then e.cluster else clusterOf w.core }

def Move.pieces (m : Move) (ps : List (Nat × Nat × PageMode)) : List (Nat × Nat × PageMode) := ps.map fun (a, n, k) => (m.addr a, n, k)

def Move.act (m : Move) : CAct → CAct
  | .store q k ps va ans seq => .store q k (m.pieces ps) va ans seq
  | .spawn c => .spawn (m.creation c)
  | .bar e => .bar (m.barEv e)
  | .cmd c => .cmd (m.cmd c)
  | .sysw r ls l rep => .sysw r ls l (rep.map m.reply)
  | .resume k ls l rep => .resume k ls l (rep.map m.reply)
  | .yield n seq rep => .yield n seq (rep.map m.reply)
  | .cntrClear i l rep => .cntrClear i l (rep.map m.reply)
  | .answer r t => .answer (m.reply r) t
  | a => a

def Move.pend (m : Move) (p : Pend) : Pend :=
  { p with done := m.pieces p.done, ovl := p.ovl.map fun (a, v) => (m.addr a, v) }

def Move.wave (m : Move) (w : Wave) : Wave :=
  { w with acts := w.acts.map fun (i, a) => (i, m.act a), pend := w.pend.map m.pend }

/-- An activation of a core whose serial numbers rise by `off`. -/
def Move.activation (m : Move) (off : Nat) (a : Activation) : Activation :=
  { a with
    uid := a.uid + off
    reply := a.reply.map m.reply
    waves := a.waves.map m.wave
    answers := a.answers.map fun (w, s, r, q) => (w, s, r.map m.reply, q)
    after := a.after.map fun (i, x) => (i, m.act x) }

def Move.bufReq (off : Nat) : BufReq → BufReq
  | .land h => .land h
  | .fire f u w s c => .fire f (u + off) w s c
  | .resume f u c => .resume f (u + off) c

def Move.spilled (m : Move) : Spilled → Spilled
  | .reply r t => .reply (m.reply r) t
  | .answer w p v => .answer (m.who w) p v
  | x => x

def Move.port (m : Move) (p : PortState) : PortState := { p with backlog := p.backlog.map fun (b, a) => (b, m.act a) }

def Move.outEvent (m : Move) : OutEvent → OutEvent
  | .req after r => .req after (m.req r)
  | .tag e => .tag (m.tagEv e)
  | .tile e => .tile (m.tileEv e)
  | .bar e => .bar (m.barEv e)
  | .cmd i c => .cmd (m.island i) (m.cmd c)

/-- A core's state at the site it moves to. -/
def Move.core (m : Move) (old : Nat) (k : CoreState) : CoreState :=
  let off := m.off old
  { k with
    nodes := k.nodes.map fun (i, n) => (i, { n with ports := n.ports.map fun (j, p) => (j, m.port p) })
    acts := k.acts.map fun (f, a) => (f, m.activation off a)
    nextUid := k.nextUid + off
    buffers := k.buffers.map fun (u, c) => (u + off, c)
    bufReqs := k.bufReqs.map (Move.bufReq off)
    spill := k.spill.map m.spilled
    creations := k.creations.map m.creation
    tlb := []
    outs := k.outs.map fun (u, q) => (u + off, { q with events := q.events.map m.outEvent }) }

def Move.held (m : Move) : PortHeld → PortHeld
  | .req r t => .req (m.req r) t
  | .tile e => .tile (m.tileEv e)

def Move.unit (m : Move) (u : Nat × Nat × Nat) : Nat × Nat × Nat := (m.site u.1, u.2.1, u.2.2 + m.off u.1)

/-- A barrier entry: its units keep their places in it. -/
def Move.bar (m : Move) (b : BarState) : BarState :=
  { b with
    units := b.units.map m.unit
    marks := b.marks.map m.unit
    again := b.again.map m.barEv
    waiters := b.waiters.map m.barEv
    last := b.last.map fun (u, g) => (m.unit u, g)
    broke := b.broke.map m.unit }

def Move.dest (m : Move) : Dest → Dest
  | .chan c n k => .chan (m.site c) n k
  | .island i k => .island (m.island i) k
  | d => d

/-- A unit's number: a core, or an island. -/
def Move.unitNo (m : Move) (u : Nat) : Nat :=
  if u < 20000 then m.site u else if 70000 ≤ u && u < 75000 then (Party.island (m.island (u - 70000))).unit else u

/-- A beat or packet that waits while its configuration moves. -/
def Move.msg (m : Move) (x : Msg) : Msg :=
  { x with
    src := m.unitNo x.src
    dst := m.unitNo x.dst
    trip := x.trip.map fun t => { t with lies := t.lies.map seg, ahead := t.ahead.map seg }
    body := match x.body with
      | .tok d t a => .tok (m.dest d) t a
      | .tag c t => .tag (m.site c) t
      | .reply r t => .reply (m.reply r) t
      | .sent c d t => .sent (m.site c) d t
      | .req r => .req (m.req r)
      | .ans a => .ans { a with who := m.party a.who }
      | .spawn c => .spawn (m.creation c)
      | .capsule c g k => .capsule (m.site c) g k
      | .demand c n p q k => .demand (m.site c) n p q k
      | .tile e => .tile (m.tileEv e)
      | .tagEv e => .tagEv (m.tagEv e)
      | .cntrRead w i => .cntrRead (m.who w) i
      | .bar e => .bar (m.barEv e)
      | .islandCmd i c => .islandCmd (m.island i) (m.cmd c)
      | b => b }
where
  seg (g : Nat × Nat) : Nat × Nat := if g = noSegment then g else (28 * m.site (g.1 / 28) + g.1 % 28, m.site g.2)

end Sys2Proof.Machine
end

