-- ==== Sys2Proof/Machine/Image.lean ====
section
/-! DEFINITION. A configuration image (spec 15 R251 to R254; 02 R37, R58; 10 R189): its sections as they stand in memory, what the wave
rejects in one, and its records written at their sites. -/

namespace Sys2Proof.Machine

def State.conf? (s : State) (cfg : Nat) : Option ConfState := tget? s.m.pkg.confs cfg

/-! ### The image in memory (R251, R252) -/

/-- Bytes of a colour's virtual addresses as the hoist reads them. -/
def State.vaBytes (s : State) (c : Colour) (a : Nat) : Nat → Except XReason (List Byte)
  | 0 => .ok []
  | n + 1 =>
    match s.xlate c classH false a with
    | .error e => .error e
    | .ok (h, _) => (s.vaBytes c (a + 1) n).map (s.byteAt h :: ·)

def State.vaNat (s : State) (c : Colour) (a n : Nat) : Except XReason Nat := (s.vaBytes c a n).map leNat

/-- The record headers of an image from an address on: kind, payload address, payload words. -/
def State.imageRecs (s : State) (c : Colour) (last : Nat) : Nat → Nat → Except XReason (List (Nat × Nat × Nat))
  | 0, _ => .ok []
  | n + 1, a =>
    if last ≤ a then .ok []
    else
      match s.vaNat c a 4 with
      | .error e => .error e
      | .ok h =>
        let k := bits h 26 6
        if k = 0 then s.imageRecs c last n ((a + 4 + 4095) / 4096 * 4096)
        else (s.imageRecs c last n (a + 4 + 4 * bits h 0 21)).map ((k, a + 4, bits h 0 21) :: ·)

/-- The sections of an image begin on the 4 KiB boundary after its header. -/
def State.imageOf (s : State) (c : Colour) (va len : Nat) : Except XReason (List (Nat × Nat × Nat)) :=
  s.imageRecs c (va + len) (len / 4) (va + 4096)

/-- A record as its bytes stand in memory (R252). -/
structure RawRec where
  kind : Nat
  site : Nat
  bytes : List Byte
deriving DecidableEq, Repr

/-- What stops the reading of a section: an address without translation, or the end of the image. -/
inductive ImageEnd where
  | xlate
  | past
deriving DecidableEq, Repr

/-- The records of a section from an address on, and the address after its end record. -/
def State.rawSection (s : State) (c : Colour) (last : Nat) : Nat → Nat → Except ImageEnd (List RawRec × Nat)
  | 0, _ => .error .past
  | n + 1, a =>
    if last < a + 4 then .error .past
    else
      match s.vaNat c a 4 with
      | .error _ => .error .xlate
      | .ok h =>
        let k := bits h 26 6
        let len := 4 * bits h 0 21
        if last < a + 4 + len then .error .past
        else if k = 0 then .ok ([], a + 4 + len)
        else
          match s.vaBytes c (a + 4) len with
          | .error _ => .error .xlate
          | .ok bs => (s.rawSection c last n (a + 4 + len)).map fun (rs, e) => (⟨k, bits h 21 5, bs⟩ :: rs, e)

/-- Section i of an image, counted from one at an address. -/
def State.rawSectionAt (s : State) (c : Colour) (last : Nat) : Nat → Nat → Except ImageEnd (List RawRec)
  | 0, a => (s.rawSection c last ((last - a) / 4 + 1) a).map Prod.fst
  | i + 1, a =>
    match s.rawSection c last ((last - a) / 4 + 1) a with
    | .error e => .error e
    | .ok (_, e) => s.rawSectionAt c last i ((e + 4095) / 4096 * 4096)

/-- The section of the slab at a place of a rectangle. -/
def State.confSection (s : State) (c : Colour) (f : ConfState) (place : Nat) : Except ImageEnd (List RawRec) :=
  s.rawSectionAt c (f.imageVa + f.imageLen) place (f.imageVa + 4096)

/-! ### Records and their bytes (log 12) -/

/-- The kind and the site of a record; a class has no site. -/
def recHead : Rec → Nat × Nat
  | .node i _ => (0x01, i)
  | .block i _ _ => (0x02, i)
  | .channel i _ _ => (0x04, i)
  | .region i _ => (0x05, i)
  | .switch i _ => (0x06, i)
  | .element i _ => (0x07, i)
  | .entry i _ => (0x08, i)
  | .exit i _ => (0x09, i)
  | .demand i _ _ _ _ => (0x0A, i)
  | .group i _ _ => (0x0B, i)
  | .cls _ _ _ => (0x0C, 0)
  | .island i _ _ _ _ => (0x0D, i)
  | .other k i => (k, i)

/-- The configuration word of an element, where it has one. -/
def kindWord : ElemKind → Option Nat
  | .rmw w => some w.toNat
  | .cturn w => some w.toNat
  | .reorder w => some w.toNat
  | .spacc w => some w.toNat
  | .seal w => some w.toNat
  | _ => none

def wordBytes (ws : List Word) : List Byte := ws.flatMap fun w => leBytes 8 w.toNat

/-- The blocks that the records of a section put at a site, in order. -/
def blocksAt (recs : List Rec) (i : Nat) : List Block := recs.filterMap fun r => match r with
  | .block j _ b => if j = i then some b else none
  | _ => none

/-- Words of eight bytes, little-endian; none where the bytes are no whole number of them. -/
def leWords (bs : List Byte) : Option (List Word) :=
  if bs.length % 8 = 0 then some ((upFrom (bs.length / 8) 0).map fun i => BitVec.ofNat 64 (leNat ((bs.drop (8 * i)).take 8))) else none

/-- Blocks begun by the header words of a record. -/
def headBlocks : List Word → Option (List Block)
  | [] => some []
  | h0 :: h1 :: rest => (headBlocks rest).map (⟨h0, h1, []⟩ :: ·)
  | [_] => none

/-- Words joined to the last of a list of blocks. -/
def addWords (ws : List Word) : List Block → Option (List Block)
  | [] => none
  | [b] => some [{ b with words := b.words ++ ws }]
  | b :: bs => (addWords ws bs).map (b :: ·)

/-- The blocks of a site as its header and code records spell them: a header begins a block, and the instruction words after it are that block's
(02 R37, log 12). -/
def rawBlocks (raw : List RawRec) (i : Nat) : Option (List Block) :=
  (raw.filter fun x => x.site == i && (x.kind == 0x02 || x.kind == 0x03)).foldl (fun acc x =>
    acc.bind fun bs => (leWords x.bytes).bind fun ws => if x.kind = 0x02 then (headBlocks ws).map (bs ++ ·) else addWords ws bs) (some [])

/-- The first site whose header and code records are no blocks. -/
def rawBad (raw : List RawRec) : Option Nat := (upFrom 32 0).find? fun i => (rawBlocks raw i).isNone

/-- Whether bytes stand in a payload, at a word's place. -/
def RawRec.spells (pat : List Byte) (x : RawRec) : Bool :=
  (upFrom (x.bytes.length / 4 + 1) 0).any fun i => (x.bytes.drop (4 * i)).take pat.length == pat

/-- An entry record ends in its mask and its 256 quotas (R252). -/
def entryAgrees (x : RawRec) (e : EntryRec) : Bool :=
  let q := x.bytes.drop (x.bytes.length - 544)
  544 ≤ x.bytes.length && leNat (q.take 32) == e.mask.toNat &&
    (upFrom 256 0).all fun c => leNat ((q.drop (32 + 2 * c)).take 2) == tgetD 0 e.quotas c

/-- The entry records that a section puts at a site, in order. -/
def entriesAt (recs : List Rec) (i : Nat) : List EntryRec := recs.filterMap fun r => match r with
  | .entry j e => if j = i then some e else none
  | _ => none

/-- Whether records are what the bytes of a section say: of every site the blocks (02 R37), the region masks, the schedules, the elements'
words, the masks and quotas of entry ports; the words of channels, group masks and itineraries, the colour masks and converter words of nodes, which
stand somewhere in a payload of their kind; of the rest, whose places the spec does not give, that a site has one. -/
def recsAgree (raw : List RawRec) (recs : List Rec) : Bool :=
  let at_ (k i : Nat) : List RawRec := raw.filter fun x => x.kind == k && x.site == i
  let bytes (k i : Nat) : List Byte := (at_ k i).flatMap RawRec.bytes
  ((upFrom 32 0).all fun i =>
    rawBlocks raw i == some (blocksAt recs i) &&
      (at_ 0x08 i).length == (entriesAt recs i).length && ((at_ 0x08 i).zip (entriesAt recs i)).all (fun x => entryAgrees x.1 x.2) &&
      (upFrom 64 0).all fun k => k == 0x02 || k == 0x03 || k == 0x0C || (at_ k i).isEmpty == !recs.any fun r => recHead r == (k, i)) &&
    raw.any (fun x => x.kind == 0x0C) == recs.any (fun r => (recHead r).1 == 0x0C) &&
    recs.all fun r => match r with
      | .region i m => leNat (bytes 0x05 i) == m.toNat
      | .switch i bs => bytes 0x06 i == bs
      | .element i e => (kindWord e.kind).all fun w => (at_ 0x07 i).any fun x => leNat x.bytes == w
      | .channel i _ ctl => (at_ 0x04 i).any (RawRec.spells (leBytes 4 ctl.toNat))
      | .group i _ m => (at_ 0x0B i).any (RawRec.spells (leBytes 16 m.toNat))
      | .cls _ _ itin => (raw.filter fun x => x.kind == 0x0C).any (RawRec.spells (wordBytes itin))
      | .node i n => (at_ 0x01 i).any fun x => x.spells (leBytes 32 n.colours.toNat) && n.cword.all fun w => x.spells (leBytes 4 w.toNat)
      | _ => true

/-! ### Places in the rectangle (R253, log 115) -/

def islandAt (sites : List Nat) (id : Nat) : Nat := clusterOf (sites.getD (id / 3) 0) * 3 + id % 3

/-- Where an edge of an image leads in the rectangle that a configuration has. -/
def destAt (cfg : Nat) (sites : List Nat) : Dest → Dest
  | .chan c n k => .chan (sites.getD c 0) n k
  | .elem i k => .elem (1024 * cfg + i) k
  | .exit _ p => .exit cfg p
  | .island i k => .island (islandAt sites i) k
  | .group c g n k => .group (clusterOf (sites.getD c 0)) g n k

def nodeAt (cfg : Nat) (sites : List Nat) (n : NodeRec) : NodeRec := { n with
  outs := n.outs.map fun o => { o with dests := o.dests.map (destAt cfg sites) }
  island := n.island.map (islandAt sites) }

/-- Whether an edge names a place of its rectangle. -/
def destOk (sites : List Nat) : Dest → Bool
  | .chan c _ _ => c < sites.length
  | .elem i _ => i < 1024
  | .exit _ p => p < 64
  | .island i _ => i / 3 < sites.length
  | .group c g _ _ => c < sites.length && g < 16

/-! ### What the wave rejects in a section (02 R58) -/

/-- A record against the site of a slab that it names, and against its configuration. -/
def recOk (f : ConfState) (slab : Nat) (r : Rec) : Bool :=
  let core (i : Nat) : Bool := i < 32 && isCore (slabSite slab i)
  let ok := destOk (sitesOf f.slabs)
  match r with
  | .node i n => core i && n.outs.all fun o => o.dests.all ok
  | .block i _ b => core i && bits b.h0.toNat 53 6 < 64
  | .channel i e ctl => core i && e < 32 && chanOk ctl
  | .region i _ => i < 32
  | .switch i bs => i < 32 && bs.length == 60 * f.per && switchOk (core i) bs
  | .element i e => i < 32 && e.id < 1024 && e.outs.all ok && elemOk 0 e.kind &&
      (match e.kind with
        | .rmw _ => core i
        | _ => true)
  | .entry i e => i < 32 && e.port < f.nent && (e.net == .static || e.net == .dynamic) && e.credit < 2 ^ 20 && e.quotas.all (fun q => q.2 < 65536) && ok e.dest
  | .exit i e => i < 32 && e.port < f.nexit && (e.net == .static || e.net == .dynamic)
  | .demand i _ net _ credit => core i && (net == .static || net == .dynamic) && credit < 2 ^ 20
  | .group i g _ => i < 32 && g < 16
  | .cls i _ _ => i < f.ncls
  | .island i id _ _ out => i < 32 && siteY (slabSite slab i) < 8 && id / 3 < (sitesOf f.slabs).length &&
      clusterOf ((sitesOf f.slabs).getD (id / 3) 0) == clusterOf (slabSite slab i) && out.all ok
  | .other _ _ => false

/-- The first item of a list that occurs earlier in it. -/
def repeated {α : Type} [DecidableEq α] : List α → List α → Option α
  | _, [] => none
  | seen, x :: xs => if seen.contains x then some x else repeated (x :: seen) xs

/-- The block index of a record, for the record of its rejection. -/
def recBidx : Rec → Nat
  | .block _ _ b => bits b.h0.toNat 53 6
  | _ => 0

/-- What a section breaks in itself, by core, block and slot: a record against its site, a node without place or twice, more headers, words or
read-modify-write elements than a core holds (log 113), a block twice, or of no node. -/
def State.sectionBad (s : State) (f : ConfState) (slab : Nat) (recs : List Rec) : Option (Nat × Nat × Nat) :=
  let nodes := recs.filterMap fun r => match r with
    | .node i n => some (i, n.handle)
    | _ => none
  let blocks := recs.filterMap fun r => match r with
    | .block i h _ => some (i, h, recBidx r)
    | _ => none
  let full (i : Nat) : Bool :=
    8 < (nodes.filter fun n => n.1 == i).length || 64 < (blocksAt recs i).length ||
      2048 < sumNat ((blocksAt recs i).map fun b => b.words.length) ||
      1 < (recs.filter fun r => match r with
        | .element j e => j == i && (match e.kind with
          | .rmw _ => true
          | _ => false)
        | _ => false).length
  let site (i : Nat) : Nat := slabSite slab i
  (((recs.find? fun r => !recOk f slab r).map fun r => (site (recHead r).2, recBidx r, 0)).orElse fun _ =>
    (repeated [] nodes).map fun n => (site n.1, 0, 0)).orElse fun _ =>
  (((repeated [] blocks).orElse fun _ => blocks.find? fun (i, h, _) => !nodes.contains (i, h)).map fun b => (site b.1, b.2.2, 0)).orElse fun _ =>
  (((upFrom 32 0).find? full).map fun i => (site i, 0, 0)).orElse fun _ =>
  recs.findSome? fun r => match r with
    | .island i id _ _ _ =>
      if (tget? s.m.pkg.islands (islandAt (sitesOf f.slabs) id)).isSome then some (site i, 0, 0) else none
    | _ => none

/-! ### Records written at their sites -/

def EntryColour.zero (r : EntryRec) : EntryColour := ⟨0, 0, r.credit, false, [], [], 0⟩

def EntryState.colour (e : EntryState) (c : Colour) : EntryColour := tgetD (EntryColour.zero e.rcd) e.colours c.toNat

def ElemState.zero (cfg : Nat) (r : ElemRec) : ElemState := ⟨cfg, r, [], [], [], [], [], false, [], []⟩

def IslandState.zero (cfg : Nat) (node : Nat × Nat) (out : List Dest) (latency : Nat) (fmt : BitVec 5) : IslandState where
  cfg := cfg
  node := node
  out := out
  latency := latency
  fmt := fmt
  owner := none
  bFmt := 0
  bBytes := []
  bScale := []
  m := 0
  rowCount := 0
  acc := []
  rowErr := []
  poison := 0
  group := []
  beats := []
  held := []
  eos := []
  wedges := []
  inbox := []
  missed := 0
  corrected := 0
  eosSent := []
  waiting := none
  got := []
  stuck := false
  frozen := false

def NodeState.fresh (cfg : Nat) (n : NodeRec) : NodeState := ⟨cfg, n, [], [], [], 0, 0, 0, [], false, true, []⟩

def CoreState.nodeBy (k : CoreState) (handle : BitVec 12) : Option (Nat × NodeState) := k.nodes.find? fun (_, n) => n.info.handle == handle

/-- A list with the item of a port replaced, or added. -/
def putPort {α : Type} (port : α → Nat) (xs : List α) (fresh : α) (upd : α → α) : List α :=
  if xs.any fun x => port x == port fresh then xs.map fun x => if port x = port fresh then upd x else x else xs ++ [fresh]

/-- A demand record at its node (R264). -/
def demandAt (n : NodeRec) (net : Net) (port credit : Nat) : NodeRec :=
  { n with outs := n.outs.map fun o => if o.net = net && o.port = port then { o with gated := true, credit := credit } else o }

/-- A record written at its site; `place` is its slab's in the rectangle, and `sites` are the rectangle's. -/
def install (cfg : Nat) (sites : List Nat) (place slab : Nat) (r : Rec) : Act :=
  match r with
  | .node i n => modCore (slabSite slab i) fun k => { k with nodes := k.nodes ++ [(k.nodes.length, NodeState.fresh cfg (nodeAt cfg sites n))] }
  | .block i h b => .look fun s =>
    let core := slabSite slab i
    match (s.m.core core).nodeBy h with
    | some (j, _) => modNode core j fun n => { n with blocks := tput n.blocks (bits b.h0.toNat 53 6) b }
    | none => .quiet
  | .channel i e ctl => modCore (slabSite slab i) fun k => { k with vc := tput k.vc e ⟨ctl, 0, false⟩ }
  | .region i mask =>
    let site := slabSite slab i
    if isCore site then modCore site fun k => { k with region := mask.setWidth 16 }
    else modCluster (clusterOf site) fun k => { k with masks := tset 0 k.masks ((siteSlice site - 2 ^ 61) / 2 ^ 18 % 16) mask }
  | .element i e =>
    let e := { e with id := 1024 * cfg + e.id, core := slabSite slab i, outs := e.outs.map (destAt cfg sites) }
    .pkg fun p => { p with elems := (p.elems.filter fun x => x.1 ≠ e.id) ++ [(e.id, ElemState.zero cfg e)] }
  | .entry _ e =>
    let e := { e with dest := destAt cfg sites e.dest }
    modConf cfg fun f => { f with
      entries := putPort (fun x => x.rcd.port) f.entries ⟨e, [], true⟩ fun x => { x with rcd := e } }
  | .exit _ e => modConf cfg fun f => { f with
      exits := putPort (fun x => x.rcd.port) f.exits ⟨e, [], []⟩ fun x => { x with rcd := e } }
  | .demand i h net port credit => .look fun s =>
    let core := slabSite slab i
    match (s.m.core core).nodeBy h with
    | some (j, _) => modNode core j fun n => { n with info := demandAt n.info net port credit }
    | none => .quiet
  | .group i g mask => modCluster (clusterOf (slabSite slab i)) fun k => { k with groups := tput k.groups g mask }
  | .cls i lines itin => modConf cfg fun f => { f with classes := tput f.classes i (lines, itin) }
  | .island i id latency fmt out => .look fun s =>
    let core := slabSite slab i
    let id := islandAt sites id
    let node := ((s.m.core core).nodes.find? fun (_, n) => n.info.island == some id).elim 0 Prod.fst
    .pkg fun p => { p with islands := tput p.islands id (IslandState.zero cfg (core, node) (out.map (destAt cfg sites)) latency fmt) }
  | .switch i bs => modConf cfg fun f => { f with switches := tput f.switches (32 * place + i) bs }
  | .other _ _ => .quiet

/-- A slab's sites are plain until its section's records name their write-once regions (log 32). -/
def plainSites (slab : Nat) : Act := Act.each (upFrom 32 0) fun i =>
  let site := slabSite slab i
  if isCore site then modCore site fun k => { k with region := 0 }
  else modCluster (clusterOf site) fun k => { k with masks := tdel k.masks ((siteSlice site - 2 ^ 61) / 2 ^ 18 % 16) }

/-- An element's word against the masks that the wave has written (09 R159). -/
def State.elemsOk (s : State) (cfg : Nat) : Bool :=
  s.m.pkg.elems.all fun (_, e) => e.cfg != cfg || elemOk (s.m.core e.rcd.core).region e.rcd.kind

/-- The entries that a node's blocks read block formats from: `cvt` and `cvts` of a block source, `enc` (10 R189). -/
def NodeState.blockSources (n : NodeState) : List Nat :=
  n.blocks.flatMap fun (_, b) => (blockBindings b).filterMap fun x =>
    let reads := match blockIns b x.slot with
      | some (o, .a f) => (o == 0x02B || o == 0x02C) && isBlockFmt (f.imm.toNat % 32) || o == 0x133
      | _ => false
    if reads && !x.frame && x.field == .l then (n.info.ins.find? fun i => i.chan == x.src).map InChan.entry else none

/-- The entries of a core that its nodes' blocks have been checked against are locked (10 R189). -/
def CoreState.lockedChans (k : CoreState) : CoreState :=
  let es := k.nodes.flatMap fun (_, n) => n.blockSources
  { k with vc := k.vc.map fun (e, v) => (e, { v with locked := es.contains e }) }

/-- Nothing of an image stays in the slabs that have taken it (02 R58): their masks and the groups that it wrote go. -/
def unwrite (image : List (Nat × List Rec)) : Act :=
  Act.each image fun (slab, recs) => (plainSites slab).andThen (Act.each recs fun r => match r with
    | .group i g _ => modCluster (clusterOf (slabSite slab i)) fun k => { k with groups := tdel k.groups g }
    | _ => .quiet)

end Sys2Proof.Machine
end

