-- ==== Sys2Proof/Machine/Conf.lean ====
section
/-! DEFINITION. Configurations (spec 15 R240, R251 to R257; 16 R273, R274; 02 R58; 19 R322): bids and the package arbiter's
admissions, the configuration wave and its completion, partial reconfiguration, entry ports and exit ports. -/

namespace Sys2Proof.Machine

/-! ## Rectangles (R240, R273) -/

/-- The slabs of a W × H rectangle whose lowest package row is t and lowest column c, in row-major order of its numbering: a
rectangle wholly in the bottom dies takes theirs. -/
def rectSlabs (w h c t : Nat) : List Nat :=
  (upFrom h 0).flatMap fun b => (upFrom w 0).map fun a => (if 8 ≤ t then t + h - 1 - b else t + b) * 32 + c + a

def State.slabFree (s : State) (k : Nat) : Bool := !s.m.pkg.confs.any fun (_, f) => f.slabs.contains k

/-- Whether a rectangle's row 0 lies on a die's outer edge and it crosses no die row, as an image that binds islands needs. -/
def edgeRect (h t : Nat) : Bool := t == 0 && h ≤ 8 || 8 ≤ t && t + h == 16

/-- The slabs that a save was taken from. -/
def Save.slabs (v : Save) (w h : Nat) : List Nat :=
  (upFrom h 0).flatMap fun b => (upFrom w 0).map fun a =>
    let row := v.ot + b
    (if v.bottom then 15 - row else row) * 32 + v.oc + a

/-- The cluster that takes the tiles, tags and barrier entries of a cluster that the old rectangle touches. -/
def Move.cluster (m : Move) (old : List Nat) (cl : Nat) : Nat :=
  match old.find? fun c => clusterOf c == cl with
  | some c => clusterOf (m.site c)
  | none => cl

/-- Whether the tile and tag indices of a saved configuration are free where it would be restored (16 R275); one with enrolments at
`.fb` entries comes back only to its own place (log 30). -/
def State.footFree (s : State) (f : ConfState) (slabs : List Nat) : Bool :=
  match f.save with
  | none => true
  | some v =>
    let old := sitesOf (v.slabs f.w f.h)
    let m := Move.of old (sitesOf slabs) id fun _ => 0
    v.tiles.all (fun (cl, i, _, _) =>
      let e := (s.m.cluster (m.cluster old cl)).tile i
      tileSt e == 0 && tileCol ((s.m.cluster (m.cluster old cl)).copyOf i) == 0) &&
      v.tags.all (fun (cl, k, _) => !tagV (tgetD 0 (s.m.cluster (m.cluster old cl)).tags k)) &&
      (v.slabs f.w f.h == slabs ||
        !v.cores.any fun (_, k) => k.acts.any fun (_, a) => a.enrol.any fun e => e.scope == 4)

/-- Whether a configuration may stand at column c and row t. -/
def State.fits (s : State) (f : ConfState) (edge : Bool) (c t : Nat) : Bool :=
  let slabs := rectSlabs f.w f.h c t
  t + f.h ≤ 16 && c + f.w ≤ 32 && (!edge || edgeRect f.h t) && slabs.all s.slabFree && s.footFree f slabs

/-- Whether an image binds islands. -/
def State.bindsIslands (s : State) (c : Colour) (f : ConfState) : Bool :=
  match s.imageOf c f.imageVa f.imageLen with
  | .ok rs => rs.any fun r => r.1 == 0x0D
  | .error _ => false

/-! ## The package arbiter's admissions (R273, R274) -/

/-- The colour by which a configuration's image is read. -/
def State.confColour (s : State) (f : ConfState) : Colour := (s.queue? f.queue).elim 0 fun q => q.desc.col

/-- Where a bid fits: the lowest row, then the lowest column. -/
def State.origin (s : State) (f : ConfState) : Option (Nat × Nat) :=
  let edge := s.bindsIslands (s.confColour f) f
  (upFrom 16 0).findSome? fun t => ((upFrom 32 0).find? fun c => s.fits f edge c t).map fun c => (c, t)

/-- The slabs that a virtual device's configurations hold. -/
def State.vdevSlabs (s : State) (v : Nat) : Nat := sumNat ((s.m.pkg.confs.filter fun (_, f) => f.vdev == v).map fun (_, f) => f.slabs.length)

def State.slabQuota (s : State) (v : Nat) : Nat := min (bits (s.vdevWord v 0) 53 10) 512

/-- The quota and the save area of a bid; configurations of colour 0's queues have neither. -/
def State.quotaOk (s : State) (f : ConfState) : Bool := f.vdev = 32 || s.vdevSlabs f.vdev + f.w * f.h ≤ s.slabQuota f.vdev
def State.saveOk (s : State) (f : ConfState) : Bool :=
  f.vdev = 32 || 6 * (s.vdevSlabs f.vdev + f.w * f.h) + 1 ≤ bits (s.vdevWord f.vdev 2) 48 16

/-- a ranks above b: a configuration that compaction moves, then PRI, then age. -/
def ConfState.above (a b : ConfState) : Bool :=
  if a.moving != b.moving then a.moving else if a.pri ≠ b.pri then b.pri < a.pri else a.age < b.age

/-- The pending bids in rank order. -/
def State.ranked (s : State) : List (Nat × ConfState) :=
  (s.m.pkg.bids.filterMap fun k => (s.conf? k).map fun f => (k, f)) |> sortRel fun a b => a.2.above b.2

/-- A place table's entries that name a site of the old rectangle name the same site of the new one (16 R275). -/
def rewritePlaces (base : Nat) (m : Move) : Act := .look fun s =>
  let held := ((s.mem.filter fun (a, _) => base ≤ a && a < base + 4 * 32768).map fun (a, _) => (a - base) / 4).eraseDups
  Act.each (held.filterMap fun i =>
    let e := s.nat (base + 4 * i) 4
    let site := siteId (bits e 28 3) (bits e 22 6) (bits e 17 5)
    if bits e 31 1 = 1 && m.site site ≠ site then some (i, (siteWord (m.site site)).toNat + bits e 0 17) else none)
    fun (i, v) => putBytes (base + 4 * i) (leBytes 4 v)

/-- The tables of places: those of the virtual devices, and colour 0's. -/
def State.placeTables (s : State) : List Nat :=
  (s.m.pkg.mgmt.c0ptab :: ((upFrom 32 0).filter fun v => bits (s.vdevWord v 0) 63 1 == 1).map fun v => bits (s.vdevWord v 1) 0 48).eraseDups

/-- A moved configuration's places, in every table, with the caches dropped (16 R275, R250). -/
def movePlaces (f : ConfState) (slabs : List Nat) : Act := .look fun s =>
  match f.save with
  | none => .quiet
  | some v =>
    let m := Move.of (sitesOf (v.slabs f.w f.h)) (sitesOf slabs) id fun _ => 0
    Act.seq [
      Act.each s.placeTables fun base => rewritePlaces base m,
      .mod fun n => { n with clusters := n.clusters.map fun (i, k) => (i, { k with places := [] }) } ]

/-- Whether a packet that a place has routed to a site that a configuration has left is still on its way: until it has arrived, the
configuration is not restored elsewhere (16 R275, R250). -/
def State.routedTo (s : State) (f : ConfState) : Bool :=
  f.moving && f.save.any fun v => s.m.net.any fun x => (sitesOf (v.slabs f.w f.h)).contains x.dst && (match x.body with
    | .sent _ _ _ => true
    | .capsule _ _ _ => true
    | .req _ => true
    | _ => false)

/-- A bid is admitted: its rectangle is granted, and the wave may begin. -/
def grant (cfg : Nat) (f : ConfState) (c t : Nat) : Act :=
  let slabs := rectSlabs f.w f.h c t
  Act.seq [
    Act.when f.moving (movePlaces f slabs),
    .pkg fun p => { p with
      bids := p.bids.filter (· ≠ cfg)
      confs := tput p.confs cfg { f with
        oc := c, ot := if 8 ≤ t then 16 - t - f.h else t, bottom := 8 ≤ t, slabs := slabs, image := [], switches := [], done := [], bypass := 0, moving := false
        admitted := p.nextAge
        phase := if f.save.isSome then .restoring else .loading }
      nextAge := p.nextAge + 1 } ]

/-- No configuration's number: the home of a capsule whose configuration has been torn down. -/
def noConf : Nat := 2 ^ 32

/-- A capsule of a configuration that is gone is in no count any more (07 R141). -/
def Held.orphan (cfg : Nat) (h : Held) : Held := if h.home = cfg then { h with home := noConf } else h

def CAct.orphan (cfg : Nat) : CAct → CAct
  | .cap (.leave h c) => .cap (.leave (h.orphan cfg) c)
  | .cap (.copy h) => .cap (.copy (h.orphan cfg))
  | a => a

/-- What a core holds of its capsules. -/
def CoreState.orphan (cfg : Nat) (k : CoreState) : CoreState := { k with
  acts := k.acts.map fun (f, a) => (f, { a with
    held := a.held.map (Held.orphan cfg), after := a.after.map fun (i, x) => (i, x.orphan cfg) })
  arrived := k.arrived.map (Held.orphan cfg)
  bufReqs := k.bufReqs.map fun r => match r with
    | .land h => .land (h.orphan cfg)
    | q => q }

/-- A configuration that is gone: its handle is free, and its capsules elsewhere are in no count (07 R141). -/
def dropConf (cfg : Nat) : Act := .mod fun m => { m with
  cores := m.cores.map fun (c, k) => (c, k.orphan cfg)
  net := m.net.map fun x => match x.body with
    | .capsule c home k => if home = cfg then { x with body := .capsule c noConf k } else x
    | _ => x
  pkg := { m.pkg with
    confs := (tdel m.pkg.confs cfg).map fun (i, f) => (i, { f with save := f.save.map fun v => { v with
      cores := v.cores.map fun (c, k) => (c, k.orphan cfg)
      parks := v.parks.map fun x => if x.cfg = cfg then { x with cfg := noConf } else x } })
    bids := m.pkg.bids.filter (· ≠ cfg)
    parked := m.pkg.parked.map fun x => if x.cfg = some cfg then { x with cfg := none } else x
    parkWaits := m.pkg.parkWaits.map fun x => if x.cfg = cfg then { x with cfg := noConf } else x
    joins := m.pkg.joins.map fun j => if j.cfg = cfg then { j with cfg := noConf } else j } }

/-- The header of the `pk.cfg` that a configuration began with (21 R348). -/
def cfgHeader (cfg : Nat) : Nat := 0x02020000 + cfg % 4096

/-- A bid whose save area is too short faults its queue (R273): a new one is gone, a saved configuration goes on bidding. -/
def shortBid (k : Nat) (f : ConfState) : Act := .look fun s =>
  (Act.when (!((s.queue? f.queue).any QState.frozen)) (queueFault f.queue Code.saveShort (cfgHeader k))).andThen
    (.when f.save.isNone (dropConf k))

/-- Whether a bid may be admitted: its rectangle fits, its quota allows it, and it passes no bid that has been bypassed eight times and is larger
(R273, R274). -/
def State.mayAdmit (s : State) (bids : List (Nat × ConfState)) (b : Nat × ConfState) : Bool :=
  s.saveOk b.2 && s.quotaOk b.2 && !s.routedTo b.2 && (s.origin b.2).isSome &&
    bids.all fun h => h.2.bypass < 8 || b.1 == h.1 || b.2.moving || h.2.w * h.2.h ≤ b.2.w * b.2.h

/-- Admissions while any bid can be admitted, highest rank first. -/
def admitBids : Nat → Act
  | 0 => .quiet
  | n + 1 => .look fun s =>
    let bids := s.ranked
    match bids.find? (s.mayAdmit bids) with
    | none => .quiet
    | some (k, f) =>
      match s.origin f with
      | none => .quiet
      | some (c, t) => Act.seq [
          .pkg fun p => { p with confs := p.confs.map fun (i, g) =>
            (i, if p.bids.contains i && i ≠ k && g.above f && f.w * f.h < g.w * g.h then { g with bypass := g.bypass + 1 } else g) },
          grant k f c t,
          shorts,
          admitBids n ]
where
  /-- Every pending bid that fails the test of its save area faults. -/
  shorts : Act := .look fun s => Act.each (s.ranked.filter fun b => !s.saveOk b.2) fun (k, f) => shortBid k f

/-- The arbiter ranks the pending bids whenever slabs are freed (R273). -/
def arbitrate : Act := .look fun s => (admitBids.shorts).andThen (admitBids (s.m.pkg.bids.length + 1))

/-! ## Releasing slabs -/

/-- A core keeps its bank, its mask and the numbers that it has given out. -/
def CoreState.vacated (k : CoreState) : CoreState :=
  { CoreState.zero with nextUid := k.nextUid, nextOrder := k.nextOrder, region := k.region, rrVector := k.rrVector, rrMemory := k.rrMemory }

/-- The sites of a configuration hold nothing of it any more. -/
def clearSites (cfg : Nat) (slabs : List Nat) : Act := .mod fun m => { m with
  cores := m.cores.map fun (c, k) => (c, if slabs.contains (slabOf c) then k.vacated else k)
  pkg := { m.pkg with
    elems := m.pkg.elems.filter fun (_, e) => e.cfg != cfg
    islands := m.pkg.islands.filter fun (_, i) => i.cfg != cfg } }

/-- The slabs of a configuration are free, and the bids are ranked. -/
def freeSlabs (cfg : Nat) : Act := .look fun s =>
  match s.conf? cfg with
  | none => .quiet
  | some f => Act.seq [clearSites cfg f.slabs, modConf cfg fun f => { f with slabs := [] }, arbitrate]

/-! ## The configuration wave (R254, 02 R58) -/

/-- A rejection reaches the hoist (02 R58): nothing stays resident, a record names the site, block and slot, and the queue of the `pk.cfg` is
frozen. The record's master is the configuration, of which nothing is left to freeze (log 31). -/
def rejectConf (cfg site blk slot : Nat) : Act := .look fun s =>
  match s.conf? cfg with
  | none => .quiet
  | some f => Act.seq [
      record { Record.blank with
        code := Code.cfgBadop, col := s.confColour f, mkind := 4, site := site, blk := blk, slot := slot },
      freezeQueue f.queue,
      unwrite f.image,
      clearSites cfg f.slabs,
      dropConf cfg,
      arbitrate ]

/-- An address of the image fails translation as the hoist streams it: the queue faults with its `pk.cfg`'s header (21 R345), and nothing stays
resident (21 R350). -/
def untranslated (cfg : Nat) : Act := .look fun s =>
  match s.conf? cfg with
  | none => .quiet
  | some f => Act.seq [unwrite f.image, clearSites cfg f.slabs, dropConf cfg, queueFault f.queue Code.xlate (cfgHeader cfg), arbitrate]

def ConfState.place (f : ConfState) (slab : Nat) : Nat := f.slabs.findIdx fun k => k == slab

/-- The slab that feeds slab i of a rectangle (R254). -/
def ConfState.feeder (f : ConfState) (i : Nat) : Option Nat :=
  if i = 0 then none
  else if i % f.w ≠ 0 then f.slabs[i - 1]?
  else f.slabs[i - f.w]?

def ConfState.configured (f : ConfState) : Bool := f.slabs.all fun k => f.image.any fun x => x.1 == k

/-- A configuration whose image is being written. -/
def ConfState.streaming (f : ConfState) : Bool := f.phase == .loading || f.phase == .restoring

/-- Whether a slab's rejection of a configuration is on its way to the hoist. -/
def State.rejected (s : State) (cfg : Nat) : Bool := s.m.net.any fun x => match x.body with
  | .reject g _ _ _ => g == cfg
  | _ => false

/-- A slab sends its rejection to the hoist (R254). -/
def sendReject (cfg slab : Nat) (x : Nat × Nat × Nat) : Act := send (slabSite slab 0) 90000 .q1 (.reject cfg x.1 x.2.1 x.2.2)

/-- R254: a slab of a rectangle takes the records of its section, once the slab that feeds it has taken its own; with the last, the whole
image stands checked (log 73). `recs` are the section's records as their bytes in memory give them (log 12). -/
def execConfigWave (slab : Nat) (recs : List Rec) (s : State) : Host.Outcome State Fault Refusal :=
  .next ((Act.look fun s =>
    match s.m.pkg.confs.find? fun (_, f) => f.slabs.contains slab && f.streaming with
    | none => .quiet
    | some (cfg, f) =>
      let place := f.place slab
      let fed := match f.feeder place with
        | some k => f.image.any fun x => x.1 == k
        | none => true
      let far := s.halted (slabSite slab 0) || (s.queue? f.queue).any fun x =>
        s.vaAway { x with desc := { x.desc with col := s.confColour f } } f.imageVa f.imageLen
      if !fed || far || s.rejected cfg || f.image.any fun x => x.1 == slab then .quiet
      else
        match s.confSection (s.confColour f) f place with
        | .error .xlate => untranslated cfg
        | .error .past => sendReject cfg slab (slabSite slab 0, 0, 0)
        | .ok raw =>
          match rawBad raw with
          | some i => sendReject cfg slab (slabSite slab i, 0, 0)
          | none =>
            if !recsAgree raw recs then .quiet
            else
              match s.sectionBad f slab recs with
              | some x => sendReject cfg slab x
              | none => Act.seq [
                  plainSites slab,
                  Act.each recs (install cfg (sitesOf f.slabs) place slab),
                  modConf cfg fun f => { f with image := f.image ++ [(slab, recs)] },
                  checkSlab cfg slab ]).run s)
where
  /-- A slab checks its own blocks; with the last section, what needs the whole image is checked, and the slab of what breaks it rejects it. -/
  checkSlab (cfg slab : Nat) : Act := .look fun s =>
    match s.slabBad cfg slab, s.conf? cfg with
    | some x, _ => sendReject cfg slab x
    | none, none => .quiet
    | none, some f =>
      if !f.configured then .quiet
      else
        match s.cfgBad cfg with
        | some x => sendReject cfg (slabOf x.1) x
        | none => if s.elemsOk cfg then lockChans f else sendReject cfg slab (slabSite slab 0, 0, 0)
  /-- The entries that the checked blocks read block formats from are locked. -/
  lockChans (f : ConfState) : Act := .mod fun m => { m with
    cores := m.cores.map fun (c, k) => (c, if f.slabs.contains (slabOf c) then k.lockedChans else k) }

/-- Completion has run back to the hoist (R254): the configuration is resident, with the SHA-384 of its image's bytes; one that is being
restored awaits its state. -/
def complete (cfg : Nat) (f : ConfState) : Act := .look fun s =>
  if f.phase = .loading then
    let meas := match s.vaBytes (s.confColour f) f.imageVa f.imageLen with
      | .ok bs => sha384 bs
      | .error _ => []
    modConf cfg fun f => { f with phase := .resident, meas := meas }
  else modConf cfg fun f => { f with phase := .restored }

/-- R254: message k, a rejection, reaches the hoist; or the slab of the latch, configured and with the reports of every slab it feeds,
reports completion to the one that fed it, the origin's to the hoist. -/
def execConfigComplete (s : State) : Host.Outcome State Fault Refusal :=
  .next ((Act.look fun s =>
    match (s.m.msg? s.m.at_.k).map Msg.body with
    | some (.reject cfg core b i) => (takeMsg s.m.at_.k).andThen (rejectConf cfg core b i)
    | _ =>
      let cfg := s.m.at_.cfg
      let slab := s.m.at_.id
      match s.conf? cfg with
      | none => .quiet
      | some f =>
        let fed := (upFrom f.slabs.length 0).filter fun i => f.feeder i == some slab
        if !f.streaming || !f.configured || s.rejected cfg || !f.slabs.contains slab || f.done.contains slab ||
            !fed.all (fun i => f.done.contains (f.slabs.getD i 0)) then .quiet
        else (modConf cfg fun f => { f with done := slab :: f.done }).andThen
          (Act.when (f.place slab = 0) (complete cfg f))).run s)

/-! ## Partial reconfiguration (R255) -/

/-- A wave that has taken no token, and whose block waits for one at a channel, does not keep a node from being rewritten: it begins again
under the new blocks (log 72). Any other runs to its commit. -/
def Wave.restarts (n : NodeState) (w : Wave) : Bool :=
  w.chans == [] && w.pend == [] && (bindings n w).any (fun b => !b.frame) &&
    w.bound.all fun (i, f, _) => (bindings n w).any fun b => b.frame && b.slot == i && b.field == f

/-- A node with the records of its partial image. -/
def NodeState.rewritten (n : NodeState) (sites : List Nat) (recs : List Rec) : NodeState :=
  recs.foldl (fun m r =>
    match r with
    | .node _ i => if i.handle = m.info.handle then { m with info := nodeAt m.cfg sites i } else m
    | .block _ h b => if h = m.info.handle then { m with blocks := tput m.blocks (bits b.h0.toNat 53 6) b } else m
    | .demand _ h net port credit => if h = m.info.handle then { m with info := demandAt m.info net port credit } else m
    | _ => m) { n with blocks := [], hurt := [] }

/-- What a partial image breaks in itself, by block: a record that is not the node's, or fails its own checks, a block twice. -/
def partialBad (f : ConfState) (core : Nat) (n : NodeState) (recs : List Rec) : Option Nat :=
  let own (r : Rec) : Bool := recOk f (slabOf core) r && (recHead r).2 == slabIndex core && (match r with
    | .node _ i => i.handle == n.info.handle
    | .block _ h _ => h == n.info.handle
    | .demand _ h _ _ _ => h == n.info.handle
    | .channel _ e _ => n.info.ins.any fun i => i.entry == e
    | _ => false)
  ((recs.find? fun r => !own r).map recBidx).orElse fun _ => repeated [] (recs.filterMap fun r => match r with
    | .block .. => some (recBidx r)
    | _ => none)

/-- Whether a core holds its nodes' headers and words with one node rewritten (02 R37). -/
def CoreState.holdsBlocks (k : CoreState) (node : Nat) (m : NodeState) : Bool :=
  let blocks := k.nodes.flatMap fun (i, n) => (if i = node then m else n).blocks.map Prod.snd
  blocks.length ≤ 64 && sumNat (blocks.map fun b => b.words.length) ≤ 2048

/-- A wave that is stopped before its commit will run again from its block-start state (R279, 01 R25): what it has asked of homes is
released, a buffer that it has taken is free. -/
def interrupt (core frame : Nat) (a : Activation) : Act := Act.seq [
  Act.each (a.waves.filter fun w => !w.fault) fun w =>
    (releaseWave (a.who core frame w.idx 0)).andThen (.when w.buffer (freeBuffer core a.uid)),
  modAct core frame fun a => { a with waves := a.waves.map fun w =>
    if w.fault then w else { w.dropped with slots := restoreWindow w.slots.length w.bound } },
  sweepAct core frame ]

/-- A wave begins again under a rewritten block. -/
def Wave.again (w : Wave) : Wave := if w.fault then w else { newWave w.idx w.block w.order with run := w.run }

/-- The channel entries that a partial image writes. -/
def CoreState.rechannelled (k : CoreState) (recs : List Rec) : CoreState := { k with
  vc := recs.foldl (fun t r => match r with
    | .channel _ e ctl => tput t e ⟨ctl, 0, false⟩
    | _ => t) k.vc }

/-- The state in which a rewritten node is checked: its own blocks among those that its spawns name. -/
def State.withNode (s : State) (core node : Nat) (m : NodeState) (recs : List Rec) : State :=
  ((modCore core fun k => k.rechannelled recs).andThen (modNode core node fun _ => m)).run s

/-- The colours that wait at a node's channels. -/
def NodeState.waitingColours (n : NodeState) : List Colour :=
  (n.chans.filterMap fun (k, x) => if x.queue = [] then none else some (BitVec.ofNat 8 k : Colour)).eraseDups

/-- R255: the node that the latch names stops admitting tokens; once its waves have committed it is rewritten and checked, and it
admits tokens again. A rejection leaves it as it was, with a record. A frozen activation stays as it is, for `resume` to go on from (02 R59). -/
def execPartialReconfig (recs : List Rec) (s : State) : Host.Outcome State Fault Refusal :=
  .next ((Act.look fun s =>
    let core := s.m.at_.core
    let node := s.m.at_.node
    match s.m.node? core node with
    | none => .quiet
    | some n =>
      let open_ : Act := (modNode core node fun n => { n with admitting := true }).andThen
        ((Act.each n.waitingColours fun c => bindAll core node c).andThen
          (Act.each ((s.m.core core).acts.filter fun (_, a) => a.node == node) fun (g, _) => placeTagged core g))
      if n.admitting then modNode core node fun n => { n with admitting := false }
      else if !(s.m.core core).acts.all fun (_, a) => a.node != node || a.frozen || a.waves.all (Wave.restarts n) then .quiet
      else
        match s.conf? n.cfg with
        | none => .quiet
        | some f =>
          let m := n.rewritten (sitesOf f.slabs) recs
          let e : Env := ⟨s.withNode core node m recs, n.cfg, core, m, false⟩
          let bad := ((partialBad f core n recs).map fun b => (b, 0)).orElse fun _ =>
            if (s.m.core core).holdsBlocks node m then e.bad.map Prod.snd else some (0, 0)
          match bad with
          | some (b, i) => (record { Record.blank with
              code := Code.cfgBadop, col := s.confColour f, mkind := 4, site := core, blk := b, slot := i }).andThen open_
          | none => Act.seq [
              modNode core node fun _ => m,
              modCore core fun k => (k.rechannelled recs).lockedChans,
              Act.each ((s.m.core core).acts.filter fun (_, a) => a.node == node && !a.frozen) fun (g, a) => Act.seq [
                interrupt core g a, modAct core g fun a => { a with waves := a.waves.map Wave.again }, bindFrame core g ],
              open_ ]).run s)

/-! ## Entry ports (R256, R257) -/

def ConfState.entry? (f : ConfState) (port : Nat) : Option EntryState := f.entries.find? fun e => e.rcd.port == port

def modEntry (cfg port : Nat) (f : EntryState → EntryState) : Act := modConf cfg fun c =>
  { c with entries := c.entries.map fun e => if e.rcd.port = port then f e else e }

def modEntryColour (cfg port : Nat) (c : Colour) (f : EntryColour → EntryColour) : Act := modEntry cfg port fun e =>
  { e with colours := tput e.colours c.toNat (f (e.colour c)) }

def entryUnit (cfg port : Nat) : Nat := farUnit 1 (cfg * 64 + port)

/-- A token on an entry port's edge. -/
def entrySend (cfg port : Nat) (t : Token) : Act := .look fun s =>
  match (s.conf? cfg).bind fun f => f.entry? port with
  | none => .quiet
  | some e =>
    if t.kind = .eos || t.kind = .wedge then sendControl (entryUnit cfg port) e.rcd.net none [e.rcd.dest] t (e.colour t.colour).sent
    else (sendEdges (entryUnit cfg port) (netCls e.rcd.net) none [e.rcd.dest] t none).andThen
      (modEntryColour cfg port t.colour fun x => { x with sent := x.sent + 1 })

/-- What an entry port does with a seed (R256): a fault's code, a wait, or its entering. Re-injected seeds that wait go first (19 R322). -/
inductive SeedFate where
  | fault (code : Nat)
  | waits
  | enters
deriving DecidableEq, Repr

def State.seedFate (s : State) (e : EntryState) (t : Token) : SeedFate :=
  let x := e.colour t.colour
  let quota := tgetD 0 e.rcd.quotas t.colour.toNat
  if !e.rcd.mask.getLsbD t.colour.toNat then .fault Code.seedColour
  else if t.kind = .stop && t.stopLevel = 0 then .fault Code.seedKind
  else if e.gated || s.m.pkg.gated.contains t.colour ||
      (t.kind != .eos && decide (quota ≤ x.count)) || (e.rcd.gated && decide (x.credit = 0)) || x.reinject != [] then .waits
  else .enters

/-- A seed enters: its sequence is assigned (01 R18), the count rises and the seed is kept (19 R322), but for EOS, and it is sent, with a credit at a
demand-gated entry. -/
def seedIn (cfg port : Nat) (t : Token) : Act := .look fun s =>
  match (s.conf? cfg).bind fun f => f.entry? port with
  | none => .quiet
  | some e =>
    let x := e.colour t.colour
    let u := { t with seq := x.nextSeq }
    let eos := decide (t.kind = .eos)
    Act.seq [
      modEntryColour cfg port t.colour fun x => { x with
        nextSeq := if eos then x.nextSeq else x.nextSeq + 1
        count := if eos then x.count else x.count + 1
        eos := x.eos || eos
        credit := if e.rcd.gated then x.credit - 1 else x.credit
        kept := if eos then x.kept else (x.kept ++ [(⟨x.nextSeq, u, 0⟩ : KeptSeed)]).drop (x.kept.length + 1 - 256) },
      modConf cfg fun f => { f with entered := if f.entered.contains t.colour then f.entered else t.colour :: f.entered },
      entrySend cfg port u ]

/-! ## Exit ports (R257, 19 R322) -/

/-- EOS of a colour has left at every exit port: its counts return to zero. -/
def eosLeft (cfg : Nat) (c : Colour) : Act := modConf cfg fun f =>
  if f.exits.all fun x => x.eos.contains c then
    { f with entries := f.entries.map fun e =>
        match tget? e.colours c.toNat with
        | some x => { e with colours := tput e.colours c.toNat { x with count := 0 } }
        | none => e }
  else f

/-- R257: message k, a token at an exit port, leaves and is released at the credited entry port; a poison token is discarded, and
its re-injection requested. -/
def execExitPortToken (s : State) : Host.Outcome State Fault Refusal :=
  .next ((Act.look fun s =>
    let k := s.m.at_.k
    match s.m.msg? k with
    | none => .quiet
    | some msg =>
      match msg.body with
      | .tok (.exit cfg port) t _ =>
        if !s.m.inOrder k msg then .quiet
        else
          match (s.conf? cfg).bind fun f => f.exits.find? fun x => x.rcd.port == port with
          | none => takeMsg k
          | some x =>
            let modExit (g : ExitState → ExitState) : Act := modConf cfg fun f =>
              { f with exits := f.exits.map fun y => if y.rcd.port = port then g y else y }
            let release := releaseOpt cfg x.rcd.credited t.colour
            (takeMsg k).andThen (
              match t.kind with
              | .wedge => .quiet
              | .eos => Act.seq [modExit fun y => { y with eos := t.colour :: y.eos }, eosLeft cfg t.colour]
              | .poison => release.andThen (match x.rcd.credited with
                  | some p => send (exitUnit cfg port) (entryUnit cfg p) .q1 (.reinject cfg p t.colour t.seq)
                  | none => .quiet)
              | _ => release.andThen (modExit fun y => { y with left := y.left ++ [t] }))
      | _ => .quiet).run s)

/-- A kept seed is seeded again, or its record is written. -/
def reinject (cfg port : Nat) (c : Colour) (seq : BitVec 16) : Act := .look fun s =>
  match (s.conf? cfg).bind fun f => f.entry? port with
  | none => .quiet
  | some e =>
    match (e.colour c).kept.find? fun y => y.seq == seq && y.again < 2 with
    | none => record { Record.blank with
        code := Code.reinject, col := c, site := ((s.conf? cfg).bind fun f => f.slabs.head?).elim 0 fun k => slabSite k 0, seq := seq }
    | some y =>
      if e.gated || (e.rcd.gated && (e.colour c).credit = 0) then
        modEntryColour cfg port c fun x => { x with reinject := x.reinject ++ [y] }
      else Act.seq [
        modEntryColour cfg port c fun x => { x with
          count := x.count + 1
          credit := if e.rcd.gated then x.credit - 1 else x.credit
          kept := x.kept.map fun z => if z = y then { z with again := z.again + 1 } else z },
        entrySend cfg port y.tok ]

/-- The re-injections that waited at a port are tried again. -/
def retryReinject (cfg port : Nat) (c : Colour) : Act := .look fun s =>
  match (s.conf? cfg).bind fun f => f.entry? port with
  | none => .quiet
  | some e => (modEntryColour cfg port c fun x => { x with reinject := [] }).andThen
      (Act.each (e.colour c).reinject fun y => reinject cfg port c y.seq)

/-- R322: message k, a re-injection request, reaches its entry port; without one, those that wait at the port and colour of the
latch are tried again. -/
def execReinjectRequest (s : State) : Host.Outcome State Fault Refusal :=
  .next ((Act.look fun s =>
    let k := s.m.at_.k
    match s.m.msg? k with
    | some msg =>
      match msg.body with
      | .reinject cfg port c seq => (takeMsg k).andThen (reinject cfg port c seq)
      | _ => retryReinject s.m.at_.cfg s.m.at_.port (BitVec.ofNat 8 s.m.at_.colour)
    | none => retryReinject s.m.at_.cfg s.m.at_.port (BitVec.ofNat 8 s.m.at_.colour)).run s)

end Sys2Proof.Machine
end

