-- ==== Sys2Proof/Machine/FloatOps.lean ====
section
/-! DEFINITION. The float instructions and the special functions (spec 05 R111 to R113). -/

namespace Sys2Proof.Machine

/-- R112. -/
def execFadd (f : FormA) (s : State) : Host.Outcome State Fault Refusal :=
  .next ((alu2 0x0C0 f (floatOp2 f.ty.toNat faddElem)).run s)

/-- R112. -/
def execFsub (f : FormA) (s : State) : Host.Outcome State Fault Refusal :=
  .next ((alu2 0x0C1 f (floatOp2 f.ty.toNat fsubElem)).run s)

/-- R112. -/
def execFmul (f : FormA) (s : State) : Host.Outcome State Fault Refusal :=
  .next ((alu2 0x0C2 f (floatOp2 f.ty.toNat fmulElem)).run s)

/-- R112, R83: one rounding of a × b + c. -/
def execFfma (f : FormA) (s : State) : Host.Outcome State Fault Refusal :=
  .next ((alu3 0x0C3 f (ffmaOp f.ty.toNat)).run s)

/-- R112: -0 orders below +0. -/
def execFmin (f : FormA) (s : State) : Host.Outcome State Fault Refusal :=
  .next ((alu2 0x0C4 f (floatOp2 f.ty.toNat fun g a b => .ok (fminElem g a b))).run s)

/-- R112: -0 orders below +0. -/
def execFmax (f : FormA) (s : State) : Host.Outcome State Fault Refusal :=
  .next ((alu2 0x0C5 f (floatOp2 f.ty.toNat fun g a b => .ok (fmaxElem g a b))).run s)

/-- R112: sign bit cleared. -/
def execFabs (f : FormA) (s : State) : Host.Outcome State Fault Refusal :=
  .next ((alu1 0x0C6 f (floatOp1 f.ty.toNat fun g a => .ok (fabsElem g a))).run s)

/-- R112: sign bit inverted. -/
def execFneg (f : FormA) (s : State) : Host.Outcome State Fault Refusal :=
  .next ((alu1 0x0C7 f (floatOp1 f.ty.toNat fun g a => .ok (fnegElem g a))).run s)

/-- R112, R45: 1 or 0 in each element. -/
def execFcmp (f : FormA) (s : State) : Host.Outcome State Fault Refusal :=
  .next ((alu2 0x0C8 f (floatOp2 f.ty.toNat fun g a b =>
    .ok (if condFloat f.sub.toNat (g.decode a) (g.decode b) then 1 else 0))).run s)

/-- R112: the class mask; no error for a NaN pattern. -/
def execFclass (f : FormA) (s : State) : Host.Outcome State Fault Refusal :=
  .next ((alu1 0x0C9 f (intOp f.ty.toNat fun a _ _ => classMask (tyFloat f.ty.toNat) a)).run s)

/-- R113: 1 / a. -/
def execFrcp (f : FormA) (s : State) : Host.Outcome State Fault Refusal :=
  .next ((alu1 0x0CA f (floatOp1 f.ty.toNat fun g a => frcpVal g (g.decode a))).run s)

/-- R113: 1 / √a. -/
def execFrsq (f : FormA) (s : State) : Host.Outcome State Fault Refusal :=
  .next ((alu1 0x0CB f (floatOp1 f.ty.toNat fun g a => frsqVal g (g.decode a))).run s)

/-- R113: √a. -/
def execFsqrt (f : FormA) (s : State) : Host.Outcome State Fault Refusal :=
  .next ((alu1 0x0CC f (floatOp1 f.ty.toNat fun g a => fsqrtVal g (g.decode a))).run s)

/-- R113: 2^a. -/
def execFexp2 (f : FormA) (s : State) : Host.Outcome State Fault Refusal :=
  .next ((alu1 0x0CD f (floatOp1 f.ty.toNat fun g a => Special.exp2 g (g.decode a))).run s)

/-- R113: log2 a. -/
def execFlog2 (f : FormA) (s : State) : Host.Outcome State Fault Refusal :=
  .next ((alu1 0x0CE f (floatOp1 f.ty.toNat fun g a => Special.log2 g (g.decode a))).run s)

/-- R113: tanh a. -/
def execFtanh (f : FormA) (s : State) : Host.Outcome State Fault Refusal :=
  .next ((alu1 0x0CF f (floatOp1 f.ty.toNat fun g a => Special.tanh g (g.decode a))).run s)

/-- R113: 1 / (1 + e^-a). -/
def execFsig (f : FormA) (s : State) : Host.Outcome State Fault Refusal :=
  .next ((alu1 0x0D0 f (floatOp1 f.ty.toNat fun g a => Special.sig g (g.decode a))).run s)

/-- R113: sin a. -/
def execFsin (f : FormA) (s : State) : Host.Outcome State Fault Refusal :=
  .next ((alu1 0x0D1 f (floatOp1 f.ty.toNat fun g a => Special.sin g (g.decode a))).run s)

/-- R113: cos a. -/
def execFcos (f : FormA) (s : State) : Host.Outcome State Fault Refusal :=
  .next ((alu1 0x0D2 f (floatOp1 f.ty.toNat fun g a => Special.cos g (g.decode a))).run s)

/-- R113: erf a. -/
def execFerf (f : FormA) (s : State) : Host.Outcome State Fault Refusal :=
  .next ((alu1 0x0D3 f (floatOp1 f.ty.toNat fun g a => Special.erf g (g.decode a))).run s)

/-- R112: an integral value under SUB[2:0]. -/
def execFround (f : FormA) (s : State) : Host.Outcome State Fault Refusal :=
  .next ((alu1 0x0D4 f (floatOp1 f.ty.toNat fun g a => froundPat g (.ofCode (f.sub.toNat % 8)) a)).run s)

/-- R112, R83: exact, rounded once to FP32. -/
def execFdot2 (f : FormA) (s : State) : Host.Outcome State Fault Refusal :=
  .next ((aluDot 0x0D5 f (dotFloat f.ty.toNat)).run s)

/-- R112, R83: exact, rounded once to FP32. -/
def execFdot4 (f : FormA) (s : State) : Host.Outcome State Fault Refusal :=
  .next ((aluDot 0x0D6 f (dotFloat f.ty.toNat)).run s)

end Sys2Proof.Machine
end

