-- ==== Sys2Proof/Machine/Rounds.lean ====
section
/-! DEFINITION. Pre-emption rounds (spec 16 R277 to R280, R275; 09 R156; 10 R177; 13 R221, R232; 17 R303; 19 R321) and what a
forced teardown discards (01 R36; 07 R147; 12 R198; 13 R221, R232, R234; 19 R319; 22 R372). -/

namespace Sys2Proof.Machine

/-! ## What belongs to a configuration -/

/-- Whether a site is one of a configuration's. -/
def ConfState.holds (f : ConfState) (site : Nat) : Bool := site < 16384 && f.slabs.contains (slabOf site)

/-- The site that holds a bank or slice address. -/
def homeSite (a : Nat) : Option Nat :=
  if 2 ^ 61 ≤ a then some (sliceSite ((a - 2 ^ 61) / 2 ^ 22) ((a - 2 ^ 61) / 2 ^ 18 % 16))
  else if 2 ^ 60 ≤ a then some ((a - 2 ^ 60) / 2 ^ 16)
  else none

def ConfState.holdsHome (f : ConfState) (a : Nat) : Bool := (homeSite a).any f.holds

/-- A request that a round withdraws: a task's or an island's, not a streamer's. -/
def Req.ofConf (r : Req) (cfg : Nat) : Bool := r.cfg == cfg && (match r.who with
  | .task _ => true
  | .island _ => true
  | _ => false)

/-- Whether a tile event is a task's, not a streamer's. -/
def TileEv.ofTask (e : TileEv) : Bool :=
  match e.op with
  | .fill _ => false
  | .drain _ => false
  | _ => true

def PortHeld.ofConf (cfg : Nat) (f : ConfState) : PortHeld → Bool
  | .req r _ => r.ofConf cfg
  | .tile e => f.holds e.who.core && e.ofTask

def Party.ofConf (s : State) (cfg : Nat) (f : ConfState) : Party → Bool
  | .task w => f.holds w.core
  | .island i => (s.island? i).any fun x => x.cfg == cfg
  | _ => false

/-- A message in flight of a configuration. -/
def Msg.ofConf (s : State) (cfg : Nat) (f : ConfState) (x : Msg) : Bool :=
  match x.body with
  | .tok (.chan c _ _) _ _ => f.holds c
  | .tok (.elem i _) _ _ => (s.elem? i).any fun e => e.cfg == cfg
  | .tok (.exit g _) _ _ => g == cfg
  | .tok (.island i _) _ _ => (s.island? i).any fun e => e.cfg == cfg
  | .tok _ _ _ => false
  | .tag c _ => f.holds c
  | .reply r _ => f.holds r.core
  | .sent c _ _ => f.holds c
  | .req r => r.ofConf cfg
  | .ans a => a.who.ofConf s cfg f
  | .spawn c => f.holds c.core
  | .capsule c _ _ => f.holds c
  | .demand c _ _ _ _ => f.holds c
  | .demandEntry g _ _ _ => g == cfg
  | .tile e => f.holds e.who.core && e.ofTask
  | .tagEv e => f.holds e.who.core
  | .bar e => f.holds e.who.core
  | .islandCmd i _ => (s.island? i).any fun e => e.cfg == cfg
  | .reinject g _ _ _ => g == cfg
  | .reject g _ _ _ => g == cfg
  | .cntrRead w _ => f.holds w.core

/-- A beat in a segment's buffer, or a token before a frozen element or island: it is saved where it lies (R278). -/
def Msg.beat (x : Msg) : Bool :=
  match x.body with
  | .tok (.chan _ _ _) _ _ => x.cls == .st
  | .tok (.elem _ _) _ _ => true
  | .tok (.island _ _) _ _ => true
  | _ => false

/-- The clusters that a configuration covers. -/
def ConfState.clusters (f : ConfState) : List Nat := ((sitesOf f.slabs).map clusterOf).eraseDups

/-- Whether a configuration's tile may have its lines in a site: one of its own, or one that no other resident configuration of the colour
holds (log 75). -/
def State.ownsLines (s : State) (cfg : Nat) (f : ConfState) (c : Colour) (site : Nat) : Bool :=
  f.holds site || !s.m.pkg.confs.any fun (k, g) => k != cfg && g.holds site && (s.confColours k).contains c

/-- The tiles of a configuration: those of its colours in the clusters that it covers (16 R275). -/
def State.tilesOf (s : State) (cfg : Nat) (f : ConfState) : List (Nat × Nat × BitVec 32 × BitVec 32) :=
  f.clusters.flatMap fun cl =>
    let k := s.m.cluster cl
    (upFrom 256 0).filterMap fun t =>
      let e := k.tile t
      if (s.confColours cfg).contains (tileCol e) && tileCol e != 0 && s.ownsLines cfg f (tileCol e) (sliceSite cl (tileBase e / 2048)) then
        some (cl, t, e, k.copyOf t)
      else none

/-- Its tags: those of its colours in the clusters that it covers. -/
def State.tagsOf (s : State) (cfg : Nat) (f : ConfState) : List (Nat × Nat × BitVec 64) :=
  f.clusters.flatMap fun cl =>
    (s.m.cluster cl).tags.filterMap fun (i, e) => if tagV e && (s.confColours cfg).contains (tagCol e) then some (cl, i, e) else none

/-- The scope and the home of a barrier entry's key. -/
def barScope (key : Nat) : Nat := key / 64 / 2 ^ 14
def barAt (key : Nat) : Nat := key / 64 % 2 ^ 14

/-- The barrier entries that are saved with a configuration: those of its cores, and of its colours those that only its units have joined, or
none in what it covers that no other resident configuration's colour is (log 75). -/
def State.barsOf (s : State) (cfg : Nat) (f : ConfState) : List (Nat × BarState) :=
  let others := s.m.pkg.confs.filter fun (k, g) => k != cfg && g.slabs != []
  let near (k : Nat) : Bool := match barScope k with
    | 1 => f.clusters.contains (barAt k)
    | 2 => f.clusters.any fun cl => cl / 16 == barAt k
    | _ => true
  s.m.pkg.bars.filter fun (k, b) =>
    if barScope k = 0 then f.holds (barAt k)
    else barScope k ≠ 4 &&
      (if b.units = [] then near k && (s.confColours cfg).contains b.colour && !others.any fun (g, _) => (s.confColours g).contains b.colour
       else b.units.all fun u => f.holds u.1)

/-- The barrier entries of its colours that other configurations use too. The save holds them as they are; they stand on at their homes, where
those others go on, and a copy comes back only where nothing stands any more (log 75). -/
def State.sharedBars (s : State) (cfg : Nat) (f : ConfState) : List (Nat × BarState) :=
  let own := s.barsOf cfg f
  s.m.pkg.bars.filter fun (k, b) => 0 < barScope k && barScope k ≠ 4 && (s.confColours cfg).contains b.colour && !own.any fun y => y.1 == k

/-! ## Withdrawal (09 R156, 10 R177, 13 R221, R232) -/

def Save.blank (f : ConfState) : Save where
  oc := f.oc
  ot := f.ot
  bottom := f.bottom
  cores := []
  mem := []
  pres := []
  damage := []
  masks := []
  withdrawn := []
  resvs := []
  held := []
  waits := []
  ways := []
  tiles := []
  tags := []
  tagHurt := []
  bars := []
  sharedBars := []
  parks := []
  elems := []
  islands := []
  streams := []
  beats := []
  stamp := none

def modSave (cfg : Nat) (g : Save → Save) : Act := modConf cfg fun f => { f with save := f.save.map g }

/-- A word's list after some have left it: its index field names the new head, or the word is EMPTY again (R156). The bits of such a word, which `ldp`
shows, R156 does not give: they are those that the last head left (log 147). -/
def rehead (u w : Nat) : Act := .look fun s =>
  if s.presAt (4 * w) = .defer && !(s.pool u).any fun e => e.word == w then setPres [w] .empty else headWord u w

/-- A configuration's loads leave the pools. -/
def poolLeave (cfg : Nat) : Act := .look fun s =>
  Act.each s.m.pkg.pools fun (u, es) =>
    let gone := es.filter fun e => e.req.ofConf cfg
    if gone.isEmpty then .quiet
    else (setPool u (es.filter fun e => !e.req.ofConf cfg)).andThen (Act.each (gone.map PoolEntry.word).eraseDups (rehead u))

/-- Its refused accesses leave the spoil. -/
def refusedLeave (cfg : Nat) (f : ConfState) : Act := .look fun s =>
  let gone := s.m.pkg.refused.filter fun x => x.2.ofConf cfg f
  (Act.pkg fun p => { p with refused := p.refused.filter fun x => !x.2.ofConf cfg f }).andThen
    (Act.each gone fun x => spoilSub x.2.colour 256)

/-- A reservation of a task of a configuration. -/
def Resv.ofConf (f : ConfState) (r : Resv) : Bool :=
  match r.who with
  | .task w => f.holds w.core
  | _ => false

/-- Everything that waits at a home for a configuration leaves it, into the configuration's save. -/
def withdraw (cfg : Nat) : Act := .look fun s =>
  match s.conf? cfg with
  | none => .quiet
  | some f =>
    let loads := (s.m.pkg.pools.flatMap fun (_, es) => (es.filter fun e => e.req.ofConf cfg).map PoolEntry.req) ++
      s.m.pkg.refused.filterMap fun x => match x.2 with
        | .req r _ => if r.ofConf cfg then some r else none
        | .tile _ => none
    let held := (s.m.clusters.flatMap fun (cl, k) => (k.held.filter fun x => x.2.ofConf cfg f).map fun (u, h) => (cl, u, h)) ++
      s.m.pkg.refused.filterMap fun x => match x.2 with
        | .tile e => if (PortHeld.tile e).ofConf cfg f then some (e.cluster, x.1, .tile e) else none
        | .req _ _ => none
    let ways := s.m.clusters.flatMap fun (cl, k) => (k.resv.filter fun r => f.holds r.who.core).map fun r => (cl, r)
    let waits := s.m.pkg.bars.flatMap fun (_, b) => b.waiters.filter fun e => f.holds e.who.core
    Act.seq [
      modSave cfg fun v => { v with
        withdrawn := v.withdrawn ++ loads, resvs := v.resvs ++ s.m.pkg.resvs.filter (Resv.ofConf f), held := v.held ++ held
        waits := v.waits ++ waits, ways := v.ways ++ ways },
      poolLeave cfg,
      refusedLeave cfg f,
      .mod fun m => { m with
        clusters := m.clusters.map fun (i, k) => (i, { k with
          held := k.held.filter fun x => !x.2.ofConf cfg f
          resv := k.resv.filter fun r => !f.holds r.who.core })
        pkg := { m.pkg with
          resvs := m.pkg.resvs.filter fun r => !r.ofConf f
          bars := m.pkg.bars.map fun (i, b) => (i, { b with waiters := b.waiters.filter fun e => !f.holds e.who.core }) } },
      Act.each (held.map Prod.fst).eraseDups fun cl => releasePorts cl 4096 ]

/-- SETTLING: nothing fires or commits, and what waits at homes is withdrawn. -/
def settle (cfg : Nat) : Act := (modConf cfg fun f => { f with phase := .settling, save := some (Save.blank f) }).andThen (withdraw cfg)

/-! ## The round's events (R277, R279) -/

/-- R277: every entry port has gated: a wedge of each colour follows its last seed, and stands in every node without inputs. -/
def execGatingComplete (s : State) : Host.Outcome State Fault Refusal :=
  .next ((Act.look fun s =>
    let cfg := s.m.at_.cfg
    match s.conf? cfg with
    | none => .quiet
    | some f =>
      if f.phase ≠ .gating || !f.entries.all EntryState.gated then .quiet
      else
        let cs := s.confColours cfg
        Act.seq [
          modConf cfg fun f => { f with phase := .wedging },
          Act.each f.entries fun e => Act.each cs fun c =>
            entrySend cfg e.rcd.port (mkTok c .wedge (Config.freeSeq s.m.free) [0]),
          Act.each (s.nodesOf cfg) fun (core, i, n) => Act.when n.info.ins.isEmpty (modNode core i fun n => { n with wedges := cs }),
          .mod fun m => { m with free := m.free + 1 } ]).run s)

/-- Whether every site of a configuration has frozen; an element or island that no colour can reach is at rest. -/
def State.allFrozen (s : State) (cfg : Nat) : Bool :=
  (s.nodesOf cfg).all (fun (_, _, n) => n.frozen) &&
    ((s.confColours cfg).isEmpty ||
      s.m.pkg.elems.all (fun (_, e) => e.cfg != cfg || e.frozen) && s.m.pkg.islands.all fun (_, i) => i.cfg != cfg || i.frozen)

/-- R277: the origin slab reports that all sites have frozen. -/
def execWedgingComplete (s : State) : Host.Outcome State Fault Refusal :=
  .next ((Act.look fun s =>
    let cfg := s.m.at_.cfg
    match s.conf? cfg with
    | none => .quiet
    | some f => if f.phase = .wedging && s.allFrozen cfg then settle cfg else .quiet).run s)

/-- R279: wedging has taken too long: every site stops at once, wherever its waves stand. -/
def execHardFreeze (s : State) : Host.Outcome State Fault Refusal :=
  .next ((Act.look fun s =>
    let cfg := s.m.at_.cfg
    match s.conf? cfg with
    | none => .quiet
    | some f =>
      if f.phase = .wedging then
        (Act.each (s.m.cores.filter fun (c, _) => f.holds c) fun (c, k) => Act.each k.acts fun (g, a) => interrupt c g a).andThen (settle cfg)
      else .quiet).run s)

/-- Whether a configuration has settled: no packet of it is in flight, no walk for it, and its streamer commands have run to
completion or are frozen. -/
def State.settled (s : State) (cfg : Nat) (f : ConfState) : Bool :=
  s.m.net.all (fun x => !x.ofConf s cfg f || x.beat) &&
    s.m.pkg.walks.all (fun w => w.waiters.all fun x => !f.holds x.core) &&
    s.m.pkg.streams.all fun x => x.cmd.cfg != cfg || x.frozen

/-- A wedge on an edge: it belongs to its round, and is not saved. -/
def Msg.isWedge (x : Msg) : Bool :=
  match x.body with
  | .tok _ t _ => t.kind = .wedge
  | _ => false

/-- The save of a settled configuration (R278). -/
def State.saveOf (s : State) (cfg : Nat) (f : ConfState) (v : Save) : Save := { v with
  cores := s.m.cores.filter fun (c, _) => f.holds c
  mem := s.mem.filter fun (a, _) => f.holdsHome a
  pres := s.pres.filter fun (w, _) => f.holdsHome (4 * w)
  damage := s.m.pkg.damage.filter fun (w, _) => f.holdsHome (4 * w)
  masks := ((sitesOf f.slabs).filter fun c => !isCore c).map fun c =>
    (c, tgetD 0 (s.m.cluster (clusterOf c)).masks ((siteSlice c - 2 ^ 61) / 2 ^ 18 % 16))
  tiles := s.tilesOf cfg f
  tags := s.tagsOf cfg f
  tagHurt := (s.tagsOf cfg f).flatMap fun (cl, i, _) => ((s.m.cluster cl).tagHurt.filter fun x => x.1 == i).map fun x => (cl, x)
  bars := s.barsOf cfg f
  sharedBars := s.sharedBars cfg f
  parks := s.m.pkg.parkWaits.filter fun x => f.holds x.site
  elems := s.m.pkg.elems.filter fun (_, e) => e.cfg == cfg
  islands := s.m.pkg.islands.filter fun (_, i) => i.cfg == cfg
  streams := s.m.pkg.streams.filter fun x => x.cmd.cfg == cfg
  beats := s.m.net.filter fun x => x.ofConf s cfg f && !x.isWedge }

/-- What has been saved leaves the machine's tables. -/
def leaveTables (cfg : Nat) (f : ConfState) (v : Save) : Act := Act.seq [
  Act.each v.tiles fun (cl, t, _, _) => modCluster cl fun k => { k with tiles := tdel k.tiles t, copies := tdel k.copies t },
  Act.each v.tags fun (cl, i, _) => modCluster cl fun k => { k with
    tags := tdel k.tags i, tagHurt := k.tagHurt.filter fun x => x.1 ≠ i },
  .look fun s => .mod fun m => { m with
    net := m.net.filter fun x => !x.ofConf s cfg f
    pkg := { m.pkg with
      bars := m.pkg.bars.filter fun (k, _) => !v.bars.any fun y => y.1 == k
      parkWaits := m.pkg.parkWaits.filter fun x => !f.holds x.site
      streams := m.pkg.streams.filter fun x => x.cmd.cfg != cfg } },
  clearSites cfg f.slabs ]

/-- R277: no packet of the configuration is in flight: its state goes to the save. -/
def execSettlingComplete (s : State) : Host.Outcome State Fault Refusal :=
  .next ((Act.look fun s =>
    let cfg := s.m.at_.cfg
    match s.conf? cfg with
    | none => .quiet
    | some f =>
      if f.phase ≠ .settling || !s.settled cfg f then .quiet
      else (withdraw cfg).andThen (.look fun s =>
        match (s.conf? cfg).bind ConfState.save with
        | none => .quiet
        | some v =>
          let full := s.saveOf cfg f v
          Act.seq [
            modConf cfg fun f => { f with phase := .saving, save := some full },
            leaveTables cfg f full ])).run s)

/-- The bytes of a device's save area as a streaming leaves them: their form is the device's own (R278), so they are free (log 41). -/
def State.areaBytes (s : State) (vdev n : Nat) : List Byte := (upFrom (2 ^ 20 * bits (s.vdevWord vdev 2) 48 16) 0).map (Config.freeByte n)

/-- A save whose area stands as the device has written it, under the seal key of this start (19 R321). -/
def State.unaltered (s : State) (vdev : Nat) (v : Save) : Bool := v.stamp.all fun (n, key) =>
  key == s.m.pkg.sealKey && s.bytesAt (bits (s.vdevWord vdev 2) 0 48) (s.areaBytes vdev n).length == s.areaBytes vdev n

/-- The state is streamed to the device's save area, beside what other saves of the device have there. The queues of colour 0 have no save area. -/
def streamSave (cfg : Nat) (f : ConfState) : Act := .look fun s =>
  let stamp (k : Nat) (v : Save) : Save := if k = cfg || s.unaltered f.vdev v then { v with stamp := some (s.m.free, s.m.pkg.sealKey) } else v
  .when (f.vdev ≠ 32) (Act.seq [
    putBytes (bits (s.vdevWord f.vdev 2) 0 48) (s.areaBytes f.vdev s.m.free),
    .pkg fun p => { p with confs := p.confs.map fun (k, g) => (k, if g.vdev = f.vdev then { g with save := g.save.map (stamp k) } else g) },
    .mod fun m => { m with free := m.free + 1 } ])

/-- R277: the save stands: the slabs are released, and the configuration bids again, unless a teardown waits to discard it. -/
def execSavingComplete (s : State) : Host.Outcome State Fault Refusal :=
  .next ((Act.look fun s =>
    let cfg := s.m.at_.cfg
    match s.conf? cfg with
    | none => .quiet
    | some f =>
      if f.phase ≠ .saving then .quiet
      else Act.seq [
        streamSave cfg f,
        modConf cfg fun f => { f with phase := .saved, slabs := [] },
        .when f.tearer.isNone (.pkg fun p => { p with bids := p.bids ++ [cfg] }),
        answerPreempts,
        arbitrate ]).run s)

/-! ## Restore (R277, R280, R275) -/

/-- Whether an activation is one of a save's. -/
def Save.has (v : Save) (core frame uid : Nat) : Bool :=
  ((tget? v.cores core).map fun k => k.acts.any fun (g, a) => g == frame && a.uid == uid).getD false

def Save.hasReply (v : Save) (r : Reply) : Bool := v.has r.core r.frame r.uid

/-- A save's activations move; others keep their names. -/
def Save.reply (v : Save) (m : Move) (r : Reply) : Reply := if v.hasReply r then m.reply r else r
def Save.cmd (v : Save) (m : Move) (c : Cmd) : Cmd :=
  { c with who := if v.has c.who.core c.who.frame c.who.uid then m.who c.who else c.who, reply := c.reply.map (v.reply m) }

/-- The move of a restore: sites, islands by their node, and serial numbers above those that the new cores have given. -/
def State.moveOf (s : State) (f : ConfState) (v : Save) : Move :=
  let old := sitesOf (v.slabs f.w f.h)
  let site := (Move.of old (sitesOf f.slabs) id fun _ => 0).site
  let island (i : Nat) : Nat :=
    match (v.islands.find? fun x => x.1 == i).bind fun x =>
        s.m.pkg.islands.find? fun y => y.2.node.1 == site x.2.node.1 && y.2.node.2 == x.2.node.2 with
    | some y => y.1
    | none => i
  Move.of old (sitesOf f.slabs) island fun c => if site c = c then 0 else (s.m.core (site c)).nextUid

/-- Whether a port's waiting output is a wedge: it belongs to the round that ends with the restore. -/
def CAct.isWedge : CAct → Bool
  | .wedge .. => true
  | _ => false

/-- A node as it was saved, with the record and the blocks of the image. -/
def NodeState.restored (n new : NodeState) : NodeState := { n with
  info := new.info, blocks := new.blocks, hurt := new.hurt, wedges := [], frozen := false,
  ports := n.ports.map fun (i, p) => (i, { p with backlog := p.backlog.filter fun x => !x.2.isWedge })
  chans := n.chans.map fun (i, c) => (i, { c with wedged := false, held := c.held.filter fun (t, _) => t.kind ≠ .wedge }) }

/-- A core as it was saved, over the nodes that the image has written. -/
def CoreState.restored (k new : CoreState) : CoreState := { k with
  nextUid := max k.nextUid new.nextUid
  arrived := k.arrived ++ new.arrived
  nodes := k.nodes.map fun (i, n) => (i, match tget? new.nodes i with
    | some m => n.restored m
    | none => n) }

/-- The four bytes of a saved word. -/
def Save.word (v : Save) (w : Nat) : List Byte := (upFrom 4 (4 * w)).map fun a => tgetD 0 v.mem a

/-- A word is written back with its state; readers of others that wait on it are answered, or wait on. -/
def restoreWord (v : Save) (old new : Nat) : Act := .look fun s =>
  let bs := v.word old
  match tgetD .full v.pres old with
  | .full => fill (4 * new) bs
  | .err => fillErr (4 * new) 4 (bs.headD 0)
  | _ => if s.presAt (4 * new) = .defer then .quiet else (putBytes (4 * new) bs).andThen (setPres [new] .empty)

/-- The words of the banks and slices of the new sites; a soft error stays with the word that it has struck (09 R173). -/
def restoreMem (f : ConfState) (v : Save) (m : Move) : Act := .look fun s =>
  let back := Move.of (sitesOf f.slabs) (sitesOf (v.slabs f.w f.h)) id fun _ => 0
  let now := (s.mem.filter fun (a, _) => f.holdsHome a).map (fun x => x.1 / 4) ++ (s.pres.filter fun (w, _) => f.holdsHome (4 * w)).map Prod.fst
  let saved := v.mem.map (fun x => m.addr x.1 / 4) ++ v.pres.map fun x => m.addr (4 * x.1) / 4
  (Act.each (now ++ saved).eraseDups fun w => restoreWord v (back.addr (4 * w) / 4) w).andThen
    (.pkg fun p => { p with
      damage := (p.damage.filter fun (w, _) => !f.holdsHome (4 * w)) ++ v.damage.map fun (w, unc) => (m.addr (4 * w) / 4, unc) })

/-- A tile's entry with its lines in the site that they move to. -/
def moveTile (m : Move) (cluster : Nat) (e : BitVec 32) : BitVec 32 :=
  let base := (m.addr (sliceAddr cluster (tileBase e * 128)) - 2 ^ 61) % 2 ^ 22 / 128
  tileWord (tileSt e) (tileCol e) (tileLen e) base

def restoreCluster (f : ConfState) (v : Save) (m : Move) : Act :=
  let moved (cl : Nat) : Nat := m.cluster (sitesOf (v.slabs f.w f.h)) cl
  Act.seq [
    Act.each v.masks fun (c, x) =>
      let c' := m.site c
      modCluster (clusterOf c') fun k => { k with masks := tset 0 k.masks ((siteSlice c' - 2 ^ 61) / 2 ^ 18 % 16) x },
    Act.each v.tiles fun (cl, t, e, x) => modCluster (moved cl) fun k => { k with
      tiles := tset 0 k.tiles t (moveTile m cl e), copies := tset 0 k.copies t (moveTile m cl x) },
    Act.each v.tags fun (cl, i, e) => modCluster (moved cl) fun k => { k with
      tags := tset 0 k.tags i e, tagHurt := (k.tagHurt.filter fun x => x.1 ≠ i) ++ (v.tagHurt.filter fun y => y.1 == cl && y.2.1 == i).map Prod.snd },
    .pkg fun p => { p with bars :=
      (v.bars ++ v.sharedBars.filter fun y => (tget? p.bars y.1).isNone).foldl (fun t (k, b) => tput t (newKey moved k) (m.bar b)) p.bars } ]
where
  /-- The key of a barrier entry where its home moves to. -/
  newKey (moved : Nat → Nat) (key : Nat) : Nat :=
    let home := barAt key
    let home' := match barScope key with
      | 0 => m.site home
      | 1 => moved home
      | 2 => (((sitesOf (v.slabs f.w f.h)).find? fun c => siteDie c == home).map fun c => siteDie (m.site c)).getD home
      | _ => home
    (barScope key * 2 ^ 14 + home') * 64 + key % 64

/-- What names the save's activations from outside follows them. -/
def renameOutside (cfg : Nat) (v : Save) (m : Move) : Act := .mod fun x => { x with
  net := x.net.map fun y => match y.body with
    | .reply r t => if v.hasReply r then { y with dst := (m.reply r).core, body := .reply (m.reply r) t } else y
    | _ => y
  pkg := { x.pkg with
    sysPending := x.pkg.sysPending.map fun (r, ls, t, rep, c) => (r, ls, t, rep.map (v.reply m), c)
    sessions := x.pkg.sessions.map fun y => { y with
      who := if y.cfg = cfg && v.has y.who.core y.who.frame y.who.uid then m.who y.who else y.who
      asks := y.asks.map (v.cmd m) }
    bars := x.pkg.bars.map fun (k, b) => (k, b.named (moved v m)) }
  fab := { x.fab with
    colls := x.fab.colls.map fun c => { c with cmd := v.cmd m c.cmd }
    fbPending := x.fab.fbPending.map (·.named (moved v m)) } }
where
  moved (v : Save) (m : Move) (u : Nat × Nat × Nat) : Nat × Nat × Nat := if v.has u.1 u.2.1 u.2.2 then m.unit u else u

/-- The units of a save that are enrolled in `.fb` entries have other names at their root too (22 R376). -/
def tellMoved (v : Save) (m : Move) : Act := .look fun s =>
  let us := ((s.m.pkg.bars.flatMap fun (k, b) => if barScope k = 4 then b.units else []).filter fun u => v.has u.1 u.2.1 u.2.2).eraseDups
  .when (s.fabRoot ≠ s.fabSelf && us ≠ []) (fbSend s.m.fab.pkg (.moved (us.map fun u => (u, m.unit u))))

/-- The units that the image has configured take back what they held. -/
def restoreUnits (cfg : Nat) (v : Save) (m : Move) : Act := Act.seq [
  Act.each v.cores fun (c, k) => modCore (m.site c) fun new => (m.core c k).restored new,
  .pkg fun p => { p with
    elems := p.elems.map fun (i, e) => (i, match v.elems.find? fun x => x.1 == i with
      | some (_, x) => if e.cfg = cfg then { x with rcd := e.rcd, wedges := [], wedgeSent := [], frozen := false } else e
      | none => e)
    islands := p.islands.map fun (i, e) => (i, match v.islands.find? fun x => m.island x.1 == i with
      | some (_, x) => if e.cfg = cfg then { x with
          node := e.node, out := e.out, latency := e.latency, fmt := e.fmt, inbox := x.inbox.map m.islandIn, wedges := [], frozen := false } else e
      | none => e)
    streams := p.streams ++ v.streams.map fun x => { x with
      cmd := m.cmd x.cmd, cluster := if m.site x.cmd.who.core = x.cmd.who.core then x.cluster else clusterOf (m.site x.cmd.who.core) } },
  .mod fun x => { x with net := x.net ++ v.beats.map m.msg } ]

/-- The place of a home address in a store's pieces, in bytes from its start. -/
def offsetIn (a : Nat) : List (Nat × Nat × PageMode) → Option Nat
  | [] => none
  | (p, n, _) :: rest => if p ≤ a && a < p + n then some (a - p) else (offsetIn a rest).map (n + ·)

/-- The slot of a task's store that covers a word, and the access address there, for the record of a refusal. -/
def State.storeAt (s : State) (w : Who) (a : Nat) : Nat × Nat :=
  (((s.m.actOf? w).bind fun x => x.wave? w.wave).bind fun v => v.acts.findSome? fun (i, x) =>
    match x with
    | .store _ _ ps va _ _ => (offsetIn a ps).map fun k => (i, va + k)
    | _ => none).getD (0, 0)

/-- The slot of a task's tag operation on a way, and its address. -/
def State.tagAt (s : State) (w : Who) (set way : Nat) : Nat × Nat :=
  (((s.m.actOf? w).bind fun x => x.wave? w.wave).bind fun v => v.acts.findSome? fun (i, x) =>
    match x with
    | .tag op => let (t, y, _) := op.where_ w.colour; if t = set && y = way then some (i, op.addr) else none
    | _ => none).getD (0, 0)

/-- A withdrawn reservation presented again (R280): refused on a word that has been filled meanwhile, or that another holds. -/
def presentResv (m : Move) (r : Resv) : Act := .look fun s =>
  let first := m.addr (4 * r.first) / 4
  let ws := upFrom r.words first
  match m.party r.who with
  | .task w =>
    if ws.any (fun i => s.presAt (4 * i) = .full || s.presAt (4 * i) = .err) || s.reserved ws then
      let (slot, va) := s.storeAt w (4 * first)
      takeFault { w with slot := slot } Code.woRewrite 0 va ((s.m.actOf? w).elim 0 Activation.seq) 0
    else .pkg fun p => { p with resvs := p.resvs ++ [⟨.task w, first, r.words⟩] }
  | _ => .quiet

/-- A withdrawn reservation of a way presented again (13 R220). -/
def presentWay (moved : Nat → Nat) (m : Move) (cl : Nat) (r : TagResv) : Act := .look fun s =>
  let w := m.who r.who
  match tagRefusal (s.m.cluster (moved cl)) w r.set r.way r.line with
  | some c => let (slot, va) := s.tagAt w r.set r.way; takeFault { w with slot := slot } c 0 va ((s.m.actOf? w).elim 0 Activation.seq) 0
  | none => modCluster (moved cl) fun k => { k with resv := k.resv ++ [{ r with who := w }] }

/-- Everything that was withdrawn is presented as a new arrival (R280). -/
def present (f : ConfState) (v : Save) (m : Move) : Act :=
  let moved (cl : Nat) : Nat := m.cluster (sitesOf (v.slabs f.w f.h)) cl
  let arrive (r : Req) : Act := let q := m.req r; send q.who.unit (unitOf q.addr) .q0 (.req q)
  Act.seq [
    Act.each v.resvs (presentResv m),
    Act.each v.ways fun (cl, r) => presentWay moved m cl r,
    Act.each v.withdrawn arrive,
    Act.each v.held fun (_, _, h) => (match h with
      | .req r _ => arrive r
      | .tile e => let x := m.tileEv e; .look fun s => send x.who.core (x.port s) .q0 (.tile x)),
    Act.each v.waits fun e => sendBar (m.barEv e),
    Act.each v.parks fun x => parkOrWait { x with site := m.site x.site, buffer := x.buffer.map (· + m.off x.site) } ]

/-- The saved seal states that do not authenticate end their sessions (19 R319, R321): those of another start's key, and of an area that has been
altered those that the alteration has met, which is free (log 9). -/
def restoreSessions (cfg vdev : Nat) (v : Save) : Act := .look fun s =>
  Act.when (!s.unaltered vdev v) (Act.each (s.m.pkg.sessions.filter fun x => x.cfg == cfg && x.phase == .opened) fun x => .look fun s =>
    (Act.mod fun m => { m with free := m.free + 1 }).andThen
      (if (v.stamp.all fun x => x.2 == s.m.pkg.sealKey) && Config.sealAuthentic s.m.free then .quiet else sealEnd x 2 4))

/-- A `yield` is answered once its configuration is resident again (17 R303). -/
def answerYields (v : Save) (m : Move) (ys : List (Reply × BitVec 16)) : Act :=
  Act.each ys fun (r, seq) =>
    let q := v.reply m r
    .look fun s =>
      match s.m.act? q.core q.frame with
      | some a => send 90000 q.core .q1 (.reply q (mkTok q.colour .data seq (padLanes a.width [0])))
      | none => .quiet

/-- The sites that a configuration has stood at, each with the one that took its place, after a move. -/
def movedSites (old : List Nat) (m : Move) (moves : List (Nat × Nat)) : List (Nat × Nat) :=
  let now := (old.filter fun c => m.site c != c).map fun c => (c, m.site c)
  (moves.map fun (a, b) => (a, m.site b)) ++ now.filter fun p => !moves.any fun q => q.1 == p.1

/-- A core of a restored configuration goes on: the capsules that had come land under the place table as it stands (07 R147), and what
waits in its nodes' channels is bound where it may be. -/
def wake (core : Nat) : Act := .look fun s =>
  let k := s.m.core core
  let lands := (k.bufReqs.flatMap fun x => match x with
    | .land h => [h]
    | _ => []) ++ k.arrived
  Act.seq [
    modCore core fun k => { k with arrived := [], bufReqs := k.bufReqs.filter fun x => !x.isLand },
    Act.each lands fun h => if h.joined then landWhole core h else land core h.home h.cap,
    Act.each k.nodes fun (i, n) => Act.each n.waitingColours fun c => bindAll core i c ]

/-- R277: the image and the state stand, the withdrawals are presented, the sources are ungated: resident. -/
def execRestoreComplete (s : State) : Host.Outcome State Fault Refusal :=
  .next ((Act.look fun s =>
    let cfg := s.m.at_.cfg
    match s.conf? cfg with
    | none => .quiet
    | some f =>
      match f.save with
      | none => .quiet
      | some v =>
        if f.phase ≠ .restored then .quiet
        else
          let m := s.moveOf f v
          Act.seq [
            tellMoved v m,
            renameOutside cfg v m,
            restoreUnits cfg v m,
            restoreMem f v m,
            restoreCluster f v m,
            modConf cfg fun f => { f with
              phase := .resident, save := none, yields := []
              moves := movedSites (sitesOf (v.slabs f.w f.h)) m f.moves
              entries := f.entries.map fun e => { e with gated := f.tearer.isSome || !f.launched } },
            present f v m,
            Act.each v.cores fun (c, _) => wake (m.site c),
            restoreSessions cfg f.vdev v,
            answerYields v m f.yields,
            answerPreempts ]).run s)

/-! ## Teardown (21 R350) -/

/-- A discarded item: counted, with a record (R36). -/
def discardItem (site : Nat) (c : Colour) (seq : BitVec 16) (mkind addr : Nat) : Act := (countDiscard c).andThen (record { Record.blank with
  code := Code.teardownDiscard, col := c, mkind := mkind, site := site, seq := seq, addr := addr })

def discardTok (site : Nat) (t : Token) : Act := discardItem site t.colour t.seq 5 t.tag.toNat
def discardCapsule (site : Nat) (c : Capsule) : Act := discardItem site c.colour c.seqNo 1 c.cid

/-- A tile event that waits at a port; an element's is a token. -/
def discardTile (site : Nat) (e : TileEv) : Act :=
  match e.op with
  | .elem _ t => discardTok site t
  | _ => discardItem site e.who.colour 0 5 0

/-- The tokens that lie in a core: windows, channels, spoil, and what waits for windows, ports or room. -/
def CoreState.tokens (k : CoreState) : List Token :=
  (k.acts.flatMap fun (_, a) =>
    (a.waves.flatMap fun w => w.slots.flatMap fun x => if x.fired then [] else x.l.toList ++ x.r.toList ++ x.p.toList) ++ a.tagged.map Prod.snd) ++
  (k.nodes.flatMap fun (_, n) =>
    (n.chans.flatMap fun (_, c) => c.queue ++ c.hold.toList) ++
    (n.ports.flatMap fun (_, p) => p.backlog.filterMap fun (_, x) => match x with
      | .out _ _ t => some t
      | .scaled _ _ _ t => some t
      | .send _ _ _ _ t => some t
      | _ => none)) ++
  k.spill.filterMap Spilled.tok? ++
  k.creations.map Creation.l

/-- A held or landed capsule with the other parts of its completed join. -/
def Held.all (h : Held) : List Capsule := h.cap :: h.parts

/-- The capsules that lie in a core: held, arrived, landed and about to leave. -/
def CoreState.capsules (k : CoreState) : List Capsule :=
  (k.acts.flatMap fun (_, a) => a.held.toList.flatMap Held.all ++ a.after.flatMap fun (_, x) => match x with
    | .cap (.leave h _) => h.all
    | .cap (.copy h) => h.all
    | _ => []) ++
  (k.bufReqs.flatMap fun x => match x with
    | .land h => h.all
    | _ => []) ++ k.arrived.flatMap Held.all

/-- The held, landed and leaving capsules of a core. -/
def CoreState.heldAll (k : CoreState) : List Held :=
  (k.acts.flatMap fun (_, a) => a.held.toList ++ a.after.filterMap fun (_, x) => match x with
    | .cap (.leave h _) => some h
    | _ => none) ++ (k.bufReqs.flatMap fun x => match x with
    | .land h => [h]
    | _ => []) ++ k.arrived

/-- The spoil that a core's colours use is given back, that of the parts of completed joins with it. -/
def spoilBack (k : CoreState) : Act := Act.seq [
  Act.each k.spill fun x => spoilSub x.colour 256,
  Act.each k.evicted fun c => spoilSub c (evictBytes k c),
  Act.each k.heldAll fun h => Act.each h.parts fun c => spoilSub c.colour c.size ]

/-- The events that commits have still to send go out: they are committed. -/
def sendOwed (core : Nat) (k : CoreState) : Act := Act.each k.outs fun (_, q) => Act.each q.events fun e => e.send core

/-- Enrolments are withdrawn (13 R232). -/
def leaveBars (core : Nat) (k : CoreState) : Act := Act.each k.acts fun (_, a) => Act.each a.enrol fun e =>
  sendBar ⟨⟨core, a.frame, a.uid, a.count, 0, a.colour, 0⟩, e.scope, e.idx, .leave, mkTok a.colour .data a.seq [], none⟩

/-- What is in flight of a configuration and goes with it; committed stores, tags and barrier events are performed. -/
def Msg.lost (s : State) (cfg : Nat) (f : ConfState) (x : Msg) : Bool :=
  match x.body with
  | .req r => r.ofConf cfg && !r.kind.storeClass
  | .tagEv e => f.holds e.who.core && !e.commit
  | .bar _ => false
  | .capsule _ home _ => home == cfg
  | _ => x.ofConf s cfg f

/-- Its count and record, where a lost message is a token, a capsule or an event that would wait (R36, R147, R234). -/
def discardMsg (site : Nat) (x : Msg) : Act :=
  match x.body with
  | .tok _ t _ => if t.kind = .wedge || t.kind = .eos then .quiet else discardTok site t
  | .tag _ t => discardTok site t
  | .reply _ t => discardTok site t
  | .sent _ _ t => discardTok site t
  | .spawn c => discardTok site c.l
  | .capsule _ _ c => discardCapsule site c
  | .tile e => discardTile site e
  | .islandCmd _ c => discardItem site c.who.colour c.l.seq 5 0
  | _ => .quiet

def discardElem (e : ElemState) : Act :=
  (Act.each e.queue fun x => discardTok e.rcd.core x.2).andThen
    (Act.each (e.voted.filter fun x => x.2.2.2 == []) fun x => discardTok e.rcd.core x.2.2.1)

def discardIsland (i : IslandState) : Act := Act.seq [
  Act.each i.beats fun x => discardTok i.node.1 x.2.2,
  Act.each i.held fun x => discardTok i.node.1 x.2,
  Act.each i.inbox fun x => match x with
    | .cmd c => discardItem i.node.1 c.who.colour c.l.seq 5 0
    | .beat _ t => discardTok i.node.1 t ]

/-- R36, R147, R198, R221, R232, R234, R319, R372: a forced teardown discards what a configuration holds, in its sites or in its
save. -/
def discardConf (cfg : Nat) : Act := .look fun s =>
  match s.conf? cfg with
  | none => .quiet
  | some f₀ =>
    let v := f₀.save.getD (Save.blank f₀)
    let f := { f₀ with slabs := if f₀.save.isSome then v.slabs f₀.w f₀.h else f₀.slabs }
    let saved := f₀.save.isSome
    let cores := if saved then v.cores else s.m.cores.filter fun (c, _) => f.holds c
    let elems := if saved then v.elems else s.m.pkg.elems.filter fun (_, e) => e.cfg == cfg
    let islands := if saved then v.islands else s.m.pkg.islands.filter fun (_, i) => i.cfg == cfg
    let site := (f.slabs.head?.map fun k => slabSite k 0).getD 0
    let lost (x : Msg) : Bool := if saved then
        (match x.body with
          | .capsule _ home _ => home == cfg
          | .reply r _ => v.hasReply r
          | _ => false)
      else x.lost s cfg f
    let joins := s.m.pkg.joins.filter fun j => j.cfg == cfg
    let parks := if saved then v.parks else s.m.pkg.parkWaits.filter fun x => f.holds x.site
    Act.seq [
      Act.each (s.m.pkg.sessions.filter fun x => x.cfg == cfg) fun x => sealEnd x 2 3,
      collAbortConf cfg,
      Act.when (!saved) (Act.seq [
        poolLeave cfg,
        refusedLeave cfg f,
        Act.each (s.tilesOf cfg f) fun (cl, t, e, _) => modCluster cl fun k => { k with
          tiles := tset 0 k.tiles t (tileWord 0 0 (tileLen e) (tileBase e)), copies := tset 0 k.copies t (tileWord 0 0 (tileLen e) (tileBase e)) },
        Act.each s.m.clusters fun (_, k) => Act.each (k.held.filter fun x => x.2.ofConf cfg f) fun x => (match x.2 with
          | .req r _ => if r.kind.storeClass then .quiet else discardItem site r.colour 0 5 r.va
          | .tile e => discardTile site e),
        Act.each s.m.pkg.bars fun (_, b) => Act.each (b.waiters.filter fun e => f.holds e.who.core) fun e =>
          discardItem e.who.core e.who.colour e.l.seq 5 0,
        .mod fun m => { m with
          clusters := m.clusters.map fun (i, k) => (i, { k with
            held := k.held.filter fun x => !x.2.ofConf cfg f, resv := k.resv.filter fun r => !f.holds r.who.core })
          pkg := { m.pkg with
            resvs := m.pkg.resvs.filter fun r => !r.ofConf f
            bars := m.pkg.bars.map fun (i, b) => (i, { b with waiters := b.waiters.filter fun e => !f.holds e.who.core }) } },
        Act.each s.m.clusters fun (_, k) => Act.each (k.held.filter fun x => x.2.ofConf cfg f) fun x => (match x.2 with
          | .req r _ => if r.kind.storeClass then reqArrive x.1 r else .quiet
          | .tile _ => .quiet),
        Act.each f.clusters fun cl => releasePorts cl 4096 ]),
      Act.when saved (Act.seq [
        .pkg fun p => { p with bars := v.bars.foldl (fun t x => tput t x.1 x.2) p.bars },
        Act.each v.held fun (_, _, h) => (match h with
          | .req r _ => if r.kind.storeClass then sendReq r.who.unit r else discardItem site r.colour 0 5 r.va
          | .tile e => discardTile site e),
        Act.each v.waits fun e => discardItem e.who.core e.who.colour e.l.seq 5 0,
        Act.each v.beats (discardMsg site) ]),
      Act.each (s.m.net.filter lost) (discardMsg site),
      .mod fun m => { m with net := m.net.filter fun x => !lost x },
      Act.each cores fun (c, k) => Act.seq [
        Act.each k.tokens (discardTok c),
        Act.each k.capsules (discardCapsule c),
        spoilBack k,
        sendOwed c k,
        leaveBars c k ],
      Act.each elems fun (_, e) => discardElem e,
      Act.each islands fun (_, i) => discardIsland i,
      Act.each joins fun j => (discardCapsule site j.cap).andThen (spoilSub j.colour j.cap.size),
      Act.each parks fun x => discardCapsule site x.cap,
      .pkg fun p => { p with
        joins := p.joins.filter fun j => j.cfg != cfg
        parkWaits := if saved then p.parkWaits else p.parkWaits.filter fun x => !f.holds x.site
        streams := p.streams.filter fun x => x.cmd.cfg != cfg || !x.frozen } ]

/-- The slabs are released and the handle is free. -/
def release (cfg : Nat) : Act := .look fun s =>
  match s.conf? cfg with
  | none => .quiet
  | some f => Act.seq [clearSites cfg f.slabs, dropConf cfg, answerPreempts, arbitrate]

end Sys2Proof.Machine
end

