-- ==== Sys2Proof/Machine/Sched.lean ====
section
/-! DEFINITION. The rounds of hoists and arbiter (spec 16 R270 to R275) and a queue's answered read. -/

namespace Sys2Proof.Machine

/-! ## The hoist's order (R271, R272) -/

def QState.waiting (x : QState) : Bool := !x.mapped && !x.frozen && !x.blocked

/-- A queue that has been WAITING through one complete round; the round in which it came is none. -/
def QState.promoted (x : QState) : Bool := 2 ≤ x.rounds

/-- a stands before b in the WAITING order. -/
def QState.before (a b : QState) : Bool :=
  if a.promoted != b.promoted then a.promoted
  else if !a.promoted && a.pri ≠ b.pri then b.pri < a.pri
  else a.age < b.age

def State.waitOrder (s : State) (die : Nat) : List (Nat × QState) :=
  sortRel (fun a b => a.2.before b.2) (s.m.pkg.queues.filter fun (_, x) => x.desc.die == die && x.waiting)

/-! ## Queues that the hypervisor makes IDLE (R270) -/

/-- What a queue has asked of a home is answered no more: its parked read leaves its pool. -/
def dropReads (q : Nat) : Act := .look fun s => Act.seq [
  Act.each s.m.pkg.pools fun (u, es) =>
    let gone := es.filter fun e => e.req.who == .queue q
    if gone.isEmpty then .quiet
    else (setPool u (es.filter fun e => e.req.who != .queue q)).andThen (Act.each (gone.map PoolEntry.word).eraseDups (rehead u)),
  .mod fun m => { m with net := m.net.filter fun x => match x.body with
    | .ans a => a.who != .queue q
    | _ => true } ]

/-- A queue that is not MAPPED and whose ST the hypervisor has written IDLE is none of the hoist's any more (R270). -/
def dropIdle : Act := .look fun s =>
  Act.each (s.m.pkg.queues.filter fun (q, x) => !x.mapped && (s.readDesc q).st == qIdle) fun (q, _) =>
    (dropReads q).andThen (.pkg fun p => { p with queues := tdel p.queues q })

/-- A queue between packets: nothing of its current packet has been done (R270, R349). -/
def QState.atBoundary (x : QState) : Bool := x.progress == 0 && x.passOver == none

/-- A selected queue takes a slot, with the descriptor as memory holds it, but for the order in which it is served, which the boundary has read
(R272): one that the hypervisor has made IDLE is gone, a ST that stands for no state faults (R270). -/
def bindNext (q held : Nat) : Act := .look fun s =>
  match s.queue? q with
  | none => .quiet
  | some x =>
    let d := s.readDesc q
    if d.st = qWaiting then
      (modQueue q fun y => { y with desc := d, segEnd := if d.ptr = x.desc.ptr then y.segEnd else 0 }).andThen (bindQueue q held)
    else if 5 ≤ d.st then (modQueue q fun y => { y with desc := d }).andThen (queueFault q Code.pktBadop 0)
    else .pkg fun p => { p with queues := tdel p.queues q }

/-- Queues that are to leave their slots do so at a packet boundary, and the selected ones take free slots; n bounds the passes. `now` is 1 at
a round boundary, from which what enters WAITING or MAPPED there has the full round, and else 0. -/
def handOver (die now : Nat) : Nat → Act
  | 0 => .quiet
  | n + 1 => .look fun s =>
    match s.m.pkg.queues.find? fun (_, x) => x.desc.die == die && x.mapped && x.selected && x.atBoundary with
    | some (q, x) => Act.seq [unbind q (if x.parked then qBlocked else qWaiting), modQueue q fun x => { x with rounds := now }, handOver die now n]
    | none =>
      let next := sortRel (fun a b => a.2.before b.2) (s.m.pkg.queues.filter fun (_, x) => x.desc.die == die && x.waiting && x.selected)
      match next with
      | (q, _) :: _ => if 16 ≤ s.slotsUsed die then .quiet else (bindNext q now).andThen (handOver die now n)
      | [] => .quiet

/-- PRI as the boundary reads it (R272), and one more round of waiting or of holding a slot. -/
def readRound (die : Nat) : Act := .look fun s => .pkg fun p => { p with
  hoistRound := tput p.hoistRound die (tgetD 0 p.hoistRound die + 1)
  queues := p.queues.map fun (q, x) => (q,
    if x.desc.die ≠ die then x
    else if x.waiting then { x with desc := { x.desc with pri := (s.readDesc q).pri }, pri := (s.readDesc q).pri, rounds := x.rounds + 1 }
    else if x.mapped then { x with pri := x.desc.pri, held := x.held + 1 }
    else x) }

/-- The selection at a boundary: as many of the WAITING order as slots are free or will be freed; queues whose packet waits on an
EMPTY word leave first (log 33). -/
def selectRound (die : Nat) : Act := .look fun s =>
  let waits := s.waitOrder die
  let free := 16 - s.slotsUsed die
  let mapped := s.m.pkg.queues.filter fun (_, x) => x.desc.die == die && x.mapped
  let due := (mapped.filter fun (_, x) => x.parked) ++ mapped.filter fun (_, x) => !x.parked && 2 ≤ x.held
  let n := min waits.length (free + due.length)
  let take := (waits.take n).map Prod.fst
  let leave := (due.take (n - free)).map Prod.fst
  .pkg fun p => { p with queues := p.queues.map fun (q, x) => (q,
    if x.desc.die = die && (take.contains q || leave.contains q) then { x with selected := true } else x) }

/-- R271: a round boundary of a die's hoist, while its clocks run (19 R325): the queues that the hypervisor has made IDLE are in no order. -/
def execHoistRound (s : State) : Host.Outcome State Fault Refusal :=
  .next ((Act.look fun s =>
    let die := s.m.at_.die
    if s.m.pkg.stopped.contains die then .quiet
    else Act.seq [dropIdle, readRound die, selectRound die, handOver die 1 64]).run s)

/-- R270: the deferred read of a queue is answered: a mapped queue's packet takes what it gave; a BLOCKED queue is WAITING again, and
its packet will run from its start, unless the hypervisor has made it IDLE. -/
def execQueueUnblock (s : State) : Host.Outcome State Fault Refusal :=
  .next ((Act.look fun s =>
    let q := s.m.at_.queue
    let mine (k : Nat) : Option AnsVal := (s.m.msg? k).bind fun x => match x.body with
      | .ans a => if a.who = .queue q then some a.val else none
      | _ => none
    match (upFrom s.m.net.length 0).findSome? fun k => (mine k).map fun v => (k, v) with
    | none => .quiet
    | some (k, v) => (takeMsg k).andThen (
        match s.queue? q with
        | none => .quiet
        | some x =>
          if !x.parked then .quiet
          else if x.mapped then modQueue q fun y => { y with parked := false, answer := some v }
          else if x.blocked then
            if (s.readDesc q).st = qBlocked then unbind q qWaiting else .pkg fun p => { p with queues := tdel p.queues q }
          else .quiet)).run s)

/-! ## The arbiter's round (R273 to R275) -/

/-- PRI of the pending bids (R272); a pre-empted configuration keeps its own (R274). -/
def readBids : Act := .look fun s => .pkg fun p => { p with confs := p.confs.map fun (k, f) =>
  (k, if p.bids.contains k && f.save.isNone then { f with pri := (s.queue? f.queue).elim f.pri fun x => x.desc.pri } else f) }

/-- The package row of a configuration's lowest slab. -/
def ConfState.top (f : ConfState) : Nat := if f.bottom then 16 - f.ot - f.h else f.ot

/-- Whether a configuration would stand lower, were it moved. -/
def State.movable (s : State) (k : Nat) (f : ConfState) : Bool :=
  let without : State := { s with m := { s.m with pkg := { s.m.pkg with confs := tput s.m.pkg.confs k { f with slabs := [] } } } }
  match without.origin f with
  | some (c, t) => t < f.top || (t == f.top && c < f.oc)
  | none => false

/-- Compaction (R275): the resident configuration of lowest PRI that would stand lower begins its move. -/
def compactOne : Act := .look fun s =>
  let order := sortRel (fun a b : Nat × ConfState => a.2.pri < b.2.pri) (s.m.pkg.confs.filter fun (_, f) => f.phase == .resident)
  match order.find? fun (k, f) => s.movable k f with
  | some (k, _) => (modConf k fun f => { f with moving := true }).andThen (startRound k)
  | none => .quiet

/-- Pre-emption for a bid (R274): a resident configuration of strictly lower PRI, the lowest first, then the latest admitted. -/
def preemptFor (pri : Nat) : Act := .look fun s =>
  let order := sortRel (fun a b : Nat × ConfState => a.2.pri < b.2.pri || (a.2.pri == b.2.pri && b.2.admitted < a.2.admitted))
    (s.m.pkg.confs.filter fun (_, f) => f.phase == .resident && f.pri < pri)
  match order with
  | (k, _) :: _ => startRound k
  | [] => .quiet

/-- What the arbiter does for a bid that has been bypassed eight times and does not fit, one configuration at a time. -/
def press : Act := .look fun s =>
  match s.ranked.find? fun b => 8 ≤ b.2.bypass && (s.origin b.2).isNone with
  | none => .quiet
  | some (_, f) =>
    if s.m.pkg.confs.any fun (_, g) => g.moving || g.phase.inRound then .quiet
    else if f.w * f.h ≤ 512 - sumNat (s.m.pkg.confs.map fun (_, g) => g.slabs.length) then compactOne
    else preemptFor f.pri

/-- R273: a round of the package arbiter. -/
def execArbiterRound (s : State) : Host.Outcome State Fault Refusal := .next ((Act.seq [readBids, arbitrate, press]).run s)

end Sys2Proof.Machine
end

