-- ==== Sys2Proof/Machine/Packets.lean ====
section
/-! DEFINITION. Command packets (spec 02 R60 to R62; 21 R345 to R353; 15 R251, R256; 19 R316): what the hoist does with each. -/

namespace Sys2Proof.Machine

/-! ## Executing a packet -/

/-- A packet of POP `pop` at the head of the mapped queue of the latch: checked (R62), then executed; queues that are to leave their
slots do so behind it (R271). -/
def packet (pop : Nat) (ok : Bool) (p : Packet) (act : Nat → QState → Act) : Act := .look fun s =>
  let q := s.m.cur.queue
  match s.queue? q with
  | none => .quiet
  | some x =>
    if !x.mapped then .quiet
    else (if ok then act q x else queueFault q Code.pktBadop (packetHeader p pop)).andThen (handOver x.desc.die 0 64)

/-- The address of the packet after. -/
def QState.after (x : QState) (p : Packet) : Nat := x.desc.ptr + packetLen p

/-- One of the packets that a `pk.pred` steps over, by its PLEN (R349): its header is fetched, or the next is looked at. PTR names the
`pk.pred` until the last. -/
def stepOver (q : Nat) (x : QState) (k a : Nat) : Act :=
  let fault (c : Nat) : Act := queueFault q c ((fetchedWord x.fetched x.desc.ptr).elim 0 BitVec.toNat)
  if x.beyond a then fault Code.pktBadop
  else
    match fetchedWord x.fetched a with
    | none => hoistFetch q a (fault Code.xlate)
    | some h =>
      let n := 1 + bits h.toNat 16 8
      if x.beyond (a + 4 * (n - 1)) then fault Code.pktBadop
      else if k ≤ 1 then goTo q (a + 4 * n)
      else modQueue q fun x => { x with passOver := some (k - 1, a + 4 * n) }

/-- The state in which the mapped queue whose turn it is has its next packet, with that packet; or what happens instead: a word of it is
fetched, a packet is stepped over, or a defect stops the queue (R62). -/
def State.nextPacket (s : State) (q : Nat) : Except State (Instr × State) :=
  match s.queue? q with
  | none => .error s
  | some x =>
    if !x.mapped || s.m.pkg.stopped.contains x.desc.die || s.turn x.desc.die ≠ some q then .error s
    else
      match x.passOver with
      | some (k, a) => .error ((stepOver q x k a).run s)
      | none =>
        match x.packetAt with
        | .more a header => .error ((hoistFetch q a (queueFault q Code.xlate header)).run s)
        | .bad code header => .error ((queueFault q code header).run s)
        | .ready ws =>
          match decodePacket ws with
          | .error _ => .error ((queueFault q Code.pktBadop (ws.headD 0).toNat).run s)
          | .ok i => .ok (i, ((markServed q x.desc.die).andThen (.mod fun m => { m with cur := { m.cur with queue := q } })).run s)

/-- A queue's hoist fetches a word ahead (R62). One without translation is left: it stops the queue only where a packet needs it. -/
def fetchAhead (q : Nat) : Act := .look fun s =>
  match s.queue? q with
  | none => .quiet
  | some x =>
    match x.ahead with
    | some a => if s.m.pkg.stopped.contains x.desc.die then .quiet else hoistFetch q a .quiet
    | none => .quiet

/-! ## Flow (R349, R316, 02 R62) -/

/-- R61: nothing. -/
def execPkNop (p : Packet) (s : State) : Host.Outcome State Fault Refusal :=
  .next ((packet 0x00 (Instr.pkNop p).wf p fun q x => goTo q (x.after p)).run s)

/-- Whether a segment header is as R316 lays it out. -/
def segmentOk (h : Nat) : Bool := bits h 31 1 == 1 && bits h 18 13 == 0 && bits h 0 18 != 0

/-- R349: on at word 1 of the segment, whose end R316's header gives; its packets are fetched behind its header. -/
def execPkLink (p : Packet) (s : State) : Host.Outcome State Fault Refusal :=
  .next ((packet 0x01 (Instr.pkLink p).wf p fun q x => .look fun s =>
    let a := p.pair 0
    let bad := queueFault q Code.pktBadop (packetHeader p 0x01)
    if x.desc.ibd ≠ 0 || x.desc.lpcnt ≠ 0 then bad
    else
      match hoistRead s q x a true with
      | .wait park => park
      | .fault c => queueFault q c (packetHeader p 0x01)
      | .bad => bad
      | .word w =>
        if segmentOk w.toNat then
          (goTo q (a + 4)).andThen (modQueue q fun y => { y with
            segEnd := a + 4 + 4 * bits w.toNat 0 18
            fetched := y.fetched.filter fun v => v.1 < a || a + 4 + 4 * bits w.toNat 0 18 ≤ v.1 })
        else bad).run s)

/-- R349: into an indirect buffer. -/
def execPkIb (p : Packet) (s : State) : Host.Outcome State Fault Refusal :=
  .next ((packet 0x05 (Instr.pkIb p).wf p fun q x =>
    if x.desc.ibd = 4 then queueFault q Code.pktBadop (packetHeader p 0x05)
    else (goTo q (p.pair 0)).andThen (modQueue q fun y => { y with
      desc := { y.desc with ibd := x.desc.ibd + 1, ibret := setAt y.desc.ibret x.desc.ibd (x.after p) } })).run s)

/-- R349: back from an indirect buffer. -/
def execPkIbend (p : Packet) (s : State) : Host.Outcome State Fault Refusal :=
  .next ((packet 0x06 (Instr.pkIbend p).wf p fun q x =>
    if x.desc.ibd = 0 then queueFault q Code.pktBadop (packetHeader p 0x06)
    else (goTo q (x.desc.ibret.getD (x.desc.ibd - 1) 0)).andThen
      (modQueue q fun y => { y with desc := { y.desc with ibd := x.desc.ibd - 1 } })).run s)

/-- R349: a loop is opened. -/
def execPkLoopOpen (p : Packet) (s : State) : Host.Outcome State Fault Refusal :=
  .next ((packet 0x08 (Instr.pkLoopOpen p).wf p fun q x =>
    if x.desc.lpcnt ≠ 0 then queueFault q Code.pktBadop (packetHeader p 0x08)
    else (goTo q (x.after p)).andThen
      (modQueue q fun y => { y with desc := { y.desc with lpadr := x.after p, lpcnt := p.pflg.toNat } })).run s)

/-- R349: a loop is closed, or its body runs again. -/
def execPkLoopClose (p : Packet) (s : State) : Host.Outcome State Fault Refusal :=
  .next ((packet 0x08 (Instr.pkLoopClose p).wf p fun q x =>
    if x.desc.lpcnt = 0 then queueFault q Code.pktBadop (packetHeader p 0x08)
    else (goTo q (if 1 < x.desc.lpcnt then x.desc.lpadr else x.after p)).andThen
      (modQueue q fun y => { y with desc := { y.desc with lpcnt := x.desc.lpcnt - 1 } })).run s)

/-- R62: what has been fetched ahead is discarded. -/
def execPkFfence (p : Packet) (s : State) : Host.Outcome State Fault Refusal :=
  .next ((packet 0x09 (Instr.pkFfence p).wf p fun q x =>
    (goTo q (x.after p)).andThen (modQueue q fun y => { y with fetched := [] })).run s)

/-- The condition of `pk.pred` and `pk.wait` on a word (R348). -/
def packetHolds (p : Packet) (w : Lane) : Bool :=
  condInt (p.pflg.toNat % 8) (Int.ofNat w.toNat) (Int.ofNat (p.payload.getD 2 0).toNat)

def packetDef (p : Packet) : Bool := p.pflg.getLsbD 3

/-- R349: the next packets are stepped over where the condition fails. -/
def execPkPred (p : Packet) (s : State) : Host.Outcome State Fault Refusal :=
  .next ((packet 0x07 (Instr.pkPred p).wf p fun q x => .look fun s =>
    let fault (c : Nat) : Act := queueFault q c (packetHeader p 0x07)
    match hoistRead s q x (p.pair 0) (packetDef p) with
    | .wait park => park
    | .fault c => fault c
    | .bad => fault Code.waitErr
    | .word w =>
      let k := p.pflg.toNat / 256
      if packetHolds p w || k = 0 then goTo q (x.after p) else modQueue q fun y => { y with passOver := some (k, x.after p) }).run s)

/-- R349: a wait for a word. With DEF 0 it is read once in each of the hoist's rounds. -/
def execPkWait (p : Packet) (s : State) : Host.Outcome State Fault Refusal :=
  .next ((packet 0x0A (Instr.pkWait p).wf p fun q x => .look fun s =>
    let fault (c : Nat) : Act := queueFault q c (packetHeader p 0x0A)
    let round := tgetD 0 s.m.pkg.hoistRound x.desc.die
    if !packetDef p && x.polled = some round then .quiet
    else
      match hoistRead s q x (p.pair 0) (packetDef p) with
      | .wait park => park
      | .fault c => fault c
      | .bad => fault Code.waitErr
      | .word w =>
        if packetHolds p w then goTo q (x.after p)
        else if packetDef p then fault Code.waitCond
        else modQueue q fun y => { y with polled := some round }).run s)

/-! ## Configurations (R346, R347, R350) -/

/-- R347: every colour that has entered has had its EOS at every entry port and has left at every exit port. -/
def ConfState.drained (f : ConfState) : Bool :=
  f.launched && f.entered.all fun c =>
    f.entries.all (fun e => !e.rcd.mask.getLsbD c.toNat || (e.colour c).eos) && f.exits.all fun x => x.eos.contains c

/-- Whether its `pk.cfg` has not yet ended. -/
def ConfState.loading (f : ConfState) : Bool := f.waitsCfg

/-- A packet that names a live handle, or CFG_HANDLE (R346). -/
def withHandle (q : Nat) (x : QState) (p : Packet) (header : Nat) (act : Nat → ConfState → Act) : Act := .look fun s =>
  let cfg := x.cfgNo p
  match s.conf? cfg with
  | none => queueFault q Code.cfgHandle header
  | some f => if f.tearer.isSome then queueFault q Code.cfgHandle header else act cfg f

/-- The image header's checks (R251). -/
def headerOk (w : List Nat) : Bool :=
  let w0 := w.getD 0 0
  let w1 := w.getD 1 0
  let w2 := w.getD 2 0
  bits w0 32 32 == 0x5A434946 && bits w0 16 16 == 1 && bits w0 0 16 == 0 && bits w1 0 25 == 0 && bits w1 41 7 ≤ 64 && bits w1 34 7 ≤ 64 &&
    bits w1 25 9 ≤ 256 && bits w2 32 32 == 0 && 128 ≤ bits w2 0 32 && (w.drop 3).all fun v => v == 0

def headerWords : Nat → List Byte → List Nat
  | 0, _ => []
  | n + 1, bs => leNat (bs.take 8) :: headerWords n (bs.drop 8)

/-- The colours that an image's entry ports name: each record ends in its mask and 256 quotas (R252, log 12). -/
def State.entryMasks (s : State) (c : Colour) (rs : List (Nat × Nat × Nat)) : List Nat :=
  rs.filterMap fun (k, a, n) =>
    if k = 0x08 && 136 ≤ n then (match s.vaNat c (a + 4 * (n - 136)) 32 with
      | .ok m => some m
      | .error _ => none)
    else none

/-- Whether every colour that a mask names is bound to a virtual device. -/
def State.maskBound (s : State) (v mask : Nat) : Bool :=
  (upFrom 256 0).all fun i => bits mask i 1 == 0 || (i ≠ 0 && s.bound (BitVec.ofNat 8 i) && s.vdevOf (BitVec.ofNat 8 i) == v)

/-- A configuration as its bid begins. -/
def ConfState.bid (x : QState) (q va age : Nat) (w : List Nat) : ConfState where
  vdev := x.space
  queue := q
  w := bits (w.getD 1 0) 59 5 + 1
  h := bits (w.getD 1 0) 55 4 + 1
  oc := 0
  ot := 0
  bottom := false
  phase := .bidding
  launched := false
  det := bits (w.getD 1 0) 54 1 == 1
  per := bits (w.getD 1 0) 48 6 + 1
  nent := bits (w.getD 1 0) 41 7
  nexit := bits (w.getD 1 0) 34 7
  ncls := bits (w.getD 1 0) 25 9
  imageVa := va
  imageLen := bits (w.getD 2 0) 0 32
  slabs := []
  image := []
  entries := []
  exits := []
  classes := []
  switches := []
  done := []
  live := []
  entered := []
  meas := []
  pri := x.pri
  age := age
  bypass := 0
  yields := []
  save := none
  waitsCfg := true
  tearer := none
  moving := false
  moves := []
  admitted := 0

/-- The bytes of an image that the checks of a `pk.cfg` read: its header, and where that is one the whole of it. -/
def State.imageSpan (s : State) (c : Colour) (va : Nat) : Nat :=
  match s.vaBytes c va 128 with
  | .ok bs => if headerOk (headerWords 16 bs) then bits ((headerWords 16 bs).getD 2 0) 0 32 else 128
  | .error _ => 128

/-- What a new `pk.cfg` meets before it bids: a code, or the configuration that bids. -/
def State.cfgCheck (s : State) (q : Nat) (x : QState) (va : Nat) : Except Nat ConfState :=
  let c := x.desc.col
  match s.vaBytes c va 128 with
  | .error _ => .error Code.xlate
  | .ok bs =>
    let w := headerWords 16 bs
    let f := ConfState.bid x q va s.m.pkg.nextAge w
    if !headerOk w then .error Code.cfgBadop
    else
      match s.imageOf c va f.imageLen with
      | .error _ => .error Code.xlate
      | .ok rs =>
        if c ≠ 0 && !(s.entryMasks c rs).all (s.maskBound f.vdev) then .error Code.colourBind
        else if c ≠ 0 && s.slabQuota f.vdev < f.w * f.h then .error Code.slabQuota
        else .ok f

/-- R350: a bid, and its end once the hoist has received completion. -/
def execPkCfg (p : Packet) (s : State) : Host.Outcome State Fault Refusal :=
  .next ((packet 0x02 (Instr.pkCfg p).wf p fun q x => .look fun s =>
    let cfg := x.cfgNo p
    match s.conf? cfg with
    | some f =>
      if !(f.waitsCfg && f.queue = q) then queueFault q Code.cfgHandle (packetHeader p 0x02)
      else if f.phase = .bidding || f.phase = .loading then .quiet
      else (modConf cfg fun f => { f with waitsCfg := false }).andThen (goTo q (x.after p))
    | none =>
      if s.vaAway x (p.pair 0) (s.imageSpan x.desc.col (p.pair 0)) then .quiet else
      match s.cfgCheck q x (p.pair 0) with
      | .error c => queueFault q c (packetHeader p 0x02)
      | .ok f => .pkg fun t => { t with confs := tput t.confs cfg f, bids := t.bids ++ [cfg], nextAge := t.nextAge + 1 }).run s)

/-- R350: the entry ports open to seeds; in a round they open at its end. -/
def execPkLaunch (p : Packet) (s : State) : Host.Outcome State Fault Refusal :=
  .next ((packet 0x03 (Instr.pkLaunch p).wf p fun q x =>
    withHandle q x p (packetHeader p 0x03) fun cfg f =>
      if f.loading then .quiet
      else if f.launched then queueFault q Code.cfgState (packetHeader p 0x03)
      else (modConf cfg fun f => { f with
          launched := true, entries := f.entries.map fun e => { e with gated := f.phase != .resident } }).andThen
        (goTo q (x.after p))).run s)

/-! ### Seeds (R351, R256) -/

def seedPort (p : Packet) : Nat := bits (p.payload.getD 0 0).toNat 10 6
def seedColour (p : Packet) : Colour := BitVec.ofNat 8 (bits (p.payload.getD 0 0).toNat 24 8)

/-- The kinds that a seed may have (R351). -/
def seedKindOk (k : Nat) : Bool := [0, 1, 3, 4].contains k

/-- Seed i of a packet. -/
def seedTok (p : Packet) (i : Nat) : Token :=
  let w := seedWidth p
  mkTok (seedColour p) (Kind.ofBits (BitVec.ofNat 3 (seedKind p))) 0 (padLanes w ((p.payload.drop (1 + i * w)).take w))

/-- The next of a packet's seeds enters, or waits, and the queue behind it. -/
def seedStep (q : Nat) (x : QState) (p : Packet) : Act :=
  let header := packetHeader p 0x04
  withHandle q x p header fun cfg f => .look fun s =>
    if !f.launched then queueFault q Code.cfgState header
    else if !seedKindOk (seedKind p) then queueFault q Code.seedKind header
    else
      match (if seedPort p < f.nent then f.entry? (seedPort p) else none) with
      | none => queueFault q Code.seedPort header
      | some e =>
        let t := seedTok p x.progress
        match s.seedFate e t with
        | .fault c => queueFault q c header
        | .waits => .quiet
        | .enters => (seedIn cfg (seedPort p) t).andThen
            (if x.progress + 1 < seedCount p then modQueue q fun y => { y with progress := x.progress + 1 } else goTo q (x.after p))

/-- R351: a packet's seeds enter one by one. -/
def execPkSeed (p : Packet) (s : State) : Host.Outcome State Fault Refusal :=
  .next ((packet 0x04 (Instr.pkSeed p).wf p fun q x => seedStep q x p).run s)

/-- R256: the next seed of the packet at the head of the latch's queue reaches its entry port. -/
def execSeedEnter (s : State) : Host.Outcome State Fault Refusal :=
  match s.nextPacket s.m.at_.queue with
  | .ok (.pkSeed p, s') => .next ((packet 0x04 (Instr.pkSeed p).wf p fun q x => seedStep q x p).run s')
  | _ => .next s

/-! ### Teardown (R350) -/

/-- A teardown that has begun, or begins now, does what it can. One that has met a round waits for SAVED and discards the save, by force or not
(16 R277). -/
def tearStep (q cfg : Nat) (x : QState) (p : Packet) (force : Bool) : Act := .look fun s =>
  match s.conf? cfg with
  | none => .quiet
  | some f =>
    let done := (release cfg).andThen (goTo q (x.after p))
    if f.phase = .saved || f.phase = .resident && force then (discardConf cfg).andThen done
    else if f.phase = .resident && f.drained then done
    else .quiet

/-- R350: the entry ports are gated; drained, or discarded by force, the configuration releases its slabs. A forced teardown overtakes
one that is not. -/
def execPkTeardown (p : Packet) (s : State) : Host.Outcome State Fault Refusal :=
  .next ((packet 0x11 (Instr.pkTeardown p).wf p fun q x => .look fun s =>
    let cfg := x.cfgNo p
    let force := p.pflg.getLsbD 12
    let handle := queueFault q Code.cfgHandle (packetHeader p 0x11)
    match s.conf? cfg with
    | none => handle
    | some f =>
      match f.tearer with
      | some (o, of) =>
        if o = q then tearStep q cfg x p of
        else if force && !of then (modConf cfg fun f => { f with tearer := some (q, true) }).andThen (tearStep q cfg x p true)
        else handle
      | none =>
        if f.loading then .quiet
        else (modConf cfg fun f => { f with tearer := some (q, force), entries := f.entries.map fun e => { e with gated := true } }).andThen
          (tearStep q cfg x p force)).run s)

/-! ## Writes and settings (R352, R353) -/

/-- The bytes that `pk.write` writes: 4, or 8 with SZ. -/
def writeVal (p : Packet) : List Byte := laneBytes ((p.payload.drop 2).take (if p.pflg.getLsbD 12 then 2 else 1))

/-- The write as one event at its home. -/
def hoistWrite (q : Nat) (x : QState) (p : Packet) : Act := .look fun s =>
  let bs := writeVal p
  match s.xlate x.desc.col classH true (p.pair 0) with
  | .error _ => queueFault q Code.xlate (packetHeader p 0x0B)
  | .ok (h, m) =>
    if s.away x.desc.die h then .quiet
    else
      match s.engineRefusal h bs.length m with
      | some _ => queueFault q Code.woRewrite (packetHeader p 0x0B)
      | none => Act.seq [engineWrite x.desc.col h m (plainBytes bs), dropIdle, goTo q (x.after p)]

/-- R352: a write, with DRAIN once the handle's configuration has drained. -/
def execPkWrite (p : Packet) (s : State) : Host.Outcome State Fault Refusal :=
  .next ((packet 0x0B (Instr.pkWrite p).wf p fun q x =>
    if p.pflg.getLsbD 13 then withHandle q x p (packetHeader p 0x0B) fun _ f => if f.drained then hoistWrite q x p else .quiet
    else hoistWrite q x p).run s)

/-- R352: a message to the host, while its receiver takes one; whether it takes the next at once is free (log 28). -/
def execPkSignal (p : Packet) (s : State) : Host.Outcome State Fault Refusal :=
  .next ((packet 0x0C (Instr.pkSignal p).wf p fun q x => .look fun s =>
    if !s.m.pkg.hostReady then .quiet
    else Act.seq [
      .pkg fun t => { t with
        hostOut := t.hostOut ++ [(q, p.pflg.setWidth 8, p.payload)], hostReady := Config.hostStaysReady s.m.free },
      .mod fun m => { m with free := m.free + 1 },
      goTo q (x.after p) ]).run s)

/-- R352: the host's receiver takes a message again. -/
def execHostReceiverReady (s : State) : Host.Outcome State Fault Refusal := .next ((Act.pkg fun p => { p with hostReady := true }).run s)

/-- R352: PRI, which the next round reads (R272). -/
def execPkPri (p : Packet) (s : State) : Host.Outcome State Fault Refusal :=
  .next ((packet 0x0D (Instr.pkPri p).wf p fun q x =>
    (goTo q (x.after p)).andThen (modQueue q fun y => { y with desc := { y.desc with pri := p.pflg.toNat } })).run s)

/-! ### Colours (R353, 16 R267) -/

/-- Payload pair i as a 64-bit word of an entry. -/
def entryWords (p : Packet) : List Nat := (upFrom 4 0).map fun i => p.pair (2 * i)

/-- The reserved bits of a colour entry are zero. -/
def colourEntryOk (w : List Nat) : Bool :=
  bits (w.getD 0 0) 0 52 == 0 && bits (w.getD 1 0) 0 24 == 0 && bits (w.getD 2 0) 48 16 == 0 && bits (w.getD 2 0) 0 5 == 0 &&
    bits (w.getD 3 0) 32 32 == 0

def entryBits (w : List Nat) : BitVec 256 :=
  BitVec.ofNat 256 (w.getD 0 0 + w.getD 1 0 * 2 ^ 64 + w.getD 2 0 * 2 ^ 128 + w.getD 3 0 * 2 ^ 192)

/-- Whether a bound colour is still used: by a configuration, resident or saved, of its virtual device or of a queue of colour 0 (R350), a parked
capsule or a queue. -/
def State.colourUsed (s : State) (c : Colour) : Bool :=
  let v := s.vdevOf c
  let inCores (cs : Tab CoreState) (cfg : Nat) : Bool :=
    cs.any fun (_, k) => k.nodes.any fun (_, n) => n.cfg == cfg && n.info.colours.getLsbD c.toNat
  s.bound c &&
    (s.m.pkg.confs.any (fun (k, f) => (f.vdev == v || f.vdev == 32) && (f.entries.any (fun e => e.rcd.mask.getLsbD c.toNat) || inCores s.m.cores k ||
        (match f.save with
          | some x => inCores x.cores k
          | none => false))) ||
      s.m.pkg.parked.any (fun k => k.colour == c) || s.m.pkg.queues.any fun (_, x) => x.desc.col == c)

/-- R353: a colour's entry. -/
def execPkColour (p : Packet) (s : State) : Host.Outcome State Fault Refusal :=
  .next ((packet 0x0E (Instr.pkColour p).wf p fun q x => .look fun s =>
    let c : Colour := BitVec.ofNat 8 p.pflg.toNat
    let w := entryWords p
    let v := bits (w.getD 0 0) 58 5
    let fault (code : Nat) : Act := queueFault q code (packetHeader p 0x0E)
    if !colourEntryOk w then fault Code.pktBadop
    else if x.desc.col ≠ 0 then fault Code.pktColour
    else if c = 0 || (bits (w.getD 0 0) 63 1 = 1 && bits (s.vdevWord v 0) 63 1 = 0) || s.colourUsed c then fault Code.colourBind
    else (Act.pkg fun t => { t with colours := tset 0 t.colours c.toNat (entryBits w) }).andThen (goTo q (x.after p))).run s)

/-! ### Pins (R353, 15 R258, R259) -/

/-- The address of the descriptor that a walk from a table ends at, with the descriptor. -/
def leafFrom (s : State) (a : Nat) : Nat → List (Nat × Nat × Nat) → Option (Nat × Nat)
  | _, [] => none
  | t, (lo, n, size) :: rest =>
    let at_ := t + 8 * bits a lo n
    let d := s.nat at_ 8
    if bits d 0 1 = 0 then none
    else if bits d 1 1 = 1 then (if size ≠ 0 && leafOk d size then some (at_, d) else none)
    else
      match tablePtr d with
      | .error _ => none
      | .ok t' => leafFrom s a t' rest

def State.leafAt (s : State) (c : Colour) (a : Nat) : Option (Nat × Nat) :=
  if 2 ^ 48 ≤ a then none
  else
    match s.level0 c with
    | .error _ => none
    | .ok t => leafFrom s a t walkLevels

/-- The leaves of a range of pages, or the first breach. -/
def leaves_ (s : State) (c : Colour) (pin : Bool) : List Nat → Except Nat (List (Nat × Nat))
  | [] => .ok []
  | a :: rest =>
    match s.leafAt c a with
    | none => .error Code.pinRange
    | some (at_, d) =>
      if pin && leafPin d then .error Code.pinConflict
      else if !pin && !leafPin d then .error Code.pinRange
      else (leaves_ s c pin rest).map ((at_, d) :: ·)

/-- PIN set or cleared in the leaves of a range, by colour 0 or the colour itself. -/
def pinAt (pop : Nat) (pin : Bool) (p : Packet) (q : Nat) (x : QState) : Act := .look fun s =>
  let c : Colour := BitVec.ofNat 8 p.pflg.toNat
  let fault (code : Nat) : Act := queueFault q code (packetHeader p pop)
  if x.desc.col ≠ 0 && x.desc.col ≠ c then fault Code.pktColour
  else
    match leaves_ s c pin ((upFrom (p.payload.getD 2 0).toNat 0).map fun i => p.pair 0 + 2 ^ 16 * i) with
    | .error code => fault code
    | .ok ls => if ls.any fun l => s.away x.desc.die l.1 then .quiet else (Act.each ls.eraseDups fun (a, d) =>
        putBytes a (leBytes 8 (if pin then d + 2 ^ 55 else d - 2 ^ 55))).andThen (goTo q (x.after p))

/-- R353: PIN is set in every leaf of a range. -/
def execPkPin (p : Packet) (s : State) : Host.Outcome State Fault Refusal :=
  .next ((packet 0x0F (Instr.pkPin p).wf p (pinAt 0x0F true p)).run s)

/-- R353: PIN is cleared in every leaf of a range. -/
def execPkUnpin (p : Packet) (s : State) : Host.Outcome State Fault Refusal :=
  .next ((packet 0x10 (Instr.pkUnpin p).wf p (pinAt 0x10 false p)).run s)

end Sys2Proof.Machine
end

