-- ==== Sys2Proof/Machine/Package.lean ====
section
/-! DEFINITION. The package (spec 19 R312 to R315, R324 to R330; 16 R266, R268; 01 R16): starts, the management page, the host's
apertures, CXL links, clocks and heat, and the hop of a token. -/

namespace Sys2Proof.Machine

/-! ## Hops (01 R16) -/

/-- A token with its tag's bits [63:2] replaced, but for the width, which its payload shows. -/
def withTag (t : Token) (b : Nat) : Token := { t with
  colour := BitVec.ofNat 8 (bits b 56 8), kind := Kind.ofBits (BitVec.ofNat 3 (bits b 53 3)), frame := BitVec.ofNat 10 (bits b 38 10)
  slot := BitVec.ofNat 5 (bits b 33 5), field := BitVec.ofNat 2 (bits b 31 2), wave := BitVec.ofNat 8 (bits b 23 8)
  seq := BitVec.ofNat 16 (bits b 7 16), chan := BitVec.ofNat 5 (bits b 2 5) }

/-- What a hop makes of a received tag: whether check[1] and check[0] hold. -/
def tagChecks (b : Nat) : Bool × Bool :=
  (parity 32 (b / 2 ^ 32) == (bits b 1 1 == 1), parity 30 (b / 4) == (bits b 0 1 == 1))

/-- A message's token replaced. -/
def Body.setTok : Body → Token → Body
  | .tok d _ a, t => .tok d t a
  | .tag c _, t => .tag c t
  | .reply r _, t => .reply r t
  | .sent c d _, t => .sent c d t
  | b, _ => b

def Body.token? : Body → Option Token
  | .tok _ t _ => some t
  | .tag _ t => some t
  | .reply _ t => some t
  | .sent _ _ t => some t
  | _ => none

/-- R16: a hop, where message k may go on (15 R243), receives it with the bits of its tag that `flip` names changed on the way: forwarded as it stands where both
checks hold, as poison where check[0] alone fails, discarded with TAG_CHECK where check[1] fails. -/
def execTokenHop (flip : BitVec 64) (s : State) : Host.Outcome State Fault Refusal :=
  .next ((Act.look fun s =>
    let k := s.m.at_.k
    match s.m.net[k]? with
    | none => .quiet
    | some x =>
      match if s.m.mayHop k x then x.body.token? else none with
      | none => .quiet
      | some t =>
        let b := (t.tag ^^^ flip).toNat
        let die := (unitDie x.dst).getD 0
        let on (u : Token) : Act := .mod fun m => { m with net := setAt m.net k { x.hopped with body := x.body.setTok u } }
        match tagChecks b with
        | (true, true) => on (withTag t b)
        | (true, false) => on { withTag t b with kind := .poison }
        | (false, _) => Act.seq [
            takeMsg k,
            countErr die true,
            recordIn 0 { Record.blank with
              code := Code.tagCheck, col := BitVec.ofNat 8 (bits b 56 8), site := siteId die 0 0, seq := BitVec.ofNat 16 (bits b 7 16)
              addr := b } ]).run s)

/-! ## Starts (R326, R327, R330) -/

/-- Every byte that a predicate names is as an unlisted one, and every word FULL. -/
def clearBytes (p : Nat → Bool) : Act := .look fun s => Act.each (s.mem.filter fun x => p x.1) fun x => fun _ => [.byte x.1 0]
def clearPres (p : Nat → Bool) : Act := .look fun s => setPres ((s.pres.filter fun x => p (4 * x.1)).map Prod.fst) .full

def isHbm (a : Nat) : Bool := a < 2 ^ 44
def isOnDie (a : Nat) : Bool := 2 ^ 60 ≤ a
def isHostHome (a : Nat) : Bool := 2 ^ 56 ≤ a && a < 2 ^ 60

/-- The tables after a start: none remain. What the spec does not clear stays (log 34). PHASE shows READY, or failed where a step of the start
fails, which is free (R327, log 141). -/
def PkgState.started (p : PkgState) (warm : Bool) : PkgState := { PkgState.reset with
  counters := if warm then p.counters.filter fun x => 2048 ≤ x.1 else []
  savedBanks := if warm then p.savedBanks else []
  sealKey := p.sealKey + 1
  errc := if warm then p.errc else []
  damage := if warm then p.damage else []
  cxlDown := if warm then p.cxlDown else []
  seams := if warm then p.seams else []
  clockSteps := p.clockSteps
  throttled := p.throttled
  stopped := p.stopped
  hostOut := p.hostOut
  hostReady := p.hostReady
  hostAnswers := p.hostAnswers
  mgmt := { MgmtState.reset with
    phase := if Config.startFails (p.mgmt.boot + 1) then 2 else 1, warm := warm, meas := Config.measurement (p.mgmt.boot + 1), boot := p.mgmt.boot + 1 } }

/-- The fabric after a start, the boot-th: the management core sets the package's ID (22 R357, log 141); links stay trained over a warm start. -/
def FabricState.started (f : FabricState) (warm : Bool) (boot : Nat) : FabricState := { (
  if warm then { f with
    colls := [], rrColl := 0, early := [], relay := [], relayMarks := [], relayAcks := [], figures := [], fbPending := [], fbHeld := [] } else FabricState.reset) with
  pkg := Config.packageId boot }

/-- A start, cold or warm, with the words of HBM whose readers are gone EMPTY again over a warm one (09 R156). -/
def start (warm : Bool) : Act := Act.seq [
  Act.when (!warm) ((clearBytes isHbm).andThen (clearPres isHbm)),
  Act.when warm (.look fun s => setPres ((s.pres.filter fun x => isHbm (4 * x.1) && x.2 == .defer).map Prod.fst) .empty),
  clearPres isOnDie,
  clearPres isHostHome,
  .mod fun m => { m with
    net := []
    cores := []
    clusters := (m.clusters.filter fun x => x.2.stretched).map fun (i, _) => (i, { ClusterState.zero with stretched := true })
    pkg := m.pkg.started warm
    fab := m.fab.started warm (m.pkg.mgmt.boot + 1) } ]

/-- R326: power-on runs a cold start. -/
def execPowerOn (s : State) : Host.Outcome State Fault Refusal := .next ((start false).run s)

/-- A start request is ignored while the package is starting. -/
def startAsked (warm : Bool) : Act := .look fun s => Act.when (s.m.pkg.mgmt.phase ≠ 0) (start warm)

/-- R326: a write of 1 to START. -/
def execStartCold (s : State) : Host.Outcome State Fault Refusal := .next ((startAsked false).run s)

/-- R326: a write of 2 to START. -/
def execStartWarm (s : State) : Host.Outcome State Fault Refusal := .next ((startAsked true).run s)

/-! ## The management page (R327, R328) -/

def modMgmt (f : MgmtState → MgmtState) : Act := .pkg fun p => { p with mgmt := f p.mgmt }

/-- Bits [n - 1 : lo] of a register, the rest zero. -/
def regField (v : BitVec 64) (lo n : Nat) : Nat := v.toNat % 2 ^ n / 2 ^ lo * 2 ^ lo

/-- The fields of word i of a virtual-device entry (16 R266): its reserved bits are written as zero (00 R4). -/
def vdentFields (i : Nat) (v : BitVec 64) : BitVec 64 :=
  BitVec.ofNat 64 (match i with
    | 0 => regField v 53 64 + regField v 12 48
    | 1 => regField v 12 48
    | 2 => regField v 48 64 + regField v 16 48
    | _ => 0)

/-- R327: a register takes its fields' bits. -/
def execMgmtRegisterWrite (reg : MgmtReg) (v : BitVec 64) (s : State) : Host.Outcome State Fault Refusal :=
  .next ((modMgmt fun m =>
    match reg with
    | .vdsel => { m with vdsel := v.setWidth 5 }
    | .vdent i => { m with vdent := setAt m.vdent i.val (vdentFields i.val v) }
    | .c0root => { m with c0root := regField v 12 48 }
    | .c0farea => { m with c0farea := regField v 5 48 }
    | .c0nrec => { m with c0nrec := regField v 0 32 }
    | .c0spoil => { m with c0spoil := BitVec.ofNat 64 (regField v 24 64) }
    | .c0ptab => { m with c0ptab := regField v 12 48 }).run s)

/-- R328: QTAB, ignored while any queue is MAPPED or BLOCKED. -/
def execQtabWrite (base : BitVec 64) (s : State) : Host.Outcome State Fault Refusal :=
  .next ((Act.look fun s =>
    if s.m.pkg.queues.any fun (_, x) => x.mapped || x.blocked then .quiet else modMgmt fun m => { m with qtab := regField base 6 48 }).run s)

/-- R328: a doorbell: the hoist reads the descriptor, and queues it where its ST is WAITING; a BLOCKED queue among them, which the
hypervisor has made IDLE before (16 R270). -/
def execQdoor (queue : BitVec 12) (s : State) : Host.Outcome State Fault Refusal :=
  .next ((dropIdle.andThen (.look fun s =>
    let q := queue.toNat
    let known := match s.queue? q with
      | some x => !x.frozen && !x.blocked
      | none => false
    if s.m.pkg.mgmt.qtab = 0 || known || (s.readDesc q).st ≠ qWaiting then .quiet else (dropReads q).andThen (requeue q))).run s)

/-- The entry that VDENT holds. -/
def MgmtState.entry (m : MgmtState) : BitVec 256 :=
  BitVec.ofNat 256 ((m.vdent.getD 0 0).toNat + (m.vdent.getD 1 0).toNat * 2 ^ 64 + (m.vdent.getD 2 0).toNat * 2 ^ 128 +
    (m.vdent.getD 3 0).toNat * 2 ^ 192)

/-- Whether a configuration is resident, in a round or saved: past its first bid and the writing of its image (16 R277). -/
def CfgPhase.stands : CfgPhase → Bool
  | .bidding => false
  | .loading => false
  | _ => true

/-- Whether a virtual device has a configuration that is resident, in a round or saved (R266, R328). -/
def State.vdevInUse (s : State) (v : Nat) : Bool := s.m.pkg.confs.any fun (_, f) => f.vdev == v && f.phase.stands

def setVdcmd (v : BitVec 2) : Act := modMgmt fun m => { m with vdcmd := v }

/-- The management core serves a command; where the latch says so, it has first only taken it, and VDCMD shows busy until the next such event
(R327, log 140). -/
def served (act : Act) : Act := .look fun s => if s.m.at_.j ≠ 0 && s.m.pkg.mgmt.vdcmd ≠ 1 then setVdcmd 1 else act

/-- The counter bank of a virtual device as it stands in its save area (R268). -/
def State.bankAt (s : State) (save : Nat) : List (BitVec 64) := (upFrom 64 0).map fun i => BitVec.ofNat 64 (s.nat (save + 8 * i) 8)

def putBank (v : Nat) (bank : List (BitVec 64)) : Act := .pkg fun p => { p with
  counters := (bank.zip (upFrom bank.length 0)).foldl (fun t (x, i) => tset 0 t (v * 64 + i) x) p.counters }

/-- R328: entry IDX is bound from VDENT, with its counters read back where SAVE names a bank released earlier; refused while it is
in use, or where V is 0. -/
def execVdcmdBind (s : State) : Host.Outcome State Fault Refusal :=
  .next ((served (.look fun s =>
    let m := s.m.pkg.mgmt
    let v := m.vdsel.toNat
    let e := m.entry
    let save := bits (m.vdent.getD 2 0).toNat 0 48
    if s.vdevInUse v || bits (m.vdent.getD 0 0).toNat 63 1 = 0 then setVdcmd 2
    else Act.seq [
      (if s.m.pkg.savedBanks.contains save then
        (putBank v (s.bankAt save)).andThen (.pkg fun p => { p with savedBanks := p.savedBanks.filter (· ≠ save) })
      else if bits (s.vdevWord v 0) 63 1 = 1 then .quiet
      else putBank v (List.replicate 64 0)),
      .pkg fun p => { p with vdevs := tset 0 p.vdevs v e },
      setVdcmd 0 ])).run s)

/-- R328: the counter bank goes to the first 512 bytes of the save area, and V is cleared; refused while a configuration of the
device is resident or saved. -/
def execVdcmdRelease (s : State) : Host.Outcome State Fault Refusal :=
  .next ((served (.look fun s =>
    let v := s.m.pkg.mgmt.vdsel.toNat
    let e := tgetD (0 : BitVec 256) s.m.pkg.vdevs v
    let save := bits (s.vdevWord v 2) 0 48
    if s.vdevInUse v then setVdcmd 2
    else if bits (s.vdevWord v 0) 63 1 = 0 then setVdcmd 0
    else Act.seq [
      putBytes save ((upFrom 64 0).flatMap fun i => leBytes 8 (tgetD (0 : BitVec 64) s.m.pkg.counters (v * 64 + i)).toNat),
      putBank v (List.replicate 64 0),
      .pkg fun p => { p with
        vdevs := tset 0 p.vdevs v (e &&& ~~~(1#256 <<< 63))
        savedBanks := save :: p.savedBanks.filter (· ≠ save) },
      setVdcmd 0 ])).run s)

/-! ## The host's apertures (R313, R314) -/

def hostAnswer (a : Option (List Byte)) : Act := .pkg fun p => { p with hostAnswers := p.hostAnswers ++ [a] }

/-- An access's form: 4 to 128 bytes, a power of two, aligned (hence within one line), and in the aperture. -/
def hostForm (size a n : Nat) : Bool := [4, 8, 16, 32, 64, 128].contains n && a % n == 0 && a + n ≤ size

/-- A host access: refused with an error completion until READY (R326), or in any other form. -/
def hostAccess (size a n : Nat) (act : Act) : Act := .look fun s =>
  if s.m.pkg.mgmt.phase = 1 && hostForm size a n then act else hostAnswer none

/-- A refused write: nothing is written, and a record goes to colour 0's area. -/
def hostRefused (a : Nat) : Act :=
  (hostAnswer none).andThen (recordIn 0 { Record.blank with code := Code.hostWo, addr := a })

/-- R314: the bits, presence ignored. -/
def execHostDataRead (addr len : Nat) (s : State) : Host.Outcome State Fault Refusal :=
  .next ((hostAccess hbmSize addr len (.look fun s => hostAnswer (some (s.bytesAt addr len)))).run s)

/-- R314: a write through the data aperture. -/
def execHostDataWrite (addr : Nat) (bytes : List Byte) (s : State) : Host.Outcome State Fault Refusal :=
  .next ((hostAccess hbmSize addr bytes.length (.look fun s =>
    if s.reserved (wordsOf addr bytes.length) then hostRefused addr else (fill addr bytes).andThen dropIdle)).run s)

/-- R314: a write through the checked aperture. -/
def execHostCheckedWrite (addr : Nat) (bytes : List Byte) (s : State) : Host.Outcome State Fault Refusal :=
  .next ((hostAccess hbmSize addr bytes.length (.look fun s =>
    let ws := wordsOf addr bytes.length
    if s.reserved ws || ws.any fun w => s.presAt (4 * w) = .full || s.presAt (4 * w) = .err then hostRefused addr else (fill addr bytes).andThen dropIdle)).run s)

/-- The two bits of a state (09 R153). -/
def presBits : Pres → Nat
  | .empty => 0
  | .full => 1
  | .err => 2
  | .defer => 3

/-- R314: the states of the words. -/
def execHostPresenceRead (r : HostSpan) (s : State) : Host.Outcome State Fault Refusal :=
  .next ((hostAccess hbmSize r.addr r.len (.look fun s =>
    hostAnswer (some ((wordsOf r.addr r.len).flatMap fun w => leBytes 4 (presBits (s.presAt (4 * w))))))).run s)

/-- A presence write of one event (R314): each word as its value says, 0 as `clr`, 1 FULL with the bits as they are and the readers
answered, another ignored. A 1 on a reserved word refuses the whole. -/
def presenceWrite (addr : Nat) (vs : List Lane) : Act := .look fun s =>
  let ws := (wordsOf addr (4 * vs.length)).zip vs
  if s.reserved ((ws.filter fun x => x.2 == 1).map Prod.fst) then hostRefused addr
  else
    Act.each ws fun (w, v) => .look fun s =>
      if v = 0 then clearWords (4 * w) 4
      else if v = 1 then (setPres [w] .full).andThen (if s.presAt (4 * w) = .defer then answerReaders [w] else .quiet)
      else .quiet

/-- R314: a presence write that sets no word. -/
def execHostPresenceClear (w : PresenceWrite) (s : State) : Host.Outcome State Fault Refusal :=
  .next ((hostAccess hbmSize w.addr (4 * w.states.length) (Act.when (!w.states.contains 1) (presenceWrite w.addr w.states))).run s)

/-- R314: a presence write that sets words FULL. -/
def execHostPresenceSet (w : PresenceWrite) (s : State) : Host.Outcome State Fault Refusal :=
  .next ((hostAccess hbmSize w.addr (4 * w.states.length) (Act.when (w.states.contains 1) (presenceWrite w.addr w.states))).run s)

/-- R314: host memory written, its words FULL in the host presence table and their readers answered, as one event. -/
def execHostPublishWrite (haddr : Nat) (bytes : List Byte) (s : State) : Host.Outcome State Fault Refusal :=
  .next ((hostAccess (2 ^ 34) haddr bytes.length (fill (hostAddr haddr) bytes)).run s)

/-! ## CXL links (R312) -/

/-- R312: a port's link goes down: pending loads receive poison, one record goes to colour 0's area; what arrives from now on is
handled alike (Home.cxlLost). -/
def execCxlLinkDown (s : State) : Host.Outcome State Fault Refusal :=
  .next ((Act.look fun s =>
    let port := s.m.at_.port
    let u := 41000 + port
    if s.m.pkg.cxlDown.contains port || 4 ≤ port then .quiet
    else Act.seq [
      .pkg fun p => { p with cxlDown := port :: p.cxlDown },
      setPool u [],
      Act.each (s.pool u) fun e => answer u e.req.who e.req.piece .poison,
      recordIn 0 { Record.blank with code := Code.cxlLink } ]).run s)

/-- R312: the management core has trained the port again. -/
def execCxlLinkTrained (s : State) : Host.Outcome State Fault Refusal :=
  .next ((Act.pkg fun p => { p with cxlDown := p.cxlDown.filter (· ≠ s.m.at_.port) }).run s)

/-! ## Memory care, power and heat (R324, R325) -/

/-- R324: a line is read and corrected; one that cannot be corrected stays damaged. -/
def execHbmScrub (line : Nat) (s : State) : Host.Outcome State Fault Refusal :=
  .next ((Act.when (128 * line < hbmSize) (checked (128 * line) 128)).run s)

/-- R325: a cluster's clock is stretched until the supply recovers. -/
def execDroopStretch (s : State) : Host.Outcome State Fault Refusal :=
  .next ((modCluster s.m.at_.cluster fun k => { k with stretched := true }).run s)

/-- R325: the supply has recovered. -/
def execSupplyRecovered (s : State) : Host.Outcome State Fault Refusal :=
  .next ((modCluster s.m.at_.cluster fun k => { k with stretched := false }).run s)

/-- R325: the package clock is lowered by steps of 100 MHz. -/
def execPowerLimit (steps : Nat) (s : State) : Host.Outcome State Fault Refusal :=
  .next ((Act.pkg fun p => { p with clockSteps := p.clockSteps + steps }).run s)

/-- R325: a die at 105 °C is throttled. -/
def execThermalThrottle (s : State) : Host.Outcome State Fault Refusal :=
  .next ((Act.when (s.m.at_.die < 8) (.pkg fun p => { p with throttled := s.m.at_.die :: p.throttled.filter (· ≠ s.m.at_.die) })).run s)

/-- R325: at 115 °C the die's clocks stop, with a record in colour 0's area. -/
def execThermalStop (s : State) : Host.Outcome State Fault Refusal :=
  .next ((Act.look fun s =>
    let die := s.m.at_.die
    if s.m.pkg.stopped.contains die || 8 ≤ die then .quiet
    else (Act.pkg fun p => { p with stopped := die :: p.stopped }).andThen
      (recordIn 0 { Record.blank with code := Code.thermal, site := siteId die 0 0 })).run s)

end Sys2Proof.Machine
end

