-- ==== Sys2Proof/Machine/Dispatch.lean ====
section
/-! DEFINITION. exec: one arm per constructor of Instr, each one call of its meaning. -/

namespace Sys2Proof.Machine

def exec (i : Instr) (s : State) : Host.Outcome State Fault Refusal :=
  match i with
  | .nop a => Sys2Proof.Machine.execNop a s
  | .bro a => Sys2Proof.Machine.execBro a s
  | .brp a => Sys2Proof.Machine.execBrp a s
  | .bri a => Sys2Proof.Machine.execBri a s
  | .spawn a => Sys2Proof.Machine.execSpawn a s
  | .ret a => Sys2Proof.Machine.execRet a s
  | .retire a => Sys2Proof.Machine.execRetire a s
  | .ctxa a => Sys2Proof.Machine.execCtxa a s
  | .ctxf a => Sys2Proof.Machine.execCtxf a s
  | .ctxq a => Sys2Proof.Machine.execCtxq a s
  | .pack a => Sys2Proof.Machine.execPack a s
  | .unpack a => Sys2Proof.Machine.execUnpack a s
  | .mov a => Sys2Proof.Machine.execMov a s
  | .ldf a => Sys2Proof.Machine.execLdf a s
  | .send a => Sys2Proof.Machine.execSend a s
  | .steer a => Sys2Proof.Machine.execSteer a s
  | .merge a => Sys2Proof.Machine.execMerge a s
  | .gate a => Sys2Proof.Machine.execGate a s
  | .drop a => Sys2Proof.Machine.execDrop a s
  | .eos a => Sys2Proof.Machine.execEos a s
  | .stop a => Sys2Proof.Machine.execStop a s
  | .stopc a => Sys2Proof.Machine.execStopc a s
  | .dmd a => Sys2Proof.Machine.execDmd a s
  | .cvt a => Sys2Proof.Machine.execCvt a s
  | .cvts a => Sys2Proof.Machine.execCvts a s
  | .bcast a => Sys2Proof.Machine.execBcast a s
  | .shuf a => Sys2Proof.Machine.execShuf a s
  | .lrot a => Sys2Proof.Machine.execLrot a s
  | .redadd a => Sys2Proof.Machine.execRedadd a s
  | .redmax a => Sys2Proof.Machine.execRedmax a s
  | .redmin a => Sys2Proof.Machine.execRedmin a s
  | .scanadd a => Sys2Proof.Machine.execScanadd a s
  | .lidx a => Sys2Proof.Machine.execLidx a s
  | .lmask a => Sys2Proof.Machine.execLmask a s
  | .lcomp a => Sys2Proof.Machine.execLcomp a s
  | .add a => Sys2Proof.Machine.execAdd a s
  | .sub a => Sys2Proof.Machine.execSub a s
  | .mul a => Sys2Proof.Machine.execMul a s
  | .mulhi a => Sys2Proof.Machine.execMulhi a s
  | .mulhn a => Sys2Proof.Machine.execMulhn a s
  | .mad a => Sys2Proof.Machine.execMad a s
  | .div a => Sys2Proof.Machine.execDiv a s
  | .divn a => Sys2Proof.Machine.execDivn a s
  | .rem a => Sys2Proof.Machine.execRem a s
  | .remn a => Sys2Proof.Machine.execRemn a s
  | .and a => Sys2Proof.Machine.execAnd a s
  | .or a => Sys2Proof.Machine.execOr a s
  | .xor a => Sys2Proof.Machine.execXor a s
  | .andn a => Sys2Proof.Machine.execAndn a s
  | .not a => Sys2Proof.Machine.execNot a s
  | .shl a => Sys2Proof.Machine.execShl a s
  | .shr a => Sys2Proof.Machine.execShr a s
  | .sar a => Sys2Proof.Machine.execSar a s
  | .rol a => Sys2Proof.Machine.execRol a s
  | .ror a => Sys2Proof.Machine.execRor a s
  | .min a => Sys2Proof.Machine.execMin a s
  | .max a => Sys2Proof.Machine.execMax a s
  | .minn a => Sys2Proof.Machine.execMinn a s
  | .maxn a => Sys2Proof.Machine.execMaxn a s
  | .abs a => Sys2Proof.Machine.execAbs a s
  | .neg a => Sys2Proof.Machine.execNeg a s
  | .clz a => Sys2Proof.Machine.execClz a s
  | .ctz a => Sys2Proof.Machine.execCtz a s
  | .popc a => Sys2Proof.Machine.execPopc a s
  | .bfx a => Sys2Proof.Machine.execBfx a s
  | .bfi a => Sys2Proof.Machine.execBfi a s
  | .sel a => Sys2Proof.Machine.execSel a s
  | .cmp a => Sys2Proof.Machine.execCmp a s
  | .imm a => Sys2Proof.Machine.execImm a s
  | .lea a => Sys2Proof.Machine.execLea a s
  | .sadd a => Sys2Proof.Machine.execSadd a s
  | .ssub a => Sys2Proof.Machine.execSsub a s
  | .dot2i a => Sys2Proof.Machine.execDot2i a s
  | .dot4i a => Sys2Proof.Machine.execDot4i a s
  | .fadd a => Sys2Proof.Machine.execFadd a s
  | .fsub a => Sys2Proof.Machine.execFsub a s
  | .fmul a => Sys2Proof.Machine.execFmul a s
  | .ffma a => Sys2Proof.Machine.execFfma a s
  | .fmin a => Sys2Proof.Machine.execFmin a s
  | .fmax a => Sys2Proof.Machine.execFmax a s
  | .fabs a => Sys2Proof.Machine.execFabs a s
  | .fneg a => Sys2Proof.Machine.execFneg a s
  | .fcmp a => Sys2Proof.Machine.execFcmp a s
  | .fclass a => Sys2Proof.Machine.execFclass a s
  | .frcp a => Sys2Proof.Machine.execFrcp a s
  | .frsq a => Sys2Proof.Machine.execFrsq a s
  | .fsqrt a => Sys2Proof.Machine.execFsqrt a s
  | .fexp2 a => Sys2Proof.Machine.execFexp2 a s
  | .flog2 a => Sys2Proof.Machine.execFlog2 a s
  | .ftanh a => Sys2Proof.Machine.execFtanh a s
  | .fsig a => Sys2Proof.Machine.execFsig a s
  | .fsin a => Sys2Proof.Machine.execFsin a s
  | .fcos a => Sys2Proof.Machine.execFcos a s
  | .ferf a => Sys2Proof.Machine.execFerf a s
  | .fround a => Sys2Proof.Machine.execFround a s
  | .fdot2 a => Sys2Proof.Machine.execFdot2 a s
  | .fdot4 a => Sys2Proof.Machine.execFdot4 a s
  | .capnNew a => Sys2Proof.Machine.execCapnNew a s
  | .capnAdopt a => Sys2Proof.Machine.execCapnAdopt a s
  | .capgo a => Sys2Proof.Machine.execCapgo a s
  | .capnxIndex a => Sys2Proof.Machine.execCapnxIndex a s
  | .capnxOperand a => Sys2Proof.Machine.execCapnxOperand a s
  | .cappush a => Sys2Proof.Machine.execCappush a s
  | .capins a => Sys2Proof.Machine.execCapins a s
  | .caprepWhole a => Sys2Proof.Machine.execCaprepWhole a s
  | .caprepPlace a => Sys2Proof.Machine.execCaprepPlace a s
  | .capdel a => Sys2Proof.Machine.execCapdel a s
  | .capfork a => Sys2Proof.Machine.execCapfork a s
  | .capjoin a => Sys2Proof.Machine.execCapjoin a s
  | .cappark a => Sys2Proof.Machine.execCappark a s
  | .capld a => Sys2Proof.Machine.execCapld a s
  | .capst a => Sys2Proof.Machine.execCapst a s
  | .caphdWord a => Sys2Proof.Machine.execCaphdWord a s
  | .caphdEntry a => Sys2Proof.Machine.execCaphdEntry a s
  | .caphdArg a => Sys2Proof.Machine.execCaphdArg a s
  | .ld a => Sys2Proof.Machine.execLd a s
  | .ldLnk a => Sys2Proof.Machine.execLdLnk a s
  | .st a => Sys2Proof.Machine.execSt a s
  | .ldp a => Sys2Proof.Machine.execLdp a s
  | .clr a => Sys2Proof.Machine.execClr a s
  | .aadd a => Sys2Proof.Machine.execAadd a s
  | .amin a => Sys2Proof.Machine.execAmin a s
  | .amax a => Sys2Proof.Machine.execAmax a s
  | .aminn a => Sys2Proof.Machine.execAminn a s
  | .amaxn a => Sys2Proof.Machine.execAmaxn a s
  | .aand a => Sys2Proof.Machine.execAand a s
  | .aor a => Sys2Proof.Machine.execAor a s
  | .axor a => Sys2Proof.Machine.execAxor a s
  | .aswp a => Sys2Proof.Machine.execAswp a s
  | .acas a => Sys2Proof.Machine.execAcas a s
  | .afadd a => Sys2Proof.Machine.execAfadd a s
  | .vcset a => Sys2Proof.Machine.execVcset a s
  | .vcget a => Sys2Proof.Machine.execVcget a s
  | .sclset a => Sys2Proof.Machine.execSclset a s
  | .dec a => Sys2Proof.Machine.execDec a s
  | .enc a => Sys2Proof.Machine.execEnc a s
  | .fence a => Sys2Proof.Machine.execFence a s
  | .tlook a => Sys2Proof.Machine.execTlook a s
  | .tins a => Sys2Proof.Machine.execTins a s
  | .tinv a => Sys2Proof.Machine.execTinv a s
  | .tsetEmpty a => Sys2Proof.Machine.execTsetEmpty a s
  | .tsetReady a => Sys2Proof.Machine.execTsetReady a s
  | .tsetBind a => Sys2Proof.Machine.execTsetBind a s
  | .tsetFree a => Sys2Proof.Machine.execTsetFree a s
  | .twait a => Sys2Proof.Machine.execTwait a s
  | .mxb a => Sys2Proof.Machine.execMxb a s
  | .mxz a => Sys2Proof.Machine.execMxz a s
  | .mxr a => Sys2Proof.Machine.execMxr a s
  | .mxck a => Sys2Proof.Machine.execMxck a s
  | .isect a => Sys2Proof.Machine.execIsect a s
  | .union a => Sys2Proof.Machine.execUnion a s
  | .spacc a => Sys2Proof.Machine.execSpacc a s
  | .spdr a => Sys2Proof.Machine.execSpdr a s
  | .binit a => Sys2Proof.Machine.execBinit a s
  | .bjoin a => Sys2Proof.Machine.execBjoin a s
  | .barv a => Sys2Proof.Machine.execBarv a s
  | .bwait a => Sys2Proof.Machine.execBwait a s
  | .bleave a => Sys2Proof.Machine.execBleave a s
  | .cpy a => Sys2Proof.Machine.execCpy a s
  | .gath a => Sys2Proof.Machine.execGath a s
  | .scat a => Sys2Proof.Machine.execScat a s
  | .tfill a => Sys2Proof.Machine.execTfill a s
  | .tdrain a => Sys2Proof.Machine.execTdrain a s
  | .xfence a => Sys2Proof.Machine.execXfence a s
  | .trap a => Sys2Proof.Machine.execTrap a s
  | .sysr a => Sys2Proof.Machine.execSysr a s
  | .syswPinv a => Sys2Proof.Machine.execSyswPinv a s
  | .syswXinv a => Sys2Proof.Machine.execSyswXinv a s
  | .syswPreempt a => Sys2Proof.Machine.execSyswPreempt a s
  | .fltr a => Sys2Proof.Machine.execFltr a s
  | .resume a => Sys2Proof.Machine.execResume a s
  | .plook a => Sys2Proof.Machine.execPlook a s
  | .cntr a => Sys2Proof.Machine.execCntr a s
  | .yield a => Sys2Proof.Machine.execYield a s
  | .sealo a => Sys2Proof.Machine.execSealo a s
  | .sealc a => Sys2Proof.Machine.execSealc a s
  | .seals a => Sys2Proof.Machine.execSeals a s
  | .collAllReduce a => Sys2Proof.Machine.execCollAllReduce a s
  | .collReduceScatter a => Sys2Proof.Machine.execCollReduceScatter a s
  | .collAllGather a => Sys2Proof.Machine.execCollAllGather a s
  | .collBroadcast a => Sys2Proof.Machine.execCollBroadcast a s
  | .lnkr a => Sys2Proof.Machine.execLnkr a s
  | .trgen a => Sys2Proof.Machine.execTrgen a s
  | .collab a => Sys2Proof.Machine.execCollab a s
  | .pkNop a => Sys2Proof.Machine.execPkNop a s
  | .pkLink a => Sys2Proof.Machine.execPkLink a s
  | .pkCfg a => Sys2Proof.Machine.execPkCfg a s
  | .pkLaunch a => Sys2Proof.Machine.execPkLaunch a s
  | .pkSeed a => Sys2Proof.Machine.execPkSeed a s
  | .pkIb a => Sys2Proof.Machine.execPkIb a s
  | .pkIbend a => Sys2Proof.Machine.execPkIbend a s
  | .pkPred a => Sys2Proof.Machine.execPkPred a s
  | .pkLoopOpen a => Sys2Proof.Machine.execPkLoopOpen a s
  | .pkLoopClose a => Sys2Proof.Machine.execPkLoopClose a s
  | .pkFfence a => Sys2Proof.Machine.execPkFfence a s
  | .pkWait a => Sys2Proof.Machine.execPkWait a s
  | .pkWrite a => Sys2Proof.Machine.execPkWrite a s
  | .pkSignal a => Sys2Proof.Machine.execPkSignal a s
  | .pkPri a => Sys2Proof.Machine.execPkPri a s
  | .pkColour a => Sys2Proof.Machine.execPkColour a s
  | .pkPin a => Sys2Proof.Machine.execPkPin a s
  | .pkUnpin a => Sys2Proof.Machine.execPkUnpin a s
  | .pkTeardown a => Sys2Proof.Machine.execPkTeardown a s
  | .tokenHop a => Sys2Proof.Machine.execTokenHop a s
  | .configWave a b => Sys2Proof.Machine.execConfigWave a b s
  | .partialReconfig a => Sys2Proof.Machine.execPartialReconfig a s
  | .qdoor a => Sys2Proof.Machine.execQdoor a s
  | .qtabWrite a => Sys2Proof.Machine.execQtabWrite a s
  | .mgmtRegisterWrite a b => Sys2Proof.Machine.execMgmtRegisterWrite a b s
  | .hostDataRead a b => Sys2Proof.Machine.execHostDataRead a b s
  | .hostDataWrite a b => Sys2Proof.Machine.execHostDataWrite a b s
  | .hostCheckedWrite a b => Sys2Proof.Machine.execHostCheckedWrite a b s
  | .hostPresenceRead a => Sys2Proof.Machine.execHostPresenceRead a s
  | .hostPresenceClear a => Sys2Proof.Machine.execHostPresenceClear a s
  | .hostPresenceSet a => Sys2Proof.Machine.execHostPresenceSet a s
  | .hostPublishWrite a b => Sys2Proof.Machine.execHostPublishWrite a b s
  | .hbmScrub a => Sys2Proof.Machine.execHbmScrub a s
  | .powerLimit a => Sys2Proof.Machine.execPowerLimit a s
  | .lltFlood a => Sys2Proof.Machine.execLltFlood a s
  | .lltAck a b c => Sys2Proof.Machine.execLltAck a b c s
  | .collMarkExchange a b => Sys2Proof.Machine.execCollMarkExchange a b s
  | .collChunkUp a b c => Sys2Proof.Machine.execCollChunkUp a b c s
  | .collChunkDown a b => Sys2Proof.Machine.execCollChunkDown a b s
  | .collDstAck a b => Sys2Proof.Machine.execCollDstAck a b s
  | .collAbortMessage a b => Sys2Proof.Machine.execCollAbortMessage a b s
  | .fbBarrierEvent a => Sys2Proof.Machine.execFbBarrierEvent a s
  | .linkUp a b c => Sys2Proof.Machine.execLinkUp a b c s
  | .tokenArrive => Sys2Proof.Machine.execTokenArrive s
  | .channelTokenArrive => Sys2Proof.Machine.execChannelTokenArrive s
  | .tokenReplay => Sys2Proof.Machine.execTokenReplay s
  | .eosToken => Sys2Proof.Machine.execEosToken s
  | .demandToken => Sys2Proof.Machine.execDemandToken s
  | .wedgeToken => Sys2Proof.Machine.execWedgeToken s
  | .nodeWedgeFreeze => Sys2Proof.Machine.execNodeWedgeFreeze s
  | .windowAllocate => Sys2Proof.Machine.execWindowAllocate s
  | .blockCommit => Sys2Proof.Machine.execBlockCommit s
  | .waveWithdraw => Sys2Proof.Machine.execWaveWithdraw s
  | .nodeEosSend => Sys2Proof.Machine.execNodeEosSend s
  | .spawnCreate => Sys2Proof.Machine.execSpawnCreate s
  | .colourAdmit => Sys2Proof.Machine.execColourAdmit s
  | .colourEvict => Sys2Proof.Machine.execColourEvict s
  | .homeLoad => Sys2Proof.Machine.execHomeLoad s
  | .loadReplay => Sys2Proof.Machine.execLoadReplay s
  | .homeStore => Sys2Proof.Machine.execHomeStore s
  | .homeClr => Sys2Proof.Machine.execHomeClr s
  | .homeAtomic => Sys2Proof.Machine.execHomeAtomic s
  | .homeReservation => Sys2Proof.Machine.execHomeReservation s
  | .splitPieceIssue => Sys2Proof.Machine.execSplitPieceIssue s
  | .rmwUpdate => Sys2Proof.Machine.execRmwUpdate s
  | .capsuleLand => Sys2Proof.Machine.execCapsuleLand s
  | .capsuleBufferGrant => Sys2Proof.Machine.execCapsuleBufferGrant s
  | .tilePortEvent => Sys2Proof.Machine.execTilePortEvent s
  | .tileFillComplete => Sys2Proof.Machine.execTileFillComplete s
  | .tileDrainComplete => Sys2Proof.Machine.execTileDrainComplete s
  | .tagUnitEvent => Sys2Proof.Machine.execTagUnitEvent s
  | .barrierEvent => Sys2Proof.Machine.execBarrierEvent s
  | .islandRow => Sys2Proof.Machine.execIslandRow s
  | .islandCommand => Sys2Proof.Machine.execIslandCommand s
  | .mxrRelease => Sys2Proof.Machine.execMxrRelease s
  | .cturnToken => Sys2Proof.Machine.execCturnToken s
  | .reorderToken => Sys2Proof.Machine.execReorderToken s
  | .isectElement => Sys2Proof.Machine.execIsectElement s
  | .unionElement => Sys2Proof.Machine.execUnionElement s
  | .spaccElement => Sys2Proof.Machine.execSpaccElement s
  | .dynControlRelease => Sys2Proof.Machine.execDynControlRelease s
  | .reductionMerge => Sys2Proof.Machine.execReductionMerge s
  | .configComplete => Sys2Proof.Machine.execConfigComplete s
  | .seedEnter => Sys2Proof.Machine.execSeedEnter s
  | .exitPortToken => Sys2Proof.Machine.execExitPortToken s
  | .reinjectRequest => Sys2Proof.Machine.execReinjectRequest s
  | .walkComplete => Sys2Proof.Machine.execWalkComplete s
  | .placeInvalidationComplete => Sys2Proof.Machine.execPlaceInvalidationComplete s
  | .xlateInvalidationComplete => Sys2Proof.Machine.execXlateInvalidationComplete s
  | .hoistRound => Sys2Proof.Machine.execHoistRound s
  | .queueUnblock => Sys2Proof.Machine.execQueueUnblock s
  | .arbiterRound => Sys2Proof.Machine.execArbiterRound s
  | .gatingComplete => Sys2Proof.Machine.execGatingComplete s
  | .wedgingComplete => Sys2Proof.Machine.execWedgingComplete s
  | .hardFreeze => Sys2Proof.Machine.execHardFreeze s
  | .settlingComplete => Sys2Proof.Machine.execSettlingComplete s
  | .savingComplete => Sys2Proof.Machine.execSavingComplete s
  | .restoreComplete => Sys2Proof.Machine.execRestoreComplete s
  | .streamerExecute => Sys2Proof.Machine.execStreamerExecute s
  | .streamerComplete => Sys2Proof.Machine.execStreamerComplete s
  | .powerOn => Sys2Proof.Machine.execPowerOn s
  | .startCold => Sys2Proof.Machine.execStartCold s
  | .startWarm => Sys2Proof.Machine.execStartWarm s
  | .vdcmdBind => Sys2Proof.Machine.execVdcmdBind s
  | .vdcmdRelease => Sys2Proof.Machine.execVdcmdRelease s
  | .cxlLinkDown => Sys2Proof.Machine.execCxlLinkDown s
  | .sealElementToken => Sys2Proof.Machine.execSealElementToken s
  | .voterToken => Sys2Proof.Machine.execVoterToken s
  | .voterTimeout => Sys2Proof.Machine.execVoterTimeout s
  | .droopStretch => Sys2Proof.Machine.execDroopStretch s
  | .thermalThrottle => Sys2Proof.Machine.execThermalThrottle s
  | .thermalStop => Sys2Proof.Machine.execThermalStop s
  | .laneFail => Sys2Proof.Machine.execLaneFail s
  | .linkDown => Sys2Proof.Machine.execLinkDown s
  | .seamDegraded => Sys2Proof.Machine.execSeamDegraded s
  | .seamDown => Sys2Proof.Machine.execSeamDown s
  | .collAdmit => Sys2Proof.Machine.execCollAdmit s
  | .collChunkCommit a => Sys2Proof.Machine.execCollChunkCommit a s
  | .collComplete => Sys2Proof.Machine.execCollComplete s
  | .acknowledgement => Sys2Proof.Machine.execAcknowledgement s
  | .seamTrained => Sys2Proof.Machine.execSeamTrained s
  | .cxlLinkTrained => Sys2Proof.Machine.execCxlLinkTrained s
  | .supplyRecovered => Sys2Proof.Machine.execSupplyRecovered s
  | .hostReceiverReady => Sys2Proof.Machine.execHostReceiverReady s

end Sys2Proof.Machine
end

