-- ==== Sys2Proof/Machine/Fetch.lean ====
section
/-! DEFINITION. A place where the machine fetches one given instruction or packet next: a slot of a block store, or the head of a
mapped queue (spec 02 R37, R60; log 35). -/

namespace Sys2Proof.Machine

/-- Whether an instruction is an event of the part: it has no word and is no packet. -/
def isEvent (i : Instr) : Bool := i.opForm.isNone && i.popForm.isNone

/-- The word's issue class, and the chain position that its SQP asks for (01 R26, 09 R166). -/
def wordClass (w : Word) : Bool × BitVec 5 :=
  match decodeWord w with
  | .error _ => (true, 0)
  | .ok i =>
    match i.opForm with
    | none => (true, 0)
    | some (o, f) => (!isVectorOp o.toNat, match f with
      | .m g => g.sqp
      | _ => 0)

/-- A node that admits any instruction: full width, frame and colours, an island, one block. -/
def bareNode (cfg : Nat) (w : Word) : NodeState where
  cfg := cfg
  info := ⟨0, 32, 128, 1, BitVec.allOnes 256, some 0, [], [], some 0, false, none⟩
  blocks := [(0, ⟨0, 0, [w]⟩)]
  chans := []
  ports := []
  opened := 0
  ended := 0
  eosDone := 0
  wedges := []
  frozen := false
  admitting := true
  hurt := []

/-- A data token of zeros. -/
def zeroTok : Token := mkTok 0 .data 0 (List.replicate 32 0)

/-- A wave whose only slot has every field present. -/
def bareWave (own : BitVec 5) : Wave where
  idx := 0
  block := 0
  slots := [⟨some zeroTok, some zeroTok, some zeroTok, true, true, true, false⟩]
  exit := none
  exitsNull := 0
  stores := 0
  outputs := 0
  own := own
  succ := 0
  memDone := 0
  acts := []
  bound := []
  chans := []
  framed := true
  pend := []
  outside := true
  fault := false
  skip := none
  order := 0
  buffer := false
  run := 0

/-- An activation of colour 0 at frame 0 with that wave. -/
def bareAct (cfg : Nat) (own : BitVec 5) : Activation where
  colour := 0
  frame := 0
  uid := 0
  width := 32
  node := 0
  cfg := cfg
  kind := .explicit
  slots := []
  seq := 0
  reply := none
  next := .unknown
  count := 1
  waves := [bareWave own]
  unacked := 0
  answers := []
  cmdsOut := []
  fault := none
  held := none
  after := []
  enrol := []
  owed := []
  tagged := []
  spilled := false
  ending := false

/-- Core 0 with a node whose block store holds a word, and an activation in which its slot may fire. -/
def placeWord (w : Word) (m : Machine) : Machine :=
  let (memory, own) := wordClass w
  { m with
    agenda := [.issue 0 memory]
    cores := tput m.cores 0 { m.core 0 with
      nodes := [(0, bareNode (2 ^ 20) w)], acts := [(0, bareAct (2 ^ 20) own)], nextUid := 1, nextOrder := 1, occupants := [0] }
    pkg := { m.pkg with stopped := m.pkg.stopped.filter (· ≠ 0) } }

/-- Queue 0 alone, mapped at address 0, with a packet's words fetched. -/
def placePacket (ws : List Lane) (m : Machine) : Machine :=
  let d : QDesc := ⟨0, 0, 0, 0, 0, qMapped, 0, [0, 0, 0, 0], 0, 0⟩
  { m with
    agenda := [.packet 0]
    pkg := { m.pkg with stopped := m.pkg.stopped.filter (· ≠ 0), queues := [(0, { QState.fresh d 0 with
      mapped := true, fetched := (upFrom ws.length 0).map fun i => (4 * i, ws.getD i 0) })] } }

/-- The words of the packet that bits numbered as the opcode table numbers them begin: those that its PLEN counts. -/
def tablePacket (nbits w : Nat) : List Lane :=
  let v := w % 2 ^ nbits
  splitWords (1 + bits v 16 8) v

end Sys2Proof.Machine
end

