-- ==== Sys2Proof/Machine/Outside.lean ====
section
/-! DEFINITION. What comes from outside the part (log 50): soft errors in its memories (spec 02 R59, 09 R173, 12 R205, R215, 19 R312,
R324), the host's own memory, and its reading of the management page (19 R313, R314, R327). -/

namespace Sys2Proof.Machine

/-! ## Soft errors -/

/-- An operand that meets an error: poison where it cannot be corrected (09 R173). -/
def struckTok (unc : Bool) (t : Token) : Token := if unc then { t with kind := .poison } else t

/-- A field of a slot under an error. -/
def Slot.struck (v : Slot) (f : Field) (unc : Bool) : Slot :=
  match f with
  | .l => { v with l := v.l.map (struckTok unc) }
  | .r => { v with r := v.r.map (struckTok unc) }
  | .p => { v with p := v.p.map (struckTok unc) }

/-- A word of memory met an error (R173, R324): beyond correction too where its check covers another word so struck, or where a word that has a
check of its own is struck again. -/
def wordStruck (w : Nat) (unc : Bool) : Act := .look fun s =>
  let again := s.m.pkg.damage.any fun (v, u) => underCheck (4 * w) 4 v && (u || v != w || decide (2 ^ 56 ≤ 4 * w))
  .pkg fun p => { p with damage := p.damage.filter (·.1 ≠ w) ++ [(w, unc || again)] }

/-- A queued token of a channel, or its held scale token. -/
def ChanState.struck (x : ChanState) (k : Option Nat) (unc : Bool) : ChanState :=
  match k with
  | none => { x with hold := x.hold.map (struckTok unc) }
  | some k => { x with queue := (x.queue.zip (upFrom x.queue.length 0)).map fun (t, i) => if i = k then struckTok unc t else t }

/-- A matching-store line of a core met an error: what it holds, and the count. -/
def lineStruck (core : Nat) (unc : Bool) (act : Act) : Act := act.andThen (countErr (siteDie core) unc)

/-- An accumulator row of an island met an error: its row group's rows are marked where it cannot be corrected (12 R215). -/
def accumStruck (id row : Nat) (unc : Bool) : Act := .look fun s =>
  match s.island? id with
  | none => .quiet
  | some i =>
    (Act.when unc (modIsland id fun i => { i with poison := i.poison ||| rowMask ((upFrom 8 (row / 8 * 8)).filter (· < i.m)) })).andThen
      (countErr (siteDie i.node.1) unc)

/-- Sum S_g[n] of row k of the row group at work. -/
def SumRow.disturbed (r : SumRow) (g n : Nat) (v : FVal) : SumRow :=
  { r with sums := setAt r.sums g (setAt (r.sums.getD g []) n (.exact v)) }

/-! ## The management page (R327) -/

/-- The register at an offset, as a read gives it; VDENT shows the entry as the table holds it. -/
def State.pageReg (s : State) (off : Nat) : Nat :=
  let m := s.m.pkg.mgmt
  match off with
  | 0x000 => (if m.warm then 4 else 0) + m.phase.toNat
  | 0x040 | 0x048 | 0x050 | 0x058 | 0x060 | 0x068 => bits m.meas.toNat ((off - 0x040) * 8) 64
  | 0x080 => m.vdsel.toNat
  | 0x088 => m.vdcmd.toNat
  | 0x0A0 | 0x0A8 | 0x0B0 | 0x0B8 => s.vdevWord m.vdsel.toNat ((off - 0x0A0) / 8)
  | 0x0C0 => m.qtab
  | 0x0C8 => m.c0root
  | 0x0D0 => m.c0farea
  | 0x0D8 => m.c0nrec
  | 0x0E0 => m.c0spoil.toNat
  | 0x0F0 => m.c0ptab
  | _ => 0

/-- The bytes of the page from an offset on. -/
def State.pageBytes (s : State) (off n : Nat) : List Byte :=
  (upFrom n off).map fun a => BitVec.ofNat 8 (s.pageReg (a / 8 * 8) / 2 ^ (8 * (a % 8)))

/-! ## What happens -/

/-- An input from outside. -/
def outsideAct : Outside → Act
  | .word w unc => wordStruck w unc
  | .code core node b slot unc => modNode core node fun n => { n with hurt := n.hurt ++ [(b, slot, unc)] }
  | .operand core frame wave slot f unc => lineStruck core unc (modWave core frame wave fun w => { w with
      slots := setAt w.slots slot ((w.slots.getD slot Slot.empty).struck f unc) })
  | .frameSlot core frame n unc => lineStruck core unc (modAct core frame fun a => { a with
      slots := match tget? a.slots n with
        | some t => tput a.slots n (struckTok unc t)
        | none => a.slots })
  | .buffer core frame word unc => lineStruck core unc (modAct core frame fun a => { a with
      held := a.held.map fun h => if unc && 8 * word < h.cap.tile.length && !h.cap.hurt.contains word
        then { h with cap := { h.cap with hurt := word :: h.cap.hurt } } else h })
  | .waiting core frame k unc => lineStruck core unc (modAct core frame fun a => { a with
      tagged := (a.tagged.zip (upFrom a.tagged.length 0)).map fun (x, i) => if i = k then (x.1, struckTok unc x.2) else x })
  | .queued core node chan c k unc => lineStruck core unc (modNode core node fun n => n.setChan chan c ((n.chan chan c).struck k unc))
  | .tag cluster entry unc => modCluster cluster fun k => { k with tagHurt := k.tagHurt ++ [(entry, unc)] }
  | .accum id row unc => accumStruck id row unc
  | .sum id k g n v => modIsland id fun i =>
      { i with group := (i.group.zip (upFrom i.group.length 0)).map fun (r, j) => if j = k then r.disturbed g n v else r }
  | .hostOwn h bs => writeBytes (hostAddr h) bs
  | .page off n => .look fun s => hostAnswer (if hostForm (2 ^ 16) off n then some (s.pageBytes off n) else none)

end Sys2Proof.Machine
end

