-- ==== Sys2Proof/Machine/Step.lean ====
section
/-! DEFINITION. One step: the agenda's next item, an event of the part, a core's issue, a queue's packet or the fetch of a
word ahead of it, or what comes from outside (log 1). -/

namespace Sys2Proof.Machine

/-- An event happens with its indices in the latch; an instruction or a packet is none. -/
def stepEvent (i : Instr) (a : At) (s : State) : Host.Outcome State Fault Refusal :=
  if isEvent i then exec i { s with m := { s.m with at_ := a } } else .fault .notAnEvent

/-- A core issues the instruction that 09 R166 picks in a class, if any is ready (01 R21, R22), unless its word or its block's header
fails its check (02 R59). -/
def stepIssue (core : Nat) (memory : Bool) (s : State) : Host.Outcome State Fault Refusal :=
  match pick s core memory with
  | none => .next s
  | some r =>
    match (issued s core memory r).fetched with
    | .ok (i, t) => exec i t
    | .error t => .next t

/-- A mapped queue executes, or goes on with, its next packet, or its hoist fetches a word of it (21 R345, 02 R62). -/
def stepPacket (q : Nat) (s : State) : Host.Outcome State Fault Refusal :=
  match s.nextPacket q with
  | .ok (i, t) => exec i t
  | .error t => .next t

/-- One step; with an empty agenda nothing happens. -/
def step (s : State) : Host.Outcome State Fault Refusal :=
  match s.m.agenda with
  | [] => .next s
  | .event i a :: rest => stepEvent i a { s with m := { s.m with agenda := rest } }
  | .issue core memory :: rest => stepIssue core memory { s with m := { s.m with agenda := rest } }
  | .packet q :: rest => stepPacket q { s with m := { s.m with agenda := rest } }
  | .fetch q :: rest => .next ((fetchAhead q).run { s with m := { s.m with agenda := rest } })
  | .outside x :: rest => .next ((outsideAct x).run { s with m := { s.m with agenda := rest } })

/-- s with the given instruction where the next step fetches (log 35): 64 bits are a word of a block store, any other number a
packet. -/
def State.withFetchWord (s : State) (nbits w : Nat) : State :=
  { s with m := if nbits = 64 then placeWord (BitVec.ofNat 64 w) s.m else placePacket (tablePacket nbits w) s.m }

end Sys2Proof.Machine
end

