-- ==== Sys2Proof/Safety.lean ====
section
/-! DEFINITION. What the claims call a sound state and a safe run: the canonical form of memory and of the presence bits (log 4),
an agenda that names only events of the part (log 1), a run that never stops; an instruction that fires, its operands, and the
elements of its lanes as bit vectors. -/

namespace Sys2Proof.Machine

/-! ## States and runs -/

/-- Both tables are in their canonical form. -/
def State.wf (s : State) : Prop := Memory.wf s.mem = true ∧ Tab.wf Pres.full s.pres = true

/-- Every event that the agenda names is an event of the part. -/
def State.agendaOk (s : State) : Prop :=
  ∀ i a, Item.event i a ∈ s.m.agenda → isEvent i = true

/-- A run of any length from s ends in a state: it meets neither a fault nor a refusal. -/
def State.safe (s : State) : Prop := ∀ k, ∃ t, Host.Core.run Sys2Proof.core k s = .next t

/-! ## An instruction that fires (01 R20, R21) -/

/-- The predicate lets the instruction execute: PM is `always`, or P holds a token that is no error and no poison, with bit 0 of
its lane 0 as PM asks (R20, R21). -/
def Ctx.lets (x : Ctx) (f : Form) : Bool :=
  match f.common.pm, x.fields.p with
  | .always, _ => true
  | _, none => false
  | pm, some p => !p.isBad && decide ((p.lane0.getLsbD 0 = true) = (pm = .onTrue))

/-- The slot that the machine's cursor names, where its instruction i is ready, its own gate lets it go, it is not skipped by a
resumption, its predicate lets it execute, and it has the reply target that it names (02 R40). -/
def firing (i : Instr) (s : State) : Option Ctx :=
  match i.opForm, ctx? s with
  | some (o, f), some x =>
    if x.ready s o.toNat f && x.gate s o.toNat f && decide (x.w.skip ≠ some x.slot) && x.lets f && !x.lacksReply f.common then some x
    else none
  | _, _ => none

/-- What an act leaves, once the slot's fields have been read and the slot is done. -/
def Ctx.after (x : Ctx) (s : State) (a : Act) : State := a.run (x.consume.run s)

/-! ## Operands -/

/-- A data token of the context's width with the given lanes (R21: the operands that reach `execute`). -/
def Ctx.dataTok (x : Ctx) (t : Token) (ls : List Lane) : Prop :=
  t.kind = .data ∧ t.lanes = ls ∧ ls.length = x.width

/-- Field L holds data. -/
def Ctx.dataL (x : Ctx) (a : List Lane) : Prop := ∃ t, x.fields.l = some t ∧ x.dataTok t a

/-- Field R holds data. -/
def Ctx.dataR (x : Ctx) (b : List Lane) : Prop := ∃ t, x.fields.r = some t ∧ x.dataTok t b

/-- The second operand of a body A instruction: the immediate, field R unused, or field R's data (R44, R103). -/
def Ctx.dataB (x : Ctx) (f : FormA) (b : List Lane) : Prop :=
  (f.immf = true ∧ x.fields.r = none ∧ b = immLanes f.ty.toNat f.imm x.width) ∨ (f.immf = false ∧ x.dataR b)

/-- Frame slot n holds data of the context's width, as the last committed wave left it (R104). -/
def Ctx.dataC (x : Ctx) (n : Nat) (c : List Lane) : Prop := x.dataTok (x.a.slotTok n) c

/-! ## Elements as bit vectors (03 R63) -/

/-- The elements of a type in lanes, each as a bit vector. -/
def bvElems (ty : Nat) (ls : List Lane) : List (BitVec (eltBits ty)) := (elems ty ls).map (BitVec.ofNat (eltBits ty))

/-- Lanes that hold bit vectors as their elements. -/
def bvLanes (ty : Nat) (xs : List (BitVec (eltBits ty))) : List Lane := ofElems ty (xs.map BitVec.toNat)

/-- An operation element by element, on one, two or three operands. -/
def onElems1 (ty : Nat) (g : BitVec (eltBits ty) → BitVec (eltBits ty)) (a : List Lane) : List Lane :=
  bvLanes ty ((bvElems ty a).map g)

def onElems2 (ty : Nat) (g : BitVec (eltBits ty) → BitVec (eltBits ty) → BitVec (eltBits ty)) (a b : List Lane) : List Lane :=
  bvLanes ty (List.zipWith g (bvElems ty a) (bvElems ty b))

def onElems3 (ty : Nat) (g : BitVec (eltBits ty) → BitVec (eltBits ty) → BitVec (eltBits ty) → BitVec (eltBits ty))
    (a b c : List Lane) : List Lane :=
  bvLanes ty (List.zipWith (fun (f : BitVec (eltBits ty) → BitVec (eltBits ty)) z => f z)
    (List.zipWith g (bvElems ty a) (bvElems ty b)) (bvElems ty c))

/-! ## Element results, as bit vectors and as floats -/

/-- A condition on two elements of a signed or a natural type (02 R45). -/
def bvCond {n : Nat} (cond : Nat) (signed : Bool) (a b : BitVec n) : Bool :=
  let lt := if signed then a.slt b else a.ult b
  match cond with
  | 0 => a == b
  | 1 => a != b
  | 2 => lt
  | 3 => lt || a == b
  | 4 => !(lt || a == b)
  | 5 => !lt
  | _ => false

/-- A sum or a difference clamped to the range of a signed or a natural type (05 R108). -/
def bvClamp (n : Nat) (signed : Bool) (z : Int) : BitVec n :=
  if signed then BitVec.ofInt n (max (-(2 : Int) ^ (n - 1)) (min ((2 : Int) ^ (n - 1) - 1) z))
  else BitVec.ofInt n (max 0 (min ((2 : Int) ^ n - 1) z))

/-- The integer that a signed or a natural type reads (03 R63). -/
def bvInt {n : Nat} (signed : Bool) (a : BitVec n) : Int := if signed then a.toInt else (a.toNat : Int)

/-- The field of `bfx` and `bfi` (05 R109): its position, its width and its mask. -/
def fieldPos (b : Lane) : Nat := (b.extractLsb' 0 5).toNat
def fieldLen (b : Lane) : Nat := min (min (b.extractLsb' 8 6).toNat 32) (32 - fieldPos b)
def fieldMask (b : Lane) : Lane := BitVec.ofNat 32 ((2 ^ fieldLen b - 1) * 2 ^ fieldPos b)

/-- Element k of m bits of a lane, as its signed or natural type reads it, in 32 bits. -/
def laneElem (signed : Bool) (m k : Nat) (l : Lane) : Lane :=
  if signed then (l.extractLsb' (m * k) m).signExtend 32 else (l.extractLsb' (m * k) m).zeroExtend 32

/-- The lanes of a float operation on one or two operands: NAN_IN where an operand of an element is a NaN pattern, else what the
operation gives for the elements' values (05 R112); the first error of the token is its result (03 R68). -/
def floats1 (ty : Nat) (g : FVal → Except ErrCode Nat) (a : List Lane) : Result :=
  (allOk ((elems ty a).map fun x =>
    if ((tyFloat ty).decode x).isNan then .error errNanIn else g ((tyFloat ty).decode x))).map (ofElems ty)

def floats2 (ty : Nat) (g : FVal → FVal → Except ErrCode Nat) (a b : List Lane) : Result :=
  (allOk (List.zipWith (fun x y =>
    if ((tyFloat ty).decode x).isNan || ((tyFloat ty).decode y).isNan then .error errNanIn
    else g ((tyFloat ty).decode x) ((tyFloat ty).decode y)) (elems ty a) (elems ty b))).map (ofElems ty)

/-- The same on patterns. -/
def pats1 (ty : Nat) (g : Nat → Except ErrCode Nat) (a : List Lane) : Result :=
  (allOk ((elems ty a).map fun x =>
    if ((tyFloat ty).decode x).isNan then .error errNanIn else g x)).map (ofElems ty)

def pats2 (ty : Nat) (g : Nat → Nat → Except ErrCode Nat) (a b : List Lane) : Result :=
  (allOk (List.zipWith (fun x y =>
    if ((tyFloat ty).decode x).isNan || ((tyFloat ty).decode y).isNan then .error errNanIn
    else g x y) (elems ty a) (elems ty b))).map (ofElems ty)

/-- Element k of n bits of each lane, and a lane made of its elements (06 R127). -/
def bvColumn (ty : Nat) (ls : List Lane) (k : Nat) : List (BitVec (eltBits ty)) :=
  ls.map fun l => l.extractLsb' (eltBits ty * k) (eltBits ty)

def packLane (ty : Nat) (xs : List (BitVec (eltBits ty))) : Lane := BitVec.ofNat 32 (joinNat (eltBits ty) (xs.map BitVec.toNat))

/-- Lanes i of which the columns' results are given, for every element position of a lane. -/
def packColumns (ty : Nat) (g : List (BitVec (eltBits ty)) → BitVec (eltBits ty)) (ls : List Lane) : Lane :=
  packLane ty ((List.range (32 / eltBits ty)).map fun k => g (bvColumn ty ls k))

/-! ## Memory operators (10 R175, 09 R157) -/

/-- The address of an access: the operand's address and the displacement of the operator in the slot. -/
def Ctx.va (x : Ctx) (sp : Space) : Nat := addrSum sp (addrIn sp x.lanesL 0) x.disp

/-- The access breaks no range and its address is aligned. -/
def Ctx.mayAccess (x : Ctx) (sp : Space) (z : Size) (align : Nat) : Prop :=
  rangeFault sp (addrIn sp x.lanesL 0) x.disp (sizeBytes z x.width) = none ∧ x.va sp % align = 0

/-- The operator waits in its wave with its pieces, the first of which goes at once. -/
def Ctx.access (x : Ctx) (sp : Space) (z : Size) (kind : PendKind) (tok : Token) : Act :=
  (x.pend ⟨x.slot, kind, tok, sp, x.va sp, piecesOf z (x.va sp) (sizeBytes z x.width), [], [], [], none, .issue⟩).andThen
    (advance maxPieces x.who)

/-! ## Groups of instructions -/

/-- The integer, float and lane instructions with two operands, L and R or the immediate, whose result goes to both targets. -/
def pairOps : List (FormA → Instr) := [
  .add, .sub, .mul, .mulhi, .mulhn, .div, .divn, .rem, .remn, .and, .or, .xor, .andn, .shl, .shr, .sar, .rol, .ror, .min, .max,
  .minn, .maxn, .bfx, .cmp, .lea, .sadd, .ssub, .fadd, .fsub, .fmul, .fmin, .fmax, .fcmp, .shuf]

/-- Those with the operand L alone. -/
def singleOps : List (FormA → Instr) := [
  .not, .abs, .neg, .clz, .ctz, .popc, .fabs, .fneg, .fclass, .frcp, .frsq, .fsqrt, .fexp2, .flog2, .ftanh, .fsig, .fsin, .fcos,
  .ferf, .fround, .bcast, .lrot, .redadd, .redmax, .redmin, .scanadd, .lmask]

/-- Those with a third operand in a frame slot. -/
def tripleOps : List (FormA → Instr) := [.mad, .bfi, .sel, .ffma]

end Sys2Proof.Machine
end

