-- ==== Sys2Proof/Certificates/Slice0/Obligations.lean ====
section
/-! DEFINITION. The statements for the provers: decoding, the step, firing, the effect and the frame of every instruction, event and
packet, and the invariants of the tables. -/

section

open Sys2Proof Sys2Proof.Machine

/-- The word or words of every well-formed instruction and packet decode to it. For every well-formed instruction of a block, with
every operand at every value its encoding admits: the eight bytes of its word, little-endian, followed by any bytes, decode to that
instruction and leave those bytes. For every well-formed command packet: its header and its payload, followed by any words, decode
to that packet. -/
def Obligations.EncodedInstructionsDecode : Prop :=
  (∀ (i : Instr) (w : Word) (rest : List Byte), i.wf = true → encodeWord i = some w →
    decodeBytes (leBytes 8 w.toNat ++ rest) = .ok (i, rest)) ∧
  (∀ (i : Instr) (ws rest : List (BitVec 32)), i.wf = true → encodePacket i = some ws → decodePacket (ws ++ rest) = .ok i)

/-- A word that decodes is the one word of its instruction. Every word that the decoder accepts is the encoding of the instruction
it gives, which is well formed: no bit of an accepted word is dropped, and no two words stand for one instruction. -/
def Obligations.DecodedWordEncodesBack : Prop :=
  ∀ (w : Word) (i : Instr), decodeWord w = .ok i → i.wf = true ∧ encodeWord i = some w

/-- Words written out from the encodings decode to their instructions. The words of an add, a chase of pointers, a streamer copy, a
trap with an immediate, a barrier wait and a block branch, written out bit by bit from the body tables, decode to those
instructions. -/
def Obligations.SampleWordsDecode : Prop :=
  decodeWord 0x3000C41000000000 = .ok (.add ⟨⟨.always, .window 3 .l, .frame 2⟩, 0, 0, false, 0⟩) ∧
  decodeWord 0x900108080229C001 = .ok (.ldLnk ⟨⟨.always, .window 4 .l, .port .static 1⟩, 0, 1, 2, .g, .b64, true, 1⟩) ∧
  decodeWord 0xC0180C0050000000 = .ok (.cpy ⟨⟨.always, .null, .null⟩, 0, 20, 0, 0⟩) ∧
  decodeWord 0xC3380C0002000007 = .ok (.trap ⟨⟨.onTrue, .null, .null⟩, 0, 0, true, 7⟩) ∧
  decodeWord 0xB8000C0004000000 = .ok (.bwait ⟨⟨.always, .window 0 .l, .null⟩, 0, 1, false, 0⟩) ∧
  decodeWord 0x00980C0020000000 = .ok (.bro ⟨⟨.always, .null, .null⟩, 1, 0, 0, 0⟩)

/-- The configuration wave rejects reserved encodings. A word is rejected by name if its opcode holds no instruction, if its
predicate mode is 3, if a window target names field 3, if a special target has none of the three codes, or if it is an instruction
of body C with a bit of [4:0] set. -/
def Obligations.ReservedWordsAreRejected : Prop :=
  ∀ w : Word,
    (opTable.lookup (w.extractLsb' 55 9) = none → decodeWord w = .error .noInstruction) ∧
    (w.extractLsb' 53 2 = 3 → ∃ e, decodeWord w = .error e) ∧
    (∀ lo, lo = 44 ∨ lo = 35 → w.extractLsb' (lo + 7) 2 = 0 → w.extractLsb' lo 2 = 3 → ∃ e, decodeWord w = .error e) ∧
    (∀ lo, lo = 44 ∨ lo = 35 → w.extractLsb' (lo + 7) 2 = 3 → 2 < (w.extractLsb' lo 7).toNat → ∃ e, decodeWord w = .error e) ∧
    (w.extractLsb' 55 9 ∈ [0x001, 0x002, 0x003, 0x004, 0x005, 0x006] → w.extractLsb' 0 5 ≠ 0 → ∃ e, decodeWord w = .error e)

/-- The nine bits of a target name what the target table says. Bits [8:7] of a target are its kind. Kind 0 is a window operand: slot
[6:2], field [1:0] with 0 L, 1 R, 2 P and 3 rejected. Kind 1 is the frame slot [6:0]. Kind 2 is port [4:0] of the network [6:5]: 0
static, 1 dynamic, 2 control, 3 island channel. Kind 3 is a special target. -/
def Obligations.TargetBitsDecode : Prop :=
  ∀ b : BitVec 9,
    (b.extractLsb' 7 2 = 0 →
      (b.extractLsb' 0 2 = 0 → Target.ofBits b = .ok (.window (b.extractLsb' 2 5) .l)) ∧
      (b.extractLsb' 0 2 = 1 → Target.ofBits b = .ok (.window (b.extractLsb' 2 5) .r)) ∧
      (b.extractLsb' 0 2 = 2 → Target.ofBits b = .ok (.window (b.extractLsb' 2 5) .p)) ∧
      (b.extractLsb' 0 2 = 3 → ∃ e, Target.ofBits b = .error e)) ∧
    (b.extractLsb' 7 2 = 1 → Target.ofBits b = .ok (.frame (b.extractLsb' 0 7))) ∧
    (b.extractLsb' 7 2 = 2 →
      (b.extractLsb' 5 2 = 0 → Target.ofBits b = .ok (.port .static (b.extractLsb' 0 5))) ∧
      (b.extractLsb' 5 2 = 1 → Target.ofBits b = .ok (.port .dynamic (b.extractLsb' 0 5))) ∧
      (b.extractLsb' 5 2 = 2 → Target.ofBits b = .ok (.port .control (b.extractLsb' 0 5))) ∧
      (b.extractLsb' 5 2 = 3 → Target.ofBits b = .ok (.port .island (b.extractLsb' 0 5)))) ∧
    (b.extractLsb' 7 2 = 3 → ∀ t, Target.ofBits b = .ok t → t = .null ∨ t = .reply ∨ t = .sink)

/-- A step runs the decoded instruction, event or packet. With a core's issue at the head of the agenda, and the word in the slot
that the issue rule picks decoding to i, the step is exec of i in the state in which the agenda has moved on and the pick is
latched. Where the word or its block's header meets a soft error, exec runs in the state in which it is corrected and counted, or,
beyond correction, the wave faults with BLOCK_ECC. With an event of the part at its head, the step is exec of the event with its
indices latched. With a queue at its head whose turn it is, whose next packet has been fetched and decodes to i, the step is exec of
i with the queue served and recorded; where a pk.pred of its steps over packets, it steps over the next. A fetch ahead reads one
word of a queue's packets (log 98). A queue of a stopped die takes no packet and reads no word (R325). With no item the step changes
nothing. The agenda is the model's own way of saying what happens next (log 1). -/
def Obligations.StepRunsTheInstruction : Prop :=
  ∀ (s : State) (rest : List Item),
    (∀ core memory r w i, s.m.agenda = .issue core memory :: rest →
      pick { s with m := { s.m with agenda := rest } } core memory = some r →
      let u := issued { s with m := { s.m with agenda := rest } } core memory r
      ∀ x, ctx? u = some x → u.fetchWord = some w → decodeWord w = .ok i →
      (x.codeErrors = [] → step s = exec i u) ∧
      (x.codeErrors ≠ [] → true ∉ x.codeErrors → step s = exec i (x.codeCorrect.run u)) ∧
      (true ∈ x.codeErrors → step s = .next ((takeFault x.who Code.blockEcc 0 0 x.seq 0).run (x.codeCorrect.run u)))) ∧
    (∀ i a, s.m.agenda = .event i a :: rest → isEvent i = true →
      step s = exec i { s with m := { s.m with agenda := rest, at_ := a } }) ∧
    (∀ q x ws i, s.m.agenda = .packet q :: rest → s.queue? q = some x → x.mapped = true →
      s.m.pkg.stopped.contains x.desc.die = false → s.turn x.desc.die = some q → x.passOver = none →
      x.packetAt = .ready ws → decodePacket ws = .ok i →
      step s = exec i (((markServed q x.desc.die).andThen (.mod fun m => { m with cur := { m.cur with queue := q } })).run
        { s with m := { s.m with agenda := rest } })) ∧
    (∀ q x k a h, s.m.agenda = .packet q :: rest → s.queue? q = some x → x.mapped = true →
      s.m.pkg.stopped.contains x.desc.die = false → s.turn x.desc.die = some q →
      x.passOver = some (k, a) → fetchedWord x.fetched a = some h → x.beyond a = false → x.beyond (a + 4 * bits h.toNat 16 8) = false →
      let next := a + 4 * (1 + bits h.toNat 16 8)
      step s = .next ((if k ≤ 1 then goTo q next else modQueue q fun y => { y with passOver := some (k - 1, next) }).run
        { s with m := { s.m with agenda := rest } })) ∧
    (∀ q x a, s.m.agenda = .fetch q :: rest → s.queue? q = some x → x.ahead = some a → s.m.pkg.stopped.contains x.desc.die = false →
      step s = .next ((hoistFetch q a .quiet).run { s with m := { s.m with agenda := rest } })) ∧
    (∀ q x, s.queue? q = some x → s.m.pkg.stopped.contains x.desc.die = true →
      (s.m.agenda = .packet q :: rest ∨ s.m.agenda = .fetch q :: rest) → step s = .next { s with m := { s.m with agenda := rest } }) ∧
    (s.m.agenda = [] → step s = .next s)

/-- A step never stops where the agenda names only events of the part. Whatever the state of the part, a step answers a next state
unless the head of the agenda is an event item that names no event: no instruction, event or packet ends a run. There it answers the
fault notAnEvent, which is the model's own (log 1). -/
def Obligations.StepAnswersANextState : Prop :=
  ∀ s : State,
    (s.agendaOk → ∃ t, step s = .next t) ∧
    (∀ i a rest, s.m.agenda = .event i a :: rest → isEvent i = false → step s = .fault .notAnEvent)

/-- Every step keeps memory and the presence bits in their canonical form. For every state whose memory and presence tables are in
their canonical form (keys strictly rising, no entry equal to what an unlisted key reads as; log 4), every state that a step answers
has them so. -/
def Obligations.StepKeepsTheTables : Prop :=
  ∀ s t : State, s.wf → step s = .next t → t.wf

/-- The machine after reset has its tables in canonical form and an agenda of events. State.reset meets the invariant that every
step keeps, and its agenda names only events of the part. -/
def Obligations.ResetIsSound : Prop :=
  State.reset.wf ∧ State.reset.agendaOk

/-- A write of bytes or presence bits is read back, and all else reads as before. After a write of a list of bytes at an address,
every byte of the range reads as written, and every byte outside it and every presence bit as before; the little-endian value of n
bytes written is that value modulo 2 to the 8n. After the words of a list take a presence state, each reads in it; every other word,
and every byte, reads as before. Two sound states that read alike have equal tables. -/
def Obligations.WrittenBytesAreRead : Prop :=
  (∀ s t : State, s.wf → t.wf → (∀ a, s.byteAt a = t.byteAt a) → (∀ a, s.presAt a = t.presAt a) → s.mem = t.mem ∧ s.pres = t.pres) ∧
  ∀ (s : State) (a : Nat) (bs : List Byte), s.wf →
    (∀ c, ((writeBytes a bs).run s).byteAt c = if a ≤ c ∧ c < a + bs.length then bs.getD (c - a) 0 else s.byteAt c) ∧
    (∀ c, ((writeBytes a bs).run s).presAt c = s.presAt c) ∧
    (∀ n x, ((writeBytes a (leBytes n x)).run s).nat a n = x % 2 ^ (8 * n)) ∧
    (∀ ws p c, ((setPres ws p).run s).presAt c = (if c / 4 ∈ ws then p else s.presAt c) ∧ ((setPres ws p).run s).byteAt c = s.byteAt c)

/-- An instruction whose operands or gate are missing changes nothing. For every instruction of a block: where no slot is latched,
or the latched slot is not ready (a used field is empty, the slot has fired, the wave or an earlier one has faulted, the node is
frozen or its configuration does not issue), or its own gate holds it (the chain of memory operators, the commit of earlier waves, a
fence), exec answers the state as it was. -/
def Obligations.UnreadySlotChangesNothing : Prop :=
  ∀ (i : Instr) (o : BitVec 9) (f : Form) (s : State), i.opForm = some (o, f) →
    (∀ x, ctx? s = some x → (x.ready s o.toNat f && x.gate s o.toNat f) = false) → exec i s = .next s

/-- A false predicate delivers nothing, and the outputs to be counted become null. An instruction that is ready and whose predicate
is a data token of the wrong bit reads its fields, records a null output for each of its targets that counts, and does nothing else;
a store-class instruction also counts a null store and any memory operator takes its place in the chain without an access, a tile
wait counts as performed, and an exit has not fired. -/
def Obligations.FalsePredicateNullifies : Prop :=
  ∀ (i : Instr) (o : BitVec 9) (f : Form) (s : State) (x : Ctx) (p : Token), i.opForm = some (o, f) → ctx? s = some x →
    x.ready s o.toNat f = true → x.gate s o.toNat f = true → x.w.skip ≠ some x.slot → x.fields.p = some p → f.common.pm ≠ .always →
    p.isBad = false → ¬ ((p.lane0.getLsbD 0 = true) = (f.common.pm = .onTrue)) →
    exec i s = .next (x.after s ((x.nullOuts f.common).andThen (x.unless
      (if isExitOp o.toNat then exitNull x else if isMemOp o.toNat then memNull x else if o = 0x164 then twaitDone x else .quiet))))

/-- An error or poison predicate leaves on every target, and every other effect is nullified. An instruction that is ready and whose
P field holds an error or a poison token reads its fields and passes that token to each non-null target, at the context's width (log
16); a frame slot, a port or a special target counts as an output. A store-class instruction is a null store, any memory operator
counts as performed in its place without an access, a tile wait counts as performed, an exit has not fired, and every other
instruction does nothing else. -/
def Obligations.BadPredicatePasses : Prop :=
  ∀ (i : Instr) (o : BitVec 9) (f : Form) (s : State) (x : Ctx) (p : Token), i.opForm = some (o, f) → ctx? s = some x →
    x.ready s o.toNat f = true → x.gate s o.toNat f = true → x.w.skip ≠ some x.slot → x.fields.p = some p → f.common.pm ≠ .always →
    p.isBad = true →
    exec i s = .next (x.after s ((x.emitQuiet f.common (x.pass p)).andThen (x.unless
      (if isExitOp o.toNat then exitNull x else if isMemOp o.toNat then memNull x else if o = 0x164 then twaitDone x else .quiet))))

/-- Poison, then error, then stop, then width decide before an instruction executes. For every computing instruction with the
operands L and R: a poison among them leaves on both targets, L's first; else an error, code kept; else, where both are stop tokens,
one stop token of the greater level; else, where one is, the error STOPMIX of it; else, where a data operand has another width than
the context, the error WIDTH of the first that has. A token passed on takes the context's width (log 16); an error that is made here
has the width and the sequence of the token that caused it, in windows and frame slots (R5, log 102). For every one with the operand
L alone: a poison or an error leaves on both targets, code kept; a stop token leaves as a stop token of its level; a data token of
another width than the context gives the error WIDTH. -/
def Obligations.OperandsDecideBeforeExecution : Prop :=
  (∀ i ∈ pairOps, ∀ (f : FormA) (s : State) (x : Ctx) (l r : Token), firing (i f) s = some x → f.immf = false →
    x.fields.l = some l → x.fields.r = some r →
    (l.kind = .poison → exec (i f) s = .next (x.after s (x.emit f.c (x.pass l)))) ∧
    (l.kind ≠ .poison → r.kind = .poison → exec (i f) s = .next (x.after s (x.emit f.c (x.pass r)))) ∧
    (r.kind ≠ .poison → l.kind = .error → exec (i f) s = .next (x.after s (x.emit f.c (x.pass l)))) ∧
    (l.isBad = false → r.kind = .error → exec (i f) s = .next (x.after s (x.emit f.c (x.pass r)))) ∧
    (l.kind = .stop → r.kind = .stop →
      exec (i f) s = .next (x.after s (x.emit f.c (x.stopTok (max l.stopLevel r.stopLevel))))) ∧
    (l.kind = .stop → r.kind = .data → exec (i f) s = .next (x.after s (x.emit f.c (x.errOf l errStopMix)))) ∧
    (l.kind = .data → r.kind = .stop → exec (i f) s = .next (x.after s (x.emit f.c (x.errOf r errStopMix)))) ∧
    (l.kind = .data → r.kind = .data → l.lanes.length ≠ x.width → exec (i f) s = .next (x.after s (x.emit f.c (x.errOf l errWidth)))) ∧
    (l.kind = .data → r.kind = .data → l.lanes.length = x.width → r.lanes.length ≠ x.width →
      exec (i f) s = .next (x.after s (x.emit f.c (x.errOf r errWidth))))) ∧
  (∀ i ∈ singleOps, ∀ (f : FormA) (s : State) (x : Ctx) (l : Token), firing (i f) s = some x → x.fields.l = some l →
    (l.isBad = true → exec (i f) s = .next (x.after s (x.emit f.c (x.pass l)))) ∧
    (l.kind = .stop → exec (i f) s = .next (x.after s (x.emit f.c (x.stopTok l.stopLevel)))) ∧
    (l.kind = .data → l.lanes.length ≠ x.width → exec (i f) s = .next (x.after s (x.emit f.c (x.errOf l errWidth)))))

/-- A token for a window field is matched, or is BAD_KIND, FIELD_UNUSED or DUP_OPERAND. A token delivered to a field of a slot: with
a control kind or the reserved kind it faults with BAD_KIND; for a field that the instruction there does not use, with FIELD_UNUSED;
for a field that has held a token in this wave, with DUP_OPERAND, and the window is as the fault leaves it, the first token kept;
else it lies in the field (and R29 is applied to the slot). The fault's record holds the token's tag and sequence, and the handle of
a copy of its payload where no capsule parks instead. -/
def Obligations.TokenIntoAWindowField : Prop :=
  ∀ (s : State) (w : Who) (slot : Nat) (g : Field) (t : Token) (x : Ctx) (o : Nat) (f : Form),
    ctxAt s w.core w.frame w.wave slot = some x → blockIns x.b slot = some (o, f) →
    let u : Token := { t with frame := BitVec.ofNat 10 w.frame, slot := BitVec.ofNat 5 slot, wave := BitVec.ofNat 8 w.wave, field := g.toBits }
    let bad (code : Nat) : State := (tokenFault x.who code u).run s
    (∀ (v : Who) (a : Activation) (code : Nat), s.m.actOf? v = some a →
      (a.parksOnFault = true → (tokenFault v code u).run s = (takeFault v code 0 u.tag.toNat t.seq 0).run s) ∧
      (a.parksOnFault = false → (tokenFault v code u).run s =
        (Act.pkg fun p => { p with copies := p.copies ++ [(p.nextHandle, u)], nextHandle := p.nextHandle + 1 }).run
          ((takeFault v code 0 u.tag.toNat t.seq s.m.pkg.nextHandle).run s))) ∧
    (t.kind ∈ [Kind.eos, Kind.wedge, Kind.demand, Kind.reserved] → (intoWindow w slot g t false).run s = bad Code.badKind) ∧
    (t.kind ∉ [Kind.eos, Kind.wedge, Kind.demand, Kind.reserved] → usesField o f g = false →
      (intoWindow w slot g t false).run s = bad Code.fieldUnused) ∧
    (t.kind ∉ [Kind.eos, Kind.wedge, Kind.demand, Kind.reserved] → usesField o f g = true → x.fields.seen g = true →
      (intoWindow w slot g t false).run s = bad Code.dupOperand) ∧
    (t.kind ∉ [Kind.eos, Kind.wedge, Kind.demand, Kind.reserved] → usesField o f g = true → x.fields.seen g = false →
      (intoWindow w slot g t false).run s = (unpairedSlot w.core w.frame w.wave slot).run ((modWave w.core w.frame w.wave fun v =>
        { v with slots := setAt v.slots slot ((v.slots.getD slot Slot.empty).put g t) }).run s))

/-- A delivered token goes where its target says, within the header counts. A delivery to the null target changes nothing. One to a
frame slot, a port, the reply target or the error sink counts as an output and is recorded for the commit (that of the error sink
too: log 39), to a port or the reply target at the width that the instruction gives (R97, log 102), on a control port with lane 0
bit 0 alone; to the reply target of an activation that has none it faults with NO_REPLY. A further output of a wave that has made as
many as its block's header counts takes the fault COMMIT_COUNT; below that count it is counted. The same holds of a further store
and the header's store count. -/
def Obligations.TargetsTakeTheirTokens : Prop :=
  (∀ (s : State) (x y : Ctx), x.again s = some y →
    (blockNout x.b ≤ y.w.outputs → x.countOut.run s = (x.fault Code.commitCount).run s) ∧
    (y.w.outputs < blockNout x.b → x.countOut.run s = (x.mod fun w => { w with outputs := w.outputs + 1 }).run s) ∧
    (blockNst x.b ≤ y.w.stores → x.countStore.run s = (x.fault Code.commitCount).run s) ∧
    (y.w.stores < blockNst x.b → x.countStore.run s = (x.mod fun w => { w with stores := w.stores + 1 }).run s)) ∧
  (∀ (s : State) (x y : Ctx) (t : Token), x.again s = some y → y.w.fault = false → y.w.outputs < blockNout x.b →
    let counted := (x.mod fun w => { w with outputs := w.outputs + 1 }).run s
    (x.deliver .null t).run s = s ∧
    (∀ n, (x.deliver (.frame n) t).run s = (x.unless (x.record (.frame n.toNat t))).run counted) ∧
    (∀ net p, net ≠ .control → (x.deliver (.port net p) t).run s = (x.unless (x.record (.out net p.toNat (x.fit t)))).run counted) ∧
    (∀ p, (x.deliver (.port .control p) t).run s =
      (x.unless (x.record (.out .control p.toNat (ctlToken t)))).run counted) ∧
    (∀ r, x.a.reply = some r → (x.deliver .reply t).run s = (x.unless (x.record (.answer r (x.fit t)))).run counted) ∧
    (x.a.reply = none → (x.deliver .reply t).run s = (x.fault Code.noReply).run s) ∧
    (x.deliver .sink t).run s = (x.unless (x.record (.sink t))).run counted)

/-- The integer instructions with two operands compute the element results of their table. add, sub, mul, mulhi, mulhn, and, or,
xor, andn, shl, shr, sar, rol, ror, min, max, minn and maxn, in every type they accept, with data operands of the context's width (R
or the immediate): exec answers the next state in which the slot is consumed and a data token leaves on both targets whose elements
are, bit vector by bit vector: the sum, difference and product modulo 2^n; the upper half of the signed and of the unsigned product;
the bitwise results; the shifts and rotations by b mod n, sar with copies of the top bit; the signed and unsigned minimum and
maximum. -/
def Obligations.IntegerPairsCompute : Prop :=
  ∀ p ∈ ([(.add, fun _ a b => a + b), (.sub, fun _ a b => a - b), (.mul, fun _ a b => a * b),
      (.mulhi, fun n a b => ((a.signExtend (2 * n) * b.signExtend (2 * n)) >>> n).setWidth n),
      (.mulhn, fun n a b => ((a.zeroExtend (2 * n) * b.zeroExtend (2 * n)) >>> n).setWidth n),
      (.and, fun _ a b => a &&& b), (.or, fun _ a b => a ||| b), (.xor, fun _ a b => a ^^^ b), (.andn, fun _ a b => a &&& ~~~b),
      (.shl, fun n a b => a <<< (b.toNat % n)), (.shr, fun n a b => a >>> (b.toNat % n)),
      (.sar, fun n a b => a.sshiftRight (b.toNat % n)), (.rol, fun n a b => a.rotateLeft (b.toNat % n)),
      (.ror, fun n a b => a.rotateRight (b.toNat % n)), (.min, fun _ a b => if a.sle b then a else b),
      (.max, fun _ a b => if a.sle b then b else a), (.minn, fun _ a b => if a.ule b then a else b),
      (.maxn, fun _ a b => if a.ule b then b else a)] : List ((FormA → Instr) × ((n : Nat) → BitVec n → BitVec n → BitVec n))),
    ∀ (f : FormA) (s : State) (x : Ctx) (a b : List Lane), firing (p.1 f) s = some x → (p.1 f).wf = true → x.dataL a → x.dataB f b →
      oddPair f.ty.toNat x.width = false →
      exec (p.1 f) s = .next (x.after s (x.emit f.c (x.tok .data (onElems2 f.ty.toNat (p.2 _) a b))))

/-- Division and remainder compute, or give ARITH_DIV0 for the whole token. div, divn, rem and remn on data operands of the
context's width: exec answers the next state in which the slot is consumed and, where no element of b is 0, a data token leaves
whose elements are the quotient truncated towards zero, the unsigned quotient, the remainder with the sign of a and the unsigned
remainder; where an element of b is 0, the error token ARITH_DIV0 leaves. -/
def Obligations.DivisionComputes : Prop :=
  ∀ p ∈ ([(.div, fun _ a b => a.sdiv b), (.divn, fun _ a b => a / b), (.rem, fun _ a b => a.srem b), (.remn, fun _ a b => a % b)] :
      List ((FormA → Instr) × ((n : Nat) → BitVec n → BitVec n → BitVec n))),
    ∀ (f : FormA) (s : State) (x : Ctx) (a b : List Lane), firing (p.1 f) s = some x → (p.1 f).wf = true → x.dataL a → x.dataB f b →
      ((∀ e ∈ bvElems f.ty.toNat b, e ≠ 0) →
        exec (p.1 f) s = .next (x.after s (x.emit f.c (x.tok .data (onElems2 f.ty.toNat (p.2 _) a b))))) ∧
      ((∃ e ∈ bvElems f.ty.toNat b, e = 0) →
        exec (p.1 f) s = .next (x.after s (x.emit f.c (x.err errArithDiv0))))

/-- The integer instructions with one operand compute the element results of their table. not, abs, neg, clz, ctz and popc on a data
operand of the context's width: exec answers the next state in which the slot is consumed and a data token leaves on both targets
whose elements are the complement, the magnitude and the negation modulo 2^n, the leading and trailing zero bits (n for 0), and the
number of one bits. -/
def Obligations.IntegerSinglesCompute : Prop :=
  ∀ p ∈ ([(.not, fun _ a => ~~~a), (.abs, fun _ a => if a.msb then -a else a), (.neg, fun _ a => -a), (.clz, fun _ a => a.clz),
      (.ctz, fun _ a => a.ctz), (.popc, fun _ a => a.cpop)] : List ((FormA → Instr) × ((n : Nat) → BitVec n → BitVec n))),
    ∀ (f : FormA) (s : State) (x : Ctx) (a : List Lane), firing (p.1 f) s = some x → (p.1 f).wf = true → x.dataL a →
      oddPair f.ty.toNat x.width = false →
      exec (p.1 f) s = .next (x.after s (x.emit f.c (x.tok .data (onElems1 f.ty.toNat (p.2 _) a))))

/-- cmp, lea, sadd and ssub compute the element results of their table. On data operands of the context's width: cmp gives 1 in each
element for which the condition SUB holds, by signed order for signed types and unsigned order for natural types, else 0; lea gives
a + b times 2^SUB modulo 2^n; sadd and ssub give the sum and the difference clamped to the range of the type. exec answers the next
state in which the slot is consumed and that data token leaves on both targets. -/
def Obligations.CompareScaleAndClampCompute : Prop :=
  ∀ (f : FormA) (s : State) (x : Ctx) (a b : List Lane), x.dataL a → x.dataB f b → oddPair f.ty.toNat x.width = false →
    (firing (.cmp f) s = some x → (Instr.cmp f).wf = true →
      exec (.cmp f) s = .next (x.after s (x.emit f.c (x.tok .data
        (onElems2 f.ty.toNat (fun a b => if bvCond f.sub.toNat (tySigned f.ty.toNat) a b then 1 else 0) a b))))) ∧
    (firing (.lea f) s = some x → (Instr.lea f).wf = true →
      exec (.lea f) s = .next (x.after s (x.emit f.c (x.tok .data (onElems2 f.ty.toNat (fun a b => a + b <<< f.sub.toNat) a b))))) ∧
    (firing (.sadd f) s = some x → (Instr.sadd f).wf = true →
      exec (.sadd f) s = .next (x.after s (x.emit f.c (x.tok .data (onElems2 f.ty.toNat
        (fun a b => bvClamp _ (tySigned f.ty.toNat) (bvInt (tySigned f.ty.toNat) a + bvInt (tySigned f.ty.toNat) b)) a b))))) ∧
    (firing (.ssub f) s = some x → (Instr.ssub f).wf = true →
      exec (.ssub f) s = .next (x.after s (x.emit f.c (x.tok .data (onElems2 f.ty.toNat
        (fun a b => bvClamp _ (tySigned f.ty.toNat) (bvInt (tySigned f.ty.toNat) a - bvInt (tySigned f.ty.toNat) b)) a b)))))

/-- bfx, bfi, mad and sel compute the element results of their table. On data operands of the context's width, c from frame slot SUB
as the last committed wave left it: mad gives a times b plus c modulo 2^n; sel gives b where a is not 0, else c; bfx extracts the
field of a that b names (position b[4:0], width b[13:8] up to 32 and to the top bit), sign-extended for the signed type and
zero-extended for the natural one; bfi inserts a into that field of c. exec answers the next state in which the slot is consumed and
that data token leaves on both targets. -/
def Obligations.FieldsAndFrameOperandsCompute : Prop :=
  ∀ (f : FormA) (s : State) (x : Ctx) (a b c : List Lane), x.dataL a → x.dataB f b →
    (firing (.bfx f) s = some x → (Instr.bfx f).wf = true →
      exec (.bfx f) s = .next (x.after s (x.emit f.c (x.tok .data (List.zipWith (fun (a b : Lane) =>
        let v := (a &&& fieldMask b) >>> fieldPos b
        if f.ty = 0 ∧ 0 < fieldLen b ∧ v.getLsbD (fieldLen b - 1) = true then v ||| ~~~(BitVec.ofNat 32 (2 ^ fieldLen b - 1)) else v)
        a b))))) ∧
    (x.dataC f.sub.toNat c →
      (firing (.bfi f) s = some x → (Instr.bfi f).wf = true →
        exec (.bfi f) s = .next (x.after s (x.emit f.c (x.tok .data (List.zipWith (fun (g : Lane → Lane) c => g c)
          (List.zipWith (fun (a b c : Lane) => (c &&& ~~~(fieldMask b)) ||| (a <<< fieldPos b &&& fieldMask b)) a b) c))))) ∧
      (firing (.mad f) s = some x → (Instr.mad f).wf = true →
        exec (.mad f) s = .next (x.after s (x.emit f.c (x.tok .data (onElems3 f.ty.toNat (fun a b c => a * b + c) a b c))))) ∧
      (firing (.sel f) s = some x → (Instr.sel f).wf = true → oddPair f.ty.toNat x.width = false →
        exec (.sel f) s = .next (x.after s (x.emit f.c (x.tok .data
          (onElems3 f.ty.toNat (fun a b c => if a = 0 then c else b) a b c))))))

/-- Body I serves imm alone, and imm fills its token by kind. The word of opcode 0x081 that decodes is imm with kind [34:32] and
IMM32 [31:0], no other instruction has that body, and kinds 4 to 7 are rejected. When imm fires, exec answers the next state in
which the slot is consumed and a token leaves on both targets with IMM32 in every lane (kind 0), in lane 0 with zeros in the others
(1), or sign- or zero-extended to 64 bits in every lane pair (2, 3); at an odd width kinds 2 and 3 give the error token WIDTH. -/
def Obligations.ImmediateTokenIsFilled : Prop :=
  (∀ (w : Word) (i : Instr), w.extractLsb' 55 9 = 0x081 → decodeWord w = .ok i →
    (w.extractLsb' 32 3).toNat < 4 ∧ ∃ c, i = .imm ⟨c, w.extractLsb' 32 3, w.extractLsb' 0 32⟩) ∧
  (∀ (i : Instr) (o : BitVec 9) (g : FormI), i.opForm = some (o, .i g) → i = .imm g) ∧
  (∀ w : Word, w.extractLsb' 55 9 = 0x081 → 4 ≤ (w.extractLsb' 32 3).toNat → ∃ e, decodeWord w = .error e) ∧
  (∀ (f : FormI) (s : State) (x : Ctx), firing (.imm f) s = some x →
    (f.kind = 0 → exec (.imm f) s = .next (x.after s (x.emit f.c (x.tok .data (List.replicate x.width f.imm))))) ∧
    (f.kind = 1 → exec (.imm f) s = .next (x.after s (x.emit f.c (x.tok .data (f.imm :: List.replicate (x.width - 1) 0))))) ∧
    (f.kind = 2 → ∀ n, x.width = 2 * n → exec (.imm f) s = .next (x.after s (x.emit f.c (x.tok .data
      (List.replicate n [f.imm, (f.imm.signExtend 64).extractLsb' 32 32]).flatten)))) ∧
    (f.kind = 3 → ∀ n, x.width = 2 * n → exec (.imm f) s = .next (x.after s (x.emit f.c (x.tok .data
      (List.replicate n [f.imm, (f.imm.zeroExtend 64).extractLsb' 32 32]).flatten)))) ∧
    (f.kind = 2 ∨ f.kind = 3 → ∀ n, x.width = 2 * n + 1 →
      exec (.imm f) s = .next (x.after s (x.emit f.c (x.err errWidth)))))

/-- Float sums, products and the fused product are exact and rounded once. fadd, fsub, fmul and ffma (c from frame slot SUB) on data
operands of the context's width: exec answers the next state in which the slot is consumed and the token leaves on both targets
whose elements are the exact sum, difference, product, or product plus c, rounded once to the element format; NAN_IN where an
element of an operand is a NaN pattern, and the error of an invalid operation otherwise, for the whole token. -/
def Obligations.FloatArithmeticComputes : Prop :=
  ∀ (f : FormA) (s : State) (x : Ctx) (a b c : List Lane), x.dataL a → x.dataB f b →
    let g := tyFloat f.ty.toNat
    (firing (.fadd f) s = some x → (Instr.fadd f).wf = true →
      exec (.fadd f) s = .next (x.after s (x.emit f.c (x.result (floats2 f.ty.toNat (fun u v => g.sum [u, v]) a b))))) ∧
    (firing (.fsub f) s = some x → (Instr.fsub f).wf = true →
      exec (.fsub f) s = .next (x.after s (x.emit f.c (x.result (floats2 f.ty.toNat (fun u v => g.sum [u, v.neg]) a b))))) ∧
    (firing (.fmul f) s = some x → (Instr.fmul f).wf = true →
      exec (.fmul f) s = .next (x.after s (x.emit f.c (x.result (floats2 f.ty.toNat (fun u v => g.result (u.mul v)) a b))))) ∧
    (firing (.ffma f) s = some x → (Instr.ffma f).wf = true → x.dataC f.sub.toNat c →
      exec (.ffma f) s = .next (x.after s (x.emit f.c (x.result ((allOk (List.zipWith (fun (h : Nat → Except ErrCode Nat) z => h z)
        (List.zipWith (fun u v z =>
          if (g.decode u).isNan || (g.decode v).isNan || (g.decode z).isNan then .error errNanIn
          else g.sum [(g.decode u).mul (g.decode v), g.decode z]) (elems f.ty.toNat a) (elems f.ty.toNat b))
        (elems f.ty.toNat c))).map (ofElems f.ty.toNat))))))

/-- fmin, fmax, fcmp, fabs, fneg and fclass compute the element results of their table. On data operands of the context's width:
fmin and fmax give the smaller and the larger, -0 below +0; fcmp gives 1 where the condition SUB holds, -0 equal to +0, else 0; fabs
and fneg clear and invert the sign bit; a NaN pattern gives NAN_IN for the whole token. fclass gives the mask with the one bit of
the element's class, for a NaN pattern too. exec answers the next state in which the slot is consumed and that token leaves on both
targets. -/
def Obligations.FloatSelectionComputes : Prop :=
  ∀ (f : FormA) (s : State) (x : Ctx) (a b : List Lane), x.dataL a →
    let g := tyFloat f.ty.toNat
    let top := 2 ^ (g.bits - 1)
    (x.dataB f b →
      (firing (.fmin f) s = some x → (Instr.fmin f).wf = true →
        exec (.fmin f) s = .next (x.after s (x.emit f.c (x.result (pats2 f.ty.toNat (fun u v =>
          .ok (if (g.decode u).lt (g.decode v) ∨ (¬ (g.decode v).lt (g.decode u) ∧ (g.decode u).signBit) then u else v)) a b))))) ∧
      (firing (.fmax f) s = some x → (Instr.fmax f).wf = true →
        exec (.fmax f) s = .next (x.after s (x.emit f.c (x.result (pats2 f.ty.toNat (fun u v =>
          .ok (if (g.decode v).lt (g.decode u) ∨ (¬ (g.decode u).lt (g.decode v) ∧ ¬ (g.decode u).signBit) then u else v)) a b))))) ∧
      (firing (.fcmp f) s = some x → (Instr.fcmp f).wf = true →
        exec (.fcmp f) s = .next (x.after s (x.emit f.c (x.result (floats2 f.ty.toNat (fun u v =>
          .ok (if condHolds f.sub.toNat (u.lt v) (!u.lt v && !v.lt u) then 1 else 0)) a b)))))) ∧
    (firing (.fabs f) s = some x → (Instr.fabs f).wf = true →
      exec (.fabs f) s = .next (x.after s (x.emit f.c (x.result (pats1 f.ty.toNat (fun u => .ok (u % top)) a))))) ∧
    (firing (.fneg f) s = some x → (Instr.fneg f).wf = true →
      exec (.fneg f) s = .next (x.after s (x.emit f.c (x.result (pats1 f.ty.toNat
        (fun u => .ok (if u < top then u + top else u - top)) a))))) ∧
    (firing (.fclass f) s = some x → (Instr.fclass f).wf = true →
      exec (.fclass f) s = .next (x.after s (x.emit f.c (x.tok .data
        (ofElems f.ty.toNat ((elems f.ty.toNat a).map (classMask g)))))))

/-- The special functions and fround compute element by element. frcp, frsq, fsqrt, fexp2, flog2, ftanh, fsig, fsin, fcos, ferf and
fround (mode SUB[2:0]) on a data operand of the context's width: exec answers the next state in which the slot is consumed and the
token leaves on both targets whose elements are the function's values; NAN_IN for a NaN pattern, and the function's own error, for
the whole token. -/
def Obligations.SpecialFunctionsCompute : Prop :=
  (∀ p ∈ ([(.frcp, frcpVal), (.frsq, frsqVal), (.fsqrt, fsqrtVal), (.fexp2, Special.exp2), (.flog2, Special.log2), (.ftanh, Special.tanh),
      (.fsig, Special.sig), (.fsin, Special.sin), (.fcos, Special.cos), (.ferf, Special.erf)] :
      List ((FormA → Instr) × (FFmt → FVal → Except ErrCode Nat))),
    ∀ (f : FormA) (s : State) (x : Ctx) (a : List Lane), firing (p.1 f) s = some x → (p.1 f).wf = true → x.dataL a →
      exec (p.1 f) s = .next (x.after s (x.emit f.c (x.result (floats1 f.ty.toNat (p.2 (tyFloat f.ty.toNat)) a))))) ∧
  (∀ (f : FormA) (s : State) (x : Ctx) (a : List Lane), firing (.fround f) s = some x → (Instr.fround f).wf = true → x.dataL a →
      exec (.fround f) s = .next (x.after s (x.emit f.c (x.result (pats1 f.ty.toNat
        (froundPat (tyFloat f.ty.toNat) (.ofCode (f.sub.toNat % 8))) a)))))

/-- The special functions give the table values at infinities, zeros and negative numbers. In each of FP32, BF16 and FP16: the
values of the ten special functions at minus infinity, -0, +0 and plus infinity, and the errors of frsq, fsqrt and flog2 below zero,
are those of the table of special inputs. -/
def Obligations.SpecialInputsOfFunctions : Prop :=
  ∀ g ∈ [FFmt.f32, FFmt.bf16, FFmt.f16], ∀ (e : Int),
    let inf (n : Bool) : FVal := .inf n
    let zero (n : Bool) : FVal := .fin n 0 e
    let one (n : Bool) : Nat := g.signed n (g.bias * 2 ^ g.fbits)
    let half : Nat := (g.bias - 1) * 2 ^ g.fbits
    (∀ n, frcpVal g (inf n) = .ok (g.signed n 0) ∧ frcpVal g (zero n) = .ok (g.signed n g.infPat)) ∧
    (frsqVal g (inf true) = .error errArithInv ∧ (∀ n, frsqVal g (zero n) = .ok (g.signed n g.infPat)) ∧
      frsqVal g (inf false) = .ok 0) ∧
    (fsqrtVal g (inf true) = .error errArithInv ∧ (∀ n, fsqrtVal g (zero n) = .ok (g.signed n 0)) ∧
      fsqrtVal g (inf false) = .ok g.infPat) ∧
    (∀ m, 0 < m → frsqVal g (.fin true m e) = .error errArithInv ∧ fsqrtVal g (.fin true m e) = .error errArithInv ∧
      Special.log2 g (.fin true m e) = .error errArithInv) ∧
    (Special.exp2 g (inf true) = .ok 0 ∧ (∀ n, Special.exp2 g (zero n) = .ok (one false)) ∧ Special.exp2 g (inf false) = .ok g.infPat) ∧
    (Special.log2 g (inf true) = .error errArithInv ∧ (∀ n, Special.log2 g (zero n) = .ok (g.signed true g.infPat)) ∧
      Special.log2 g (inf false) = .ok g.infPat) ∧
    (∀ n, Special.tanh g (inf n) = .ok (one n) ∧ Special.tanh g (zero n) = .ok (g.signed n 0)) ∧
    (Special.sig g (inf true) = .ok 0 ∧ (∀ n, Special.sig g (zero n) = .ok half) ∧ Special.sig g (inf false) = .ok (one false)) ∧
    (∀ n, Special.sin g (inf n) = .error errArithInv ∧ Special.sin g (zero n) = .ok (g.signed n 0)) ∧
    (∀ n, Special.cos g (inf n) = .error errArithInv ∧ Special.cos g (zero n) = .ok (one false)) ∧
    (∀ n, Special.erf g (inf n) = .ok (one n) ∧ Special.erf g (zero n) = .ok (g.signed n 0))

/-- dot2i, dot4i, fdot2 and fdot4 give one sum of products in each lane. On data operands of the context's width: dot2i sums the two
products of a lane's 16-bit elements and dot4i the four of its 8-bit elements, signed or natural as the type is, modulo 2^32, and
with SUB[4] the lane of frame slot SUB[3:0] is added. For fdot2 and fdot4 the products of a lane's elements, and with SUB[4] the
FP32 lane of frame slot SUB[3:0], are summed exactly and rounded once to FP32; NAN_IN where an element or that lane is a NaN
pattern, for the whole token. exec answers the next state in which the slot is consumed and that token leaves on both targets. -/
def Obligations.DotProductsCompute : Prop :=
  (∀ p ∈ ([(.dot2i, 16, [0, 1]), (.dot4i, 8, [0, 1, 2, 3])] : List ((FormA → Instr) × Nat × List Nat)),
    ∀ (f : FormA) (s : State) (x : Ctx) (a b c : List Lane), firing (p.1 f) s = some x → (p.1 f).wf = true → x.dataL a → x.dataB f b →
      let sum (u v : Lane) : Lane :=
        (p.2.2.map fun k => laneElem (tySigned f.ty.toNat) p.2.1 k u * laneElem (tySigned f.ty.toNat) p.2.1 k v).foldl (· + ·) 0
      (f.sub.getLsbD 4 = false →
        exec (p.1 f) s = .next (x.after s (x.emit f.c (x.tok .data (List.zipWith sum a b))))) ∧
      (f.sub.getLsbD 4 = true → x.dataC (f.sub.toNat % 16) c →
        exec (p.1 f) s = .next (x.after s (x.emit f.c (x.tok .data (List.zipWith (· + ·) (List.zipWith sum a b) c)))))) ∧
  (∀ i ∈ ([.fdot2, .fdot4] : List (FormA → Instr)),
    ∀ (f : FormA) (s : State) (x : Ctx) (a b c : List Lane), firing (i f) s = some x → (i f).wf = true → x.dataL a → x.dataB f b →
      let g := tyFloat f.ty.toNat
      let lane (cs : List FVal) (u v : Lane) : Except ErrCode Lane :=
        let us := (elems f.ty.toNat [u]).map g.decode
        let vs := (elems f.ty.toNat [v]).map g.decode
        if (us ++ vs ++ cs).any FVal.isNan then .error errNanIn
        else (FFmt.f32.sum (List.zipWith FVal.mul us vs ++ cs)).map (BitVec.ofNat 32)
      (f.sub.getLsbD 4 = false →
        exec (i f) s = .next (x.after s (x.emit f.c (x.result (allOk (List.zipWith (lane []) a b)))))) ∧
      (f.sub.getLsbD 4 = true → x.dataC (f.sub.toNat % 16) c →
        exec (i f) s = .next (x.after s (x.emit f.c (x.result (allOk (List.zipWith (fun (h : Lane → Except ErrCode Lane) z => h z)
          (List.zipWith (fun u v z => lane [FFmt.f32.decode z.toNat] u v) a b) c)))))))

/-- bcast, shuf, lrot, lidx, lmask and lcomp compute their lanes. On data operands of the context's width w, at most 32: bcast puts
lane SUB of L in every lane; shuf takes L lane j for j = R lane i [4:0], 0 at or above w; lrot takes L lane (i + SUB) mod w; lidx
gives i; lmask sets bit k of lane 0 where L lane k is not zero, and zeros the other lanes; lcomp sends the lanes of L whose R lane
is not zero, in order and padded with zeros, to T0 and their number in lane 0 to T1. exec answers the next state in which the slot
is consumed and those tokens leave. -/
def Obligations.LanesCompute : Prop :=
  ∀ (f : FormA) (s : State) (x : Ctx) (a b : List Lane), x.width ≤ 32 →
    (firing (.lidx f) s = some x →
      exec (.lidx f) s = .next (x.after s (x.emit f.c (x.tok .data ((List.range x.width).map (BitVec.ofNat 32)))))) ∧
    (x.dataL a → (Instr.bcast f).wf = true →
      (firing (.bcast f) s = some x →
        exec (.bcast f) s = .next (x.after s (x.emit f.c (x.tok .data (List.replicate x.width (a.getD f.sub.toNat 0)))))) ∧
      (firing (.lrot f) s = some x → exec (.lrot f) s = .next (x.after s (x.emit f.c (x.tok .data
        ((List.range x.width).map fun i => a.getD ((i + f.sub.toNat) % x.width) 0))))) ∧
      (firing (.lmask f) s = some x → ∃ m : Lane, (∀ k, m.getLsbD k = decide (a.getD k 0 ≠ 0)) ∧
        exec (.lmask f) s = .next (x.after s (x.emit f.c (x.tok .data ((m :: List.replicate (x.width - 1) 0).take x.width)))))) ∧
    (x.dataL a → x.dataB f b → (Instr.shuf f).wf = true → firing (.shuf f) s = some x →
      exec (.shuf f) s = .next (x.after s (x.emit f.c (x.tok .data (b.map fun i =>
        if (i.extractLsb' 0 5).toNat < x.width then a.getD (i.extractLsb' 0 5).toNat 0 else 0))))) ∧
    (x.dataL a → x.dataR b → firing (.lcomp f) s = some x →
      let sel := ((List.range x.width).filter fun i => decide (b.getD i 0 ≠ 0)).map fun i => a.getD i 0
      exec (.lcomp f) s = .next (x.after s ((x.deliver f.c.t0 (x.data sel)).andThen
        (x.deliver f.c.t1 (x.data [BitVec.ofNat 32 sel.length])))))

/-- redadd, redmax, redmin and scanadd combine each element position over the lanes. On a data operand of 1 to 32 lanes, the
context's width: for integer types redadd gives the sum modulo 2^n, redmax the maximum and redmin the minimum of each element
position over all lanes, in lane 0 with zeros in the others, or with SUB 1 in every lane; scanadd gives in lane i the sum over the
lanes up to i. For float types the result is the model's pairwise tree or left-to-right sum, with NAN_IN where any element is a NaN
pattern. exec answers the next state in which the slot is consumed and that token leaves on both targets. -/
def Obligations.ReductionsCompute : Prop :=
  ∀ (f : FormA) (s : State) (x : Ctx) (a : List Lane), x.dataL a → 0 < x.width → x.width ≤ 32 → oddPair f.ty.toNat x.width = false →
    let ty := f.ty.toNat
    let spread (l : Lane) : List Lane :=
      if f.sub.getLsbD 0 then List.replicate x.width l else l :: List.replicate (x.width - 1) 0
    let less (u v : BitVec (eltBits ty)) : Bool := if tySigned ty then u.slt v else u.ult v
    (isFloatTy ty = false →
      (firing (.redadd f) s = some x → (Instr.redadd f).wf = true →
        exec (.redadd f) s = .next (x.after s (x.emit f.c (x.tok .data
          (spread (packColumns ty (fun c => c.foldl (· + ·) 0) a)))))) ∧
      (firing (.redmax f) s = some x → (Instr.redmax f).wf = true →
        exec (.redmax f) s = .next (x.after s (x.emit f.c (x.tok .data
          (spread (packColumns ty (fun c => c.foldl (fun m v => if less m v then v else m) (c.headD 0)) a)))))) ∧
      (firing (.redmin f) s = some x → (Instr.redmin f).wf = true →
        exec (.redmin f) s = .next (x.after s (x.emit f.c (x.tok .data
          (spread (packColumns ty (fun c => c.foldl (fun m v => if less v m then v else m) (c.headD 0)) a)))))) ∧
      (firing (.scanadd f) s = some x → (Instr.scanadd f).wf = true →
        exec (.scanadd f) s = .next (x.after s (x.emit f.c (x.tok .data ((List.range x.width).map fun i =>
          packColumns ty (fun c => (c.take (i + 1)).foldl (· + ·) 0) a)))))) ∧
    (isFloatTy ty = true →
      (firing (.redadd f) s = some x →
        exec (.redadd f) s = .next (x.after s (x.emit f.c (x.result (reduce ty (f.sub.getLsbD 0) (addElem ty) a))))) ∧
      (firing (.redmax f) s = some x →
        exec (.redmax f) s = .next (x.after s (x.emit f.c (x.result (reduce ty (f.sub.getLsbD 0) (maxElem ty) a))))) ∧
      (firing (.redmin f) s = some x →
        exec (.redmin f) s = .next (x.after s (x.emit f.c (x.result (reduce ty (f.sub.getLsbD 0) (minElem ty) a))))) ∧
      (firing (.scanadd f) s = some x →
        exec (.scanadd f) s = .next (x.after s (x.emit f.c (if anyNan ty a then x.err errNanIn else x.result
          ((allOk ((List.range (32 / eltBits ty)).map fun k => scan (addElem ty) (column ty a k))).map (rowsOf ty x.width)))))))

/-- nop has no effect, and the exits fix the successor wave. nop consumes its slot and does nothing else. bro names BT0; brp names
BT0 where lane 0 bit 0 of L is 1, else BT1; bri names BT0 + v for v = L lane 0 up to BT1 - BT0, else BT1; brp and bri name BT1 for a
stop, an error or a poison token, the last two counted in the error sink at the commit (that moment is log 39). ret, in an
activation that is not a default one, ends it with L as the reply; retire ends it. A first exit of a wave is recorded, and if the
wave is the last one allocated its successor's block is known at once; a second exit takes the fault MULTI_EXIT. -/
def Obligations.ExitsComplete : Prop :=
  (∀ (f : FormA) s x, firing (.nop f) s = some x → exec (.nop f) s = .next (x.consume.run s)) ∧
  (∀ (f : FormC) (s : State) (x : Ctx),
    (firing (.bro f) s = some x → exec (.bro f) s = .next (x.after s (x.exitTo (.block f.bt0)))) ∧
    (firing (.retire f) s = some x → exec (.retire f) s = .next (x.after s (x.exitTo .retire))) ∧
    (∀ t, x.fields.l = some t →
      (firing (.brp f) s = some x →
        (t.kind = .data → exec (.brp f) s = .next (x.after s (x.exitTo (.block (if t.lane0.getLsbD 0 then f.bt0 else f.bt1))))) ∧
        (t.kind = .stop → exec (.brp f) s = .next (x.after s (x.exitTo (.block f.bt1)))) ∧
        (t.isBad = true → exec (.brp f) s = .next (x.after s ((x.exitTo (.block f.bt1)).andThen (x.unless (x.record .errCount)))))) ∧
      (firing (.bri f) s = some x →
        (t.kind = .data → f.bt0.toNat + t.lane0.toNat ≤ f.bt1.toNat →
          exec (.bri f) s = .next (x.after s (x.exitTo (.block (BitVec.ofNat 6 (f.bt0.toNat + t.lane0.toNat)))))) ∧
        (t.kind = .data → f.bt0 ≤ f.bt1 → f.bt1.toNat < f.bt0.toNat + t.lane0.toNat →
          exec (.bri f) s = .next (x.after s (x.exitTo (.block f.bt1)))) ∧
        (t.kind = .stop → exec (.bri f) s = .next (x.after s (x.exitTo (.block f.bt1)))) ∧
        (t.isBad = true → exec (.bri f) s = .next (x.after s ((x.exitTo (.block f.bt1)).andThen (x.unless (x.record .errCount)))))) ∧
      (firing (.ret f) s = some x →
        (x.a.kind ≠ .default → exec (.ret f) s = .next (x.after s (x.exitTo (.ret t)))) ∧
        (x.a.kind = .default → exec (.ret f) s = .next (x.after s (x.fault Code.retDefault)))))) ∧
  (∀ (s : State) (x y : Ctx) (e : Exit), x.again s = some y →
    (y.w.exit.isSome = true → (x.exitTo e).run s = (x.fault Code.multiExit).run s) ∧
    (y.w.exit = none → (x.exitTo e).run s = ((x.mod fun w => { w with exit := some e }).andThen
      (modAct x.core x.frame fun a => if x.idx + 1 = a.count then
        { a with next := match e with
            | .block b => .block b
            | _ => .ended }
        else a)).run s))

/-- mov, ldf, send, steer, merge, gate, drop, pack and unpack route their tokens. ldf delivers a frame slot, as the last committed
wave left it, to both targets, and waits for no token; drop consumes L, of whatever kind. On an operand L that is data of the
context's width: mov delivers L to both targets; send records L for the port T0 with the activation that R lane 0 names, sends
nothing for an error, poison or stop descriptor and counts the first two (at the commit: log 39); pack delivers the lanes of L then
of R; unpack the lower half of L to T0 and the upper half to T1. On an L that is such data or a stop token, which is routed like
data, and a data selector R: steer delivers L to T0 where lane 0 bit 0 of R is 1, else to T1, and the other target takes a null
output; merge delivers L to both targets; gate does so where that bit differs from SUB bit 0, else both take null outputs. exec
answers the next state in which the slot is consumed and that has happened. -/
def Obligations.RoutingCompletes : Prop :=
  ∀ (f : FormA) (s : State) (x : Ctx),
    (firing (.ldf f) s = some x → (Instr.ldf f).wf = true →
      exec (.ldf f) s = .next (x.after s (x.emit f.c (x.a.slotTok (f.ty.toNat * 32 + f.sub.toNat))))) ∧
    (firing (.drop f) s = some x → exec (.drop f) s = .next (x.after s (x.record .drop))) ∧
    (∀ a, x.dataL a →
      (firing (.mov f) s = some x → exec (.mov f) s = .next (x.after s (x.emit f.c (x.tok .data a)))) ∧
      (firing (.unpack f) s = some x → exec (.unpack f) s = .next (x.after s
        ((x.deliver f.c.t0 (x.tok .data (a.take (x.width / 2)))).andThen (x.deliver f.c.t1 (x.tok .data (a.drop (x.width / 2))))))) ∧
      (∀ b, x.dataR b → firing (.pack f) s = some x →
        exec (.pack f) s = .next (x.after s (x.emit f.c (x.tok .data (a ++ b))))) ∧
      (∀ r p, x.fields.r = some r → f.c.t0 = .port .dynamic p → firing (.send f) s = some x →
        (r.kind = .data → exec (.send f) s = .next (x.after s (x.countOut.andThen (x.unless (x.record
          (.send .dynamic p.toNat (r.lane0.extractLsb' 0 16) r.lane0 (x.tok .data a))))))) ∧
        (r.isBad = true → exec (.send f) s = .next (x.after s ((x.nullOuts f.c).andThen (x.unless (x.record .errCount))))) ∧
        (r.kind = .stop → exec (.send f) s = .next (x.after s (x.nullOuts f.c))))) ∧
    (∀ l r u, x.fields.l = some l → x.fields.r = some r → r.kind = .data →
      ((∃ a, x.dataTok l a ∧ u = x.tok .data a) ∨ (l.kind = .stop ∧ u = x.stopTok l.stopLevel)) →
      (firing (.steer f) s = some x →
        (r.lane0.getLsbD 0 = true → exec (.steer f) s = .next (x.after s ((x.deliver f.c.t0 u).andThen (x.nullOut f.c.t1)))) ∧
        (r.lane0.getLsbD 0 = false → exec (.steer f) s = .next (x.after s ((x.deliver f.c.t1 u).andThen (x.nullOut f.c.t0))))) ∧
      (firing (.merge f) s = some x → exec (.merge f) s = .next (x.after s (x.emit f.c u))) ∧
      (firing (.gate f) s = some x →
        (r.lane0.getLsbD 0 ≠ f.sub.getLsbD 0 → exec (.gate f) s = .next (x.after s (x.emit f.c u))) ∧
        (r.lane0.getLsbD 0 = f.sub.getLsbD 0 → exec (.gate f) s = .next (x.after s (x.nullOuts f.c)))))

/-- eos, stop, stopc and dmd send their control tokens. eos records an EOS, counted as an output, for each target port; stop
delivers a stop token of level SUB to both targets; stopc one of the level in lane 0 [3:0] of a data or stop token L, or null
outputs where that is 0; dmd records a demand token for channel SUB through the port T0 with the count in the low 16 bits of R lane
0 or of the immediate, or null outputs where that is 0. exec answers the next state in which the slot is consumed and that has
happened. -/
def Obligations.ControlTokensComplete : Prop :=
  ∀ (f : FormA) (s : State) (x : Ctx),
    let port (net : Net) (p : BitVec 5) : Act := x.unless (x.countOut.andThen (x.unless (x.record (.eos net p.toNat x.seq x.width))))
    (firing (.eos f) s = some x → ∀ net p, f.c.t0 = .port net p →
      (f.c.t1 = .null → exec (.eos f) s = .next (x.after s (port net p))) ∧
      (∀ net' p', f.c.t1 = .port net' p' → exec (.eos f) s = .next (x.after s ((port net p).andThen (port net' p'))))) ∧
    (firing (.stop f) s = some x → exec (.stop f) s = .next (x.after s (x.emit f.c (x.stopTok f.sub.toNat)))) ∧
    (firing (.stopc f) s = some x → ∀ t, x.fields.l = some t → t.isBad = false →
      ((t.lane0.extractLsb' 0 4).toNat ≠ 0 →
        exec (.stopc f) s = .next (x.after s (x.emit f.c (x.stopTok (t.lane0.extractLsb' 0 4).toNat)))) ∧
      ((t.lane0.extractLsb' 0 4).toNat = 0 → exec (.stopc f) s = .next (x.after s (x.nullOuts f.c)))) ∧
    (firing (.dmd f) s = some x → ∀ b p, x.dataB f b → f.c.t0 = .port .dynamic p →
      let n := (b.headD 0).toNat % 2 ^ 16
      (n ≠ 0 → exec (.dmd f) s = .next (x.after s (x.countOut.andThen
        (x.unless (x.record (.demand .dynamic p.toNat f.sub.toNat n x.seq)))))) ∧
      (n = 0 → exec (.dmd f) s = .next (x.after s (x.nullOuts f.c))))

/-- spawn, ctxa, ctxf and ctxq create, end and describe activations. On a data operand L of the context's width: spawn records, for
the commit, an explicit activation of the node and entry block it names with L as frame slot 0 and T0 as its reply target; ctxa
takes the first of the widths SUB + 1, then halves rounded up, for which a frame and the partition's room exist, records the
reservation with L and delivers the width and the frame, or 0 where there is none; ctxf records the end of the parked activation
that lane 0 [9:0] names, its status to leave at the commit; ctxq delivers the width, the wave, the frame and the block pointer in
lane 0. exec answers the next state in which the slot is consumed and that has happened. -/
def Obligations.ContextInstructionsComplete : Prop :=
  (∀ (f : FormC) (s : State) (x : Ctx) (t : Token) (a : List Lane), firing (.spawn f) s = some x → x.fields.l = some t → x.dataTok t a →
    exec (.spawn f) s = .next (x.after s (x.record (.spawn ⟨x.core, f.handle.toNat, f.entry, x.colour, t, t.seq,
      match f.c.t0 with
      | .window sl g => some ⟨x.core, x.colour, x.frame, x.a.uid, x.idx + 1, sl, g⟩
      | _ => none⟩)))) ∧
  (∀ (f : FormA) (s : State) (x : Ctx) (t : Token) (a : List Lane), x.fields.l = some t → x.dataTok t a →
    (firing (.ctxa f) s = some x →
      let k (g : Nat) : Bool := ((x.consume.run s).m.core x.core).grants x.colour (frameLines x.n.info.frame g + windowLines g)
      (∀ fr g, ((x.consume.run s).m.core x.core).freeFrame = some fr → (ctxWidths 6 (f.sub.toNat + 1)).find? k = some g →
        exec (.ctxa f) s = .next (x.after s ((x.record (.ctxa fr g t)).andThen
          (x.emit f.c (x.data [BitVec.ofNat 32 (g + fr * 2 ^ 16)]))))) ∧
      ((((x.consume.run s).m.core x.core).freeFrame = none ∨ (ctxWidths 6 (f.sub.toNat + 1)).find? k = none) →
        exec (.ctxa f) s = .next (x.after s (x.emit f.c (x.data [0]))))) ∧
    (firing (.ctxf f) s = some x →
      exec (.ctxf f) s = .next (x.after s ((x.nullOuts f.c).andThen
        (x.unless (x.record (.ctxf (t.lane0.extractLsb' 0 10).toNat (x.data []) f.c.t0 f.c.t1))))))) ∧
  (∀ (f : FormA) (s : State) (x : Ctx), firing (.ctxq f) s = some x →
    exec (.ctxq f) s = .next (x.after s (x.emit f.c (x.data [BitVec.ofNat 32
      (x.width + x.idx % 256 * 2 ^ 8 + x.frame % 1024 * 2 ^ 16 + x.w.block.toNat * 2 ^ 26)]))))

/-- cvt, cvts, dec and enc convert and pair data with scales. On a data operand L of the context's width (and R for dec): where the
conversion of L under the node's conversion word gives an error, its error token leaves; else cvt delivers its first half to T0 and
its second to T1, to a block format each with its scale token (a whole result as one pair to both targets), and cvts the data to T0
and the scale token to T1. dec delivers L's blocks with R's live scale bits on each target; enc the blocks of L to T0 and their
scale bits to T1. exec answers the next state in which the slot is consumed and that has happened. -/
def Obligations.ConversionsComplete : Prop :=
  ∀ (f : FormA) (s : State) (x : Ctx) (t : Token) (a b : List Lane), x.fields.l = some t → x.dataTok t a →
    let from_ := f.imm.toNat % 32
    let to_ := f.sub.toNat
    let res := convert (Conv.ofWord (x.n.info.cword.getD 0)) from_ to_ (x.scaleOf (x.consume.run s) t) x.width a
    let n := x.width / blockLanes to_ * blockLanes to_
    let blocks : List Lane := (a.take n ++ List.replicate x.width 0).take x.width
    (∀ e, res = .error e →
      (firing (.cvt f) s = some x → exec (.cvt f) s = .next (x.after s (x.emit f.c (x.err e)))) ∧
      (firing (.cvts f) s = some x → exec (.cvts f) s = .next (x.after s (x.emit f.c (x.err e))))) ∧
    (∀ r, res = .ok r →
      (firing (.cvt f) s = some x →
        (isBlockFmt to_ = false → exec (.cvt f) s = .next (x.after s
          ((x.deliver f.c.t0 (x.tok .data r.out0)).andThen (x.deliver f.c.t1 (x.tok .data r.out1))))) ∧
        (isBlockFmt to_ = true → fmtElems to_ x.width < fmtElems from_ x.width → exec (.cvt f) s = .next (x.after s
          ((x.deliverPair f.c.t0 (x.tok .data r.scale0) (x.tok .data r.out0)).andThen
            (x.deliverPair f.c.t1 (x.tok .data r.scale1) (x.tok .data r.out1))))) ∧
        (isBlockFmt to_ = true → ¬ fmtElems to_ x.width < fmtElems from_ x.width → exec (.cvt f) s = .next (x.after s
          ((x.deliverPair f.c.t0 (x.tok .data r.scale0) (x.tok .data r.out0)).andThen
            (x.deliverPair f.c.t1 (x.tok .data r.scale0) (x.tok .data r.out0)))))) ∧
      (firing (.cvts f) s = some x → exec (.cvts f) s = .next (x.after s
        ((x.deliver f.c.t0 (x.tok .data r.out0)).andThen (x.deliver f.c.t1 (x.tok .data r.scale0)))))) ∧
    (x.dataR b → firing (.dec f) s = some x → exec (.dec f) s = .next (x.after s (x.emitPair f.c
      (x.tok .data (natLanes 4 (liveScale to_ x.width (lanesNat (padLanes 4 b))))) (x.tok .data blocks)))) ∧
    (firing (.enc f) s = some x → exec (.enc f) s = .next (x.after s ((x.deliver f.c.t0 (x.tok .data blocks)).andThen
      (x.deliver f.c.t1 (x.data (natLanes 4 (liveScale to_ x.width (x.scaleOf (x.consume.run s) t))))))))

/-- An access checks its range, then its alignment, and waits with its pieces. An access of a memory operator whose displaced
address breaks the range of its space takes that space's fault with the address; else one whose address is not aligned as its size
asks takes MISALIGN with the address (R177 lists both checks; their order is log 40); any other is entered among the wave's pending
operators with the pieces of its range, in ascending order, and goes on with the first. -/
def Obligations.AccessesBegin : Prop :=
  ∀ (s : State) (x : Ctx) (sp : Space) (z : Size) (align : Nat) (kind : PendKind) (tok : Token),
    (∀ c, rangeFault sp (addrIn sp x.lanesL 0) x.disp (sizeBytes z x.width) = some c →
      (x.begin sp z align kind tok []).run s =
        (takeFault x.who c (if c = Code.xlate then XReason.range.code else 0) (x.va sp) x.seq 0).run s) ∧
    (rangeFault sp (addrIn sp x.lanesL 0) x.disp (sizeBytes z x.width) = none → x.va sp % align ≠ 0 →
      (x.begin sp z align kind tok []).run s = (takeFault x.who Code.misalign 0 (x.va sp) x.seq 0).run s) ∧
    (x.mayAccess sp z align → (x.begin sp z align kind tok []).run s = (x.access sp z kind tok).run s)

/-- ld, the chase of pointers and ldp begin their loads. On data operands of the context's width: ld of a size other than the
dual-scale blocks, whose address breaks no range and is aligned as the size asks, waits with its pieces and goes on with the first;
ld of dual-scale blocks, both of whose ranges are in bounds, waits with the pieces of the elements and then of the scales; a chase
(LNK) waits at its first hop with the limit of R lane 0 [15:0]; ldp, aligned to 4, waits for its word and the word's state. exec
answers the next state in which the slot is consumed and that has happened. -/
def Obligations.LoadsComplete : Prop :=
  ∀ (f : FormM) (s : State) (x : Ctx) (t : Token) (a : List Lane), x.fields.l = some t → x.dataTok t a →
    let tok : Token := { t with seq := x.seq }
    (firing (.ld f) s = some x → f.lnk = false →
      (f.sz ≠ .dsb8 → f.sz ≠ .dsb4 → x.mayAccess f.sp f.sz (if f.sz = .ln then 4 else 1) →
        exec (.ld f) s = .next (x.after s (x.access f.sp f.sz (.load f.sz) tok))) ∧
      (f.sz = .dsb8 ∨ f.sz = .dsb4 →
        let nb := x.width / blockLanes (if f.sz = .dsb8 then 0x0D else 0x0E)
        let len := nb * sizeScale f.sz
        let e := addrIn f.sp a 0
        let c := addrIn f.sp a 1
        rangeFault f.sp e x.disp len = none → rangeFault f.sp c (f.off.toNat * 2) (2 * nb) = none →
        exec (.ld f) s = .next (x.after s ((x.pend ⟨x.slot, .dsb len c (2 * nb), tok, f.sp, addrSum f.sp e x.disp,
          linePieces 40 (addrSum f.sp e x.disp) len ++ linePieces 40 (addrSum f.sp c (f.off.toNat * 2)) (2 * nb), [], [], [], none,
          .issue⟩).andThen (advance maxPieces x.who))))) ∧
    (firing (.ldLnk f) s = some x → ∀ b, x.dataR b →
      let limit := (b.headD 0).toNat % 2 ^ 16
      let p : Pend := ⟨x.slot, .link 0 limit (f.sz = .b64), tok, f.sp, addrIn f.sp a 0, [], [], [], [], none, .issue⟩
      exec (.ldLnk f) s = .next (x.after s (Act.seq [x.pend p, chaseStep x.who x p 0 limit (f.sz = .b64), .look fun s =>
        if goesOn s x.who then advance maxPieces x.who else .quiet]))) ∧
    (firing (.ldp f) s = some x → x.mayAccess f.sp .b32 4 →
      exec (.ldp f) s = .next (x.after s (x.access f.sp .b32 .ldp tok)))

/-- st, clr and the eleven atomics begin their accesses. Where the address operand is data of the context's width and its access
breaks no range and is aligned (a lane store to 4, an atomic to its size): st of a data R waits with the low bytes of R's lanes as
the value to be stored, st of an error R with the error; clr waits with the emptying of its words; each atomic, with data R, with
its operation and R's lanes. A stop, poison or bad-address store is a null store in its place. exec answers the next state in which
the slot is consumed and that has happened. -/
def Obligations.StoresAndAtomicsComplete : Prop :=
  (∀ (f : FormM) (s : State) (x : Ctx) (t r : Token) (a : List Lane), x.fields.l = some t → x.dataTok t a →
    (firing (.st f) s = some x → x.fields.r = some r →
      (∀ b, x.dataTok r b → x.mayAccess f.sp f.sz (if f.sz = .ln then 4 else 1) →
        exec (.st f) s = .next (x.after s (x.access f.sp f.sz
          (.store (.store (.bytes ((laneBytes b).take (sizeBytes f.sz x.width)))) f.sqo.toNat) t))) ∧
      (r.kind = .error → x.mayAccess f.sp f.sz (if f.sz = .ln then 4 else 1) →
        exec (.st f) s = .next (x.after s (x.access f.sp f.sz (.store (.store (.err r.code)) f.sqo.toNat) t))) ∧
      (r.kind = .stop ∨ r.kind = .poison → exec (.st f) s = .next (x.after s (x.nullStore { r with kind := .stop })))) ∧
    (firing (.clr f) s = some x → x.mayAccess f.sp f.sz (if f.sz = .ln then 4 else 1) →
      exec (.clr f) s = .next (x.after s (x.access f.sp f.sz (.store .clr f.sqo.toNat) t)))) ∧
  (∀ (f : FormM) (s : State) (x : Ctx) (t : Token), x.fields.l = some t → t.kind ≠ .data →
    (firing (.st f) s = some x → exec (.st f) s = .next (x.after s (x.nullStore t))) ∧
    (firing (.clr f) s = some x → exec (.clr f) s = .next (x.after s (x.nullStore t)))) ∧
  (∀ p ∈ ([(.aadd, .add), (.amin, .min), (.amax, .max), (.aminn, .minn), (.amaxn, .maxn), (.aand, .and), (.aor, .or), (.axor, .xor),
      (.aswp, .swp), (.acas, .cas), (.afadd, .fadd)] : List ((FormM → Instr) × AtomicOp)),
    ∀ (f : FormM) (s : State) (x : Ctx) (t : Token) (a b : List Lane), firing (p.1 f) s = some x → x.fields.l = some t →
      x.dataTok t a → x.dataR b → x.mayAccess f.sp f.sz (sizeScale f.sz) →
      exec (p.1 f) s = .next (x.after s (x.access f.sp f.sz (.store (.atomic p.2 b) f.sqo.toNat) { t with seq := x.seq })))

/-- vcset, vcget, sclset and fence complete. On a data operand of the context's width: vcset of a legal control word to an entry
that no island has locked records the write for the commit, an illegal word takes VC_VALUE and a locked entry VC_LOCKED; sclset
records the entry's scale words. vcget delivers the entry's control word and scale words, or with the second type its scale words
alone. fence, where its gate lets it fire, is performed in its place in the chain. exec answers the next state in which the slot is
consumed and that has happened. -/
def Obligations.ChannelTableAndFenceComplete : Prop :=
  (∀ (f : FormA) (s : State) (x : Ctx),
    (∀ t a, x.fields.l = some t → x.dataTok t a →
      (firing (.vcset f) s = some x →
        let e := Ctx.entry (x.consume.run s) x f.sub.toNat
        (vcValueOk (a.headD 0) = true → e.locked = false →
          exec (.vcset f) s = .next (x.after s (x.record (.vcset f.sub.toNat (a.headD 0))))) ∧
        (vcValueOk (a.headD 0) = false → exec (.vcset f) s = .next (x.after s (x.fault Code.vcValue))) ∧
        (vcValueOk (a.headD 0) = true → e.locked = true → exec (.vcset f) s = .next (x.after s (x.fault Code.vcLocked)))) ∧
      (firing (.sclset f) s = some x → exec (.sclset f) s = .next (x.after s (x.record (.sclset f.sub.toNat (a.take 4)))))) ∧
    (firing (.vcget f) s = some x →
      let e := Ctx.entry (x.consume.run s) x f.sub.toNat
      (f.ty = 0 → exec (.vcget f) s = .next (x.after s (x.emit f.c (x.data (e.ctl :: natLanes 4 e.scale.toNat))))) ∧
      (f.ty ≠ 0 → exec (.vcget f) s = .next (x.after s (x.emit f.c (x.data (natLanes 4 e.scale.toNat))))))) ∧
  (∀ (f : FormM) (s : State) (x : Ctx), firing (.fence f) s = some x → x.ins = some (0x134, .m f) →
    exec (.fence f) s = .next (x.after s (x.unless (x.performed f.sqo f.sqs))))

/-- The capsule instructions record their changes for the commit, in slot order. capgo, cappark, capdel, capfork and capnx with an
index record their change; capnx, cappush, capins, caprep and capst with a data operand L of the context's width record theirs with
the index or entry that its lanes hold (capst with R as the chunk). An error or poison L changes nothing and is counted in the error
sink at the commit (R144 gives no moment: log 39); a stop changes nothing. exec answers the next state in which the slot is consumed
and that has happened. -/
def Obligations.CapsuleChangesAreRecorded : Prop :=
  ∀ (f : FormK) (s : State) (x : Ctx),
    (firing (.capgo f) s = some x → exec (.capgo f) s = .next (x.after s (x.record (.cap .go)))) ∧
    (firing (.cappark f) s = some x → exec (.cappark f) s = .next (x.after s (x.record (.cap (.park (f.kimm.extractLsb' 0 8)))))) ∧
    (firing (.capdel f) s = some x → exec (.capdel f) s = .next (x.after s (x.record (.cap (.del f.ent.toNat))))) ∧
    (firing (.capfork f) s = some x → exec (.capfork f) s = .next (x.after s (x.record (.cap (.fork f.ent.toNat))))) ∧
    (firing (.capnxIndex f) s = some x → exec (.capnxIndex f) s = .next (x.after s (x.record (.cap (.next f.ent.toNat))))) ∧
    (∀ t, x.fields.l = some t →
      let e : Word := (t.lanes.getD 1 0) ++ (t.lanes.getD 0 0)
      (∀ a, x.dataTok t a →
        (firing (.capnxOperand f) s = some x →
          exec (.capnxOperand f) s = .next (x.after s (x.record (.cap (.next (t.lane0.extractLsb' 0 4).toNat))))) ∧
        (firing (.cappush f) s = some x → exec (.cappush f) s = .next (x.after s (x.record (.cap (.push e))))) ∧
        (firing (.capins f) s = some x → exec (.capins f) s = .next (x.after s (x.record (.cap (.ins f.ent.toNat e))))) ∧
        (firing (.caprepWhole f) s = some x → exec (.caprepWhole f) s = .next (x.after s (x.record (.cap (.rep f.ent.toNat e))))) ∧
        (firing (.caprepPlace f) s = some x →
          exec (.caprepPlace f) s = .next (x.after s (x.record (.cap (.repPlace f.ent.toNat (t.lane0.extractLsb' 0 16)))))) ∧
        (firing (.capst f) s = some x → ∀ r, x.fields.r = some r → (r.kind = .data → r.lanes.length = x.width) →
          exec (.capst f) s = .next (x.after s (x.record (.cap (.st t.lane0.toNat r)))))) ∧
      (∀ i ∈ ([.capnxOperand, .cappush, .capins, .caprepWhole, .caprepPlace, .capst] : List (FormK → Instr)), firing (i f) s = some x →
        (t.isBad = true → exec (i f) s = .next (x.after s (x.record .errCount))) ∧
        (t.kind = .stop → exec (i f) s = .next (x.consume.run s))))

/-- capn, capld, capjoin and caphd read and make capsules. Each completes: exec answers the next state in which the slot is consumed
and what follows has happened. With a capsule held, caphd delivers half of a header word, half of an itinerary entry, or ARG of the
visited entry (0 for none) in lane 0; with data of the context's width in L, capld delivers chunk L lane 0 of the tile, and capjoin
that chunk of part KIMM of a completed join, where the index is below the chunks, as poison where a word of it is beyond correction
(R173, log 50). With such an L, no capsule held and a buffer of the core free, capn takes the buffer, delivers L and records the
capsule to be made of its class (R lane 0 its return address where KIMM names one), or adopted from the spoil. Where they fault:
without a capsule caphd, capld and capjoin take CAP_NONE, beyond the chunks capld and capjoin take CAP_RANGE, and with one held capn
takes CAP_HELD. -/
def Obligations.CapsuleReadsComplete : Prop :=
  (∀ (f : FormK) (s : State) (x : Ctx) (h : Held), firing (.caphdWord f) s = some x → (Instr.caphdWord f).wf = true → x.a.held = some h →
    let w : Word := h.cap.header.getD f.kimm.toNat 0
    exec (.caphdWord f) s = .next (x.after s (x.emit f.c (x.data [if f.kvar = 1 then w.extractLsb' 32 32 else w.extractLsb' 0 32])))) ∧
  (∀ (f : FormK) (s : State) (x : Ctx) (h : Held), firing (.caphdEntry f) s = some x → (Instr.caphdEntry f).wf = true → x.a.held = some h →
    let w : Word := h.cap.entry f.ent.toNat
    exec (.caphdEntry f) s = .next (x.after s (x.emit f.c (x.data [if f.kvar = 3 then w.extractLsb' 32 32 else w.extractLsb' 0 32])))) ∧
  (∀ (f : FormK) (s : State) (x : Ctx) (h : Held), firing (.caphdArg f) s = some x → x.a.held = some h →
    exec (.caphdArg f) s = .next (x.after s (x.emit f.c (x.data
      [if h.cap.vent = 15 then 0 else ((h.cap.entry h.cap.vent).extractLsb' 0 26).zeroExtend 32])))) ∧
  (∀ (f : FormK) (s : State) (x : Ctx) (h : Held) (t : Token) (a : List Lane), firing (.capld f) s = some x → x.a.held = some h →
    x.fields.l = some t → x.dataTok t a → t.lane0.toNat < h.cap.chunks x.width →
    (h.cap.chunkHurt x.width t.lane0.toNat = false →
      exec (.capld f) s = .next (x.after s (x.emit f.c (x.data (h.cap.chunk x.width t.lane0.toNat))))) ∧
    (h.cap.chunkHurt x.width t.lane0.toNat = true →
      exec (.capld f) s = .next (x.after s (x.emit f.c (x.tok .poison (h.cap.chunk x.width t.lane0.toNat)))))) ∧
  (∀ (f : FormK) (s : State) (x : Ctx) (h : Held) (c : Capsule) (t : Token) (a : List Lane), firing (.capjoin f) s = some x →
    x.a.held = some h → h.joined = true → h.cap.pidx = 0 → f.kimm.toNat % 16 ≤ h.cap.parts →
    (if f.kimm.toNat % 16 = 0 then some h.cap else h.parts.find? fun c => c.pidx == f.kimm.toNat % 16) = some c →
    x.fields.l = some t → x.dataTok t a → t.lane0.toNat < c.chunks x.width →
    (c.chunkHurt x.width t.lane0.toNat = false →
      exec (.capjoin f) s = .next (x.after s (x.emit f.c (x.data (c.chunk x.width t.lane0.toNat))))) ∧
    (c.chunkHurt x.width t.lane0.toNat = true →
      exec (.capjoin f) s = .next (x.after s (x.emit f.c (x.tok .poison (c.chunk x.width t.lane0.toNat)))))) ∧
  (∀ (f : FormK) (s : State) (x : Ctx) (t : Token) (a : List Lane), firing (.capnNew f) s = some x → f.kvar = 0 →
    x.fields.l = some t → x.dataTok t a → x.a.held = none → x.w.buffer = false →
    ((x.consume.run s).m.core x.core).bufReqs = [] → ((x.consume.run s).m.core x.core).buffers.length < 2 →
    (f.kimm.getLsbD 8 = false → x.fields.r = none →
      exec (.capnNew f) s = .next (x.after s (capnTake x.who { t with seq := x.seq } (.new (f.kimm.toNat % 256) false
        { t with seq := x.seq } 0)))) ∧
    (∀ r b, f.kimm.getLsbD 8 = true → x.fields.r = some r → x.dataTok r b →
      exec (.capnNew f) s = .next (x.after s (capnTake x.who { t with seq := x.seq } (.new (f.kimm.toNat % 256) true
        { t with seq := x.seq } r.lane0))))) ∧
  (∀ (f : FormK) (s : State) (x : Ctx) (t : Token) (a : List Lane) (p : Parked), firing (.capnAdopt f) s = some x → f.kvar = 1 →
    x.fields.l = some t → x.dataTok t a → x.fields.r = none → x.a.held = none → x.w.buffer = false →
    ((x.consume.run s).m.core x.core).bufReqs = [] → ((x.consume.run s).m.core x.core).buffers.length < 2 →
    ((x.consume.run s).m.pkg.parked.find? fun p => p.handle == t.lane0.toNat) = some p → x.colour = 0 ∨ x.colour = p.colour →
    exec (.capnAdopt f) s = .next (x.after s (capnTake x.who { t with seq := x.seq } (.adopt t.lane0.toNat)))) ∧
  (∀ i ∈ ([.caphdWord, .caphdEntry, .caphdArg] : List (FormK → Instr)), ∀ f s x, firing (i f) s = some x → x.a.held = none →
    exec (i f) s = .next (x.after s (x.fault Code.capNone))) ∧
  (∀ i ∈ ([.capld, .capjoin] : List (FormK → Instr)), ∀ f s x t a, firing (i f) s = some x → x.a.held = none →
    x.fields.l = some t → x.dataTok t a → exec (i f) s = .next (x.after s (x.fault Code.capNone))) ∧
  (∀ (f : FormK) (s : State) (x : Ctx) (h : Held) (t : Token) (a : List Lane), firing (.capld f) s = some x → x.a.held = some h →
    x.fields.l = some t → x.dataTok t a → h.cap.chunks x.width ≤ t.lane0.toNat →
    exec (.capld f) s = .next (x.after s (x.fault Code.capRange))) ∧
  (∀ (f : FormK) (s : State) (x : Ctx) (h : Held) (c : Capsule) (t : Token) (a : List Lane), firing (.capjoin f) s = some x →
    x.a.held = some h → h.joined = true → h.cap.pidx = 0 → f.kimm.toNat % 16 ≤ h.cap.parts →
    (if f.kimm.toNat % 16 = 0 then some h.cap else h.parts.find? fun c => c.pidx == f.kimm.toNat % 16) = some c →
    x.fields.l = some t → x.dataTok t a → c.chunks x.width ≤ t.lane0.toNat →
    exec (.capjoin f) s = .next (x.after s (x.fault Code.capRange))) ∧
  (∀ (f : FormK) (s : State) (x : Ctx) (t : Token) (a : List Lane), firing (.capnAdopt f) s = some x → f.kvar = 1 →
    x.fields.l = some t → x.dataTok t a → x.fields.r = none → x.a.held.isSome = true →
    exec (.capnAdopt f) s = .next (x.after s (x.fault Code.capHeld))) ∧
  (∀ (f : FormK) (s : State) (x : Ctx) (t : Token) (a : List Lane), firing (.capnNew f) s = some x → f.kvar = 0 →
    x.fields.l = some t → x.dataTok t a → f.kimm.getLsbD 8 = false → x.fields.r = none → x.a.held.isSome = true →
    exec (.capnNew f) s = .next (x.after s (x.fault Code.capHeld)))

/-- isect matches each coordinate of L against R. On data operands of the context's width, with PAD the lane 0xFFFFFFFF: lane i of
what isect delivers to T0 is the lowest j, below the first PAD of R, whose lane of R is lane i of L, where i lies below the first
PAD of L and there is such a j, and else 0xFFFFFFFF; what it delivers to T1 has in lane 0 the number of lanes of T0's that are not
0xFFFFFFFF, and zeros in the others. exec answers the next state in which the slot is consumed and those tokens leave. The example
(1, 4, 7, PAD) and (4, 5, 7, 9) gives (PAD, 0, 2, PAD) and 2. -/
def Obligations.IntersectionMatches : Prop :=
  (∀ (f : FormA) (s : State) (x : Ctx) (t : Token) (a b : List Lane), firing (.isect f) s = some x → x.fields.l = some t → x.dataTok t a →
    x.dataR b → ∃ out : List Lane,
      out.length = x.width ∧
      (∀ i < x.width, (∃ k ≤ i, a.getD k 0 = 0xFFFFFFFF) → out.getD i 0 = 0xFFFFFFFF) ∧
      (∀ i < x.width, (∀ k ≤ i, a.getD k 0 ≠ 0xFFFFFFFF) →
        (∀ j < x.width, (∀ k ≤ j, b.getD k 0 ≠ 0xFFFFFFFF ∧ (k < j → b.getD k 0 ≠ a.getD i 0)) → b.getD j 0 = a.getD i 0 →
          out.getD i 0 = BitVec.ofNat 32 j) ∧
        ((∀ j < x.width, (∀ k ≤ j, b.getD k 0 ≠ 0xFFFFFFFF) → b.getD j 0 ≠ a.getD i 0) → out.getD i 0 = 0xFFFFFFFF)) ∧
      exec (.isect f) s = .next (x.after s ((x.deliver f.c.t0 (x.tok .data out)).andThen (x.deliver f.c.t1 (x.data
        [BitVec.ofNat 32 (out.countP fun v => v != 0xFFFFFFFF)]))))) ∧
  isectLanes [1, 4, 7, 0xFFFFFFFF] [4, 5, 7, 9] = [0xFFFFFFFF, 0, 2, 0xFFFFFFFF]

/-- union merges two ascending lists without repeats and delivers both halves. On data operands of the context's width that hold
strictly ascending coordinates before their first PAD: there is one strictly ascending list of the coordinates that stand in either
operand; T0 receives its first w lanes and T1 its next w, padded with PAD, and exec answers the next state in which the slot is
consumed and those tokens leave. On any lists T0 and T1 receive what the loop of the rule gives. -/
def Obligations.UnionMerges : Prop :=
  (∀ (f : FormA) (s : State) (x : Ctx) (t : Token) (a b : List Lane), firing (.union f) s = some x → x.fields.l = some t → x.dataTok t a →
    x.dataR b →
    (let m := unionLanes (2 * x.width + 1) a b []
     exec (.union f) s = .next (x.after s ((x.deliver f.c.t0 (x.data (padPad x.width m))).andThen
        (x.deliver f.c.t1 (x.data (padPad x.width (m.drop x.width))))))) ∧
    ((coords a).Pairwise (fun p q => p.toNat < q.toNat) → (coords b).Pairwise (fun p q => p.toNat < q.toNat) →
      (∀ i < x.width, (coords a).length ≤ i → a.getD i 0 = 0xFFFFFFFF) → (∀ i < x.width, (coords b).length ≤ i → b.getD i 0 = 0xFFFFFFFF) →
      ∃ m : List Lane, m.Pairwise (fun p q => p.toNat < q.toNat) ∧ (∀ v, v ∈ m ↔ v ∈ coords a ∨ v ∈ coords b) ∧
        exec (.union f) s = .next (x.after s ((x.deliver f.c.t0 (x.data (padPad x.width m))).andThen
          (x.deliver f.c.t1 (x.data (padPad x.width (m.drop x.width)))))))) ∧
  unionLanes 9 [1, 4, 7, 0xFFFFFFFF] [4, 5, 7, 9] [] = [1, 4, 5, 7, 9]

/-- tlook, tins, tinv, the four forms of tset and twait complete. On data operands: tlook and tins with an address below 2^48, and
tinv, wait for the tag unit, which is sent their event; an address from 2^48 on takes TAG_ADDR. A form of tset records its
transition for the commit where its entry lies in one site (ready and bind, else TILE_RANGE), its colour is neither 0 nor another
than the tile's (else TILE_COLOUR), and it meets no other tile's lines (ready, else TILE_OVERLAP). twait of colour 0 or the tile's
colour waits for one answer of the tile's port, another colour's takes TILE_COLOUR. exec answers the next state in which the slot is
consumed and that has happened. -/
def Obligations.TagsAndTilesComplete : Prop :=
  ∀ (f : FormA) (s : State) (x : Ctx) (t : Token) (a : List Lane), x.fields.l = some t → x.dataTok t a →
    let u := x.consume.run s
    let tok : Token := { t with seq := x.seq }
    let addr := addrIn .g a 0
    let tile := bits (a.headD 0).toNat 0 8
    let w := a.getD 1 0
    let k := u.m.cluster (clusterOf x.core)
    (firing (.tlook f) s = some x →
      (addr < 2 ^ 48 → exec (.tlook f) s = .next (x.after s ((x.await .look tok).andThen (sendTag (x.tagEv (.look addr) false))))) ∧
      (2 ^ 48 ≤ addr → exec (.tlook f) s = .next (x.after s (x.faultAt Code.tagAddr addr)))) ∧
    (firing (.tins f) s = some x → ∀ b, x.dataB f b →
      (let op := TagOp.ins addr (bits (b.headD 0).toNat 8 2) (bits (b.headD 0).toNat 0 8)
       addr < 2 ^ 48 → exec (.tins f) s = .next (x.after s ((x.await (.tinst op) tok).andThen (sendTag (x.tagEv op false))))) ∧
      (2 ^ 48 ≤ addr → exec (.tins f) s = .next (x.after s (x.faultAt Code.tagAddr addr)))) ∧
    (firing (.tinv f) s = some x →
      let op := TagOp.inv (bits (a.headD 0).toNat 0 8) (bits (a.headD 0).toNat 8 2)
      exec (.tinv f) s = .next (x.after s ((x.await (.tinst op) tok).andThen (sendTag (x.tagEv op false))))) ∧
    (∀ p ∈ ([(.tsetEmpty, false, false, .setEmpty), (.tsetReady, true, true, .setReady w), (.tsetBind, true, false, .setBind w),
        (.tsetFree, false, false, .setFree)] : List ((FormA → Instr) × Bool × Bool × TileOp)), firing (p.1 f) s = some x →
      let mine := x.colour ≠ 0 ∧ (tileCol (k.copyOf tile) = 0 ∨ tileCol (k.copyOf tile) = x.colour)
      ((p.2.1 = true → tileInSite w = true) → mine → (p.2.2.1 = true → k.overlaps tile w = false) →
        exec (p.1 f) s = .next (x.after s (x.record (.tile tile p.2.2.2)))) ∧
      (p.2.1 = true → tileInSite w = false → exec (p.1 f) s = .next (x.after s (x.fault Code.tileRange))) ∧
      ((p.2.1 = true → tileInSite w = true) → ¬ mine → exec (p.1 f) s = .next (x.after s (x.fault Code.tileColour))) ∧
      ((p.2.1 = true → tileInSite w = true) → mine → p.2.2.1 = true → k.overlaps tile w = true →
        exec (p.1 f) s = .next (x.after s (x.fault Code.tileOverlap)))) ∧
    (firing (.twait f) s = some x →
      let e : TileEv := ⟨x.who, clusterOf x.core, tile, .wait (f.sub.setWidth 2)⟩
      (x.colour = 0 ∨ tileCol (k.copyOf tile) = x.colour →
        exec (.twait f) s = .next (x.after s ((x.await .twait tok).andThen (send x.core (e.port u) .q0 (.tile e))))) ∧
      (x.colour ≠ 0 → tileCol (k.copyOf tile) ≠ x.colour → exec (.twait f) s = .next (x.after s (x.fault Code.tileColour))))

/-- spacc, spdr and the barrier instructions record their events for the commit. On data operands of the context's width: spacc
delivers L to its targets and records the pairs for the tile of R [7:0], as float sums where SUB is 8; spdr with the port T0 counts
an output and records the drain. binit with a count other than 0, bjoin, barv, bwait and bleave record their event for an index
below the scope's entries; else they take BAR_RANGE. A block outside capsules whose one commit effect is a bjoin takes BAR_REJOIN
where its activation is enrolled in that entry, else BAR_LIMIT where it is in four, at the commit (log 135). exec answers the next
state in which the slot is consumed and that has happened. -/
def Obligations.SparseAndBarriersComplete : Prop :=
  ∀ (f : FormA) (s : State) (x : Ctx) (t : Token) (a : List Lane), x.fields.l = some t → x.dataTok t a →
    let scope := bits f.sub.toNat 0 3
    let idx := bits (a.headD 0).toNat 0 6
    let ev (op : BarOp) (r : Option Reply) : CAct := x.barEv scope idx op t r
    (∀ b, x.dataB f b →
      (firing (.spacc f) s = some x → exec (.spacc f) s = .next (x.after s ((x.emit f.c (x.pass t)).andThen
        (x.unless (x.record (.tile (bits (b.headD 0).toNat 0 8) (.spacc (f.sub = 8) a))))))) ∧
      (firing (.spdr f) s = some x → ∀ net p, f.c.t0 = .port net p → exec (.spdr f) s = .next (x.after s (x.countOut.andThen (x.unless
        (x.record (.spdr (bits (b.headD 0).toNat 0 8) f.sub.toNat { x.pass t with seq := x.seq } net p.toNat)))))) ∧
      (firing (.binit f) s = some x → idx < barEntries scope →
        (bits (b.headD 0).toNat 0 12 ≠ 0 →
          exec (.binit f) s = .next (x.after s (x.record (ev (.init (bits (b.headD 0).toNat 0 12)) none)))) ∧
        (bits (b.headD 0).toNat 0 12 = 0 → exec (.binit f) s = .next (x.after s (x.fault Code.barRange)))) ∧
      (firing (.binit f) s = some x → barEntries scope ≤ idx → exec (.binit f) s = .next (x.after s (x.fault Code.barRange)))) ∧
    (firing (.bjoin f) s = some x → idx < barEntries scope →
      exec (.bjoin f) s = .next (x.after s (x.record (ev .join none)))) ∧
    (∀ i r, x.w.acts = [(i, ev .join r)] → x.a.kind ≠ .capsule →
      (⟨scope, idx⟩ ∈ x.a.enrol → x.commitFault s = some (i, Code.barRejoin)) ∧
      (⟨scope, idx⟩ ∉ x.a.enrol → 4 ≤ x.a.enrol.length → x.commitFault s = some (i, Code.barLimit)) ∧
      (⟨scope, idx⟩ ∉ x.a.enrol → x.a.enrol.length < 4 → x.commitFault s = none)) ∧
    (firing (.barv f) s = some x → idx < barEntries scope → exec (.barv f) s = .next (x.after s (x.record (ev .arrive none)))) ∧
    (firing (.bwait f) s = some x → idx < barEntries scope →
      exec (.bwait f) s = .next (x.after s (x.record (ev (.wait 0) (x.replyTarget f.c))))) ∧
    (firing (.bleave f) s = some x → idx < barEntries scope → exec (.bleave f) s = .next (x.after s (x.record (ev .leave none)))) ∧
    (∀ i ∈ ([.bjoin, .barv, .bwait, .bleave] : List (FormA → Instr)), firing (i f) s = some x → barEntries scope ≤ idx →
      exec (i f) s = .next (x.after s (x.fault Code.barRange)))

/-- Every engine command is recorded for the commit with its trigger, its parameters and its reply target. Where no token of the
parameter slots is an error, a poison or a stop: each command of the streamers, matrix islands, seal engines and the fabric is
recorded for the commit with the command's kind as its parameter block gives it, and a parameter that breaks the checks of its
instruction takes that fault instead (a misaligned record, a collective's or a report's parameter). A bad parameter leaves at T0 at
the context's width (log 16) and is counted at the commit (log 39). That a misaligned record of sealo is MISALIGN is log 55. exec
answers the next state in which the slot is consumed and that has happened. -/
def Obligations.CommandsAreRecorded : Prop :=
  ∀ (f : FormX) (s : State) (x : Ctx),
    let ps (n : Nat) : List (List Lane) := (upFrom n f.pbase.toNat).map fun k => (x.a.slotTok k).lanes
    let clean (n : Nat) : Prop := ∀ k, f.pbase.toNat ≤ k → k < f.pbase.toNat + n →
      (x.a.slotTok k).isBad = false ∧ (x.a.slotTok k).kind ≠ .stop
    let cmd (k : CmdKind) : Act := x.record (.cmd ⟨x.who, x.a.cfg, x.width, x.trigger, x.replyTarget f.c, k⟩)
    let lane (n p i : Nat) : Lane := BitVec.ofNat 32 (param (ps n) p i)
    let g (n p : Nat) : Nat := paramAddr .g (ps n) p
    let does (i : FormX → Instr) (a : Act) : Prop := firing (i f) s = some x → exec (i f) s = .next (x.after s a)
    (let src := srcSpace f; let dst := dstSpace f; let a := paramAddr src (ps 3) 0; let b := paramAddr dst (ps 3) 1; let n := param (ps 3) 2 0
     clean 3 → (spaceBreach src a n).1 = false → (spaceBreach dst b n).1 = false → (src = dst → meets a n b n = true → b ≤ a) →
       does .cpy (cmd (.cpy src dst a b n))) ∧
    (let src := srcSpace f; let dst := dstSpace f; let ix := ixSpace f
     let a := paramAddr src (ps 4) 0; let b := paramAddr dst (ps 4) 1; let i := paramAddr ix (ps 4) 2; let n := bits (param (ps 4) 3 0) 0 24
     let z := elemSize (bits f.flags.toNat 0 3)
     clean 4 → bits (param (ps 4) 3 0) 24 8 = 0 → i % 4 = 0 → a % z = 0 → b % z = 0 → (spaceBreach ix i (4 * n)).1 = false →
       ((spaceBreach dst b (n * z)).1 = false → (dst = ix → meets b (n * z) i (4 * n) = false) → does .gath (cmd (.gath src dst ix a b i n z))) ∧
       ((spaceBreach src a (n * z)).1 = false → does .scat (cmd (.scat src dst ix a b i n z)))) ∧
    (clean 2 → bits (param (ps 2) 1 0) 8 24 = 0 →
      (paramAddr (srcSpace f) (ps 2) 0 % 128 = 0 →
        does .tfill (cmd (.tfill (srcSpace f) (paramAddr (srcSpace f) (ps 2) 0) (param (ps 2) 1 0)))) ∧
      (paramAddr (dstSpace f) (ps 2) 0 % 128 = 0 →
        does .tdrain (cmd (.tdrain (dstSpace f) (paramAddr (dstSpace f) (ps 2) 0) (param (ps 2) 1 0) (f.flags.getLsbD 5))))) ∧
    (clean 3 → does .mxb (cmd (.mxb (lane 3 0 0) (lane 3 1 0) (lane 3 2 0)))) ∧
    does .mxz (cmd .mxz) ∧
    (clean 1 → does .mxr (cmd (.mxr (f.var.getLsbD 0) (lane 1 0 0)))) ∧
    does .mxck (cmd (.mxck (f.var.getLsbD 0))) ∧
    (clean 2 →
      (g 2 0 % 128 = 0 → does .sealo (cmd (.sealo (ps 2 ++ [[BitVec.ofNat 32 (f.flags.toNat % 256)]])))) ∧
      (g 2 0 % 128 ≠ 0 → does .sealo (x.fault Code.misalign))) ∧
    (clean 1 → does .sealc (cmd (.sealc (ps 1)))) ∧
    (clean 1 → does .seals (cmd (.seals (ps 1)))) ∧
    (∀ p ∈ ([(.collAllReduce, 0), (.collReduceScatter, 1), (.collAllGather, 2), (.collBroadcast, 3)] : List ((FormX → Instr) × Nat)),
      let ty := f.flags.toNat % 32
      let ok := g 6 2 % 4 = 0 ∧ g 6 3 % 4 = 0 ∧ param (ps 6) 4 0 % (if ty = 1 then 8 else 4) = 0 ∧ bits (param (ps 6) 5 1) 12 20 = 0
      clean 6 →
        (ok → does p.1 (cmd (.coll p.2 (f.var.toNat % 8) ty (f.flags.getLsbD 5 || (x.consume.run s).confDet x.a.cfg) (ps 6)))) ∧
        (¬ ok → does p.1 (x.fault Code.collParam))) ∧
    (clean 1 →
      let v := param (ps 1) 0 0
      (bits v 0 6 ≤ 33 → bits v 6 9 = 0 → bits v 28 4 = 0 → does .lnkr (cmd (.lnkr (ps 1)))) ∧
      (33 < bits v 0 6 → does .lnkr (x.fault Code.lnkParam)) ∧
      (bits v 4 28 = 0 → does .trgen (cmd (.trgen (ps 1)))) ∧
      (bits v 4 28 ≠ 0 → does .trgen (x.fault Code.lnkParam)) ∧
      does .collab (cmd (.collab (f.var.getLsbD 0) (ps 1)))) ∧
    (∀ i ∈ ([.mxr, .sealc, .seals, .lnkr, .trgen, .collab] : List (FormX → Instr)), (x.a.slotTok f.pbase.toNat).isBad = true →
      does i ((x.deliver0 f.c (x.pass (x.a.slotTok f.pbase.toNat))).andThen (x.unless (x.record .errCount))))

/-- xfence, trap, sysr, sysw, fltr, resume, plook, cntr and yield complete. xfence, where its gate lets it fire, delivers its mask;
trap takes TRAP with its code in DETAIL and L's tag in ADDR; sysr delivers the lanes of its register, the cycle count a free value
(log 3). On data L of the context's width: sysw records a request laid out as its register asks, its reserved fields ignored, and
another takes SYS_VALUE; fltr of its own colour (or by colour 0), number 1 or more, waits for the 32 bytes of the record; resume
records the restart; plook delivers the site word and reason; cntr sends its read to the counter and waits, or records that it is
read and cleared; yield records its request. exec answers the next state in which the slot is consumed and that has happened. -/
def Obligations.DieInstructionsComplete : Prop :=
  (∀ (f : FormA) (s : State) (x : Ctx),
    let u := x.consume.run s
    (firing (.xfence f) s = some x → exec (.xfence f) s = .next (x.after s ((Act.when ((xfenceMask f).testBit classH)
      (dropFetched x.core x.colour)).andThen (x.emit f.c (x.data [BitVec.ofNat 32 (xfenceMask f)]))))) ∧
    (firing (.yield f) s = some x →
      exec (.yield f) s = .next (x.after s (x.record (.yield (f.sub.getLsbD 0) x.seq (x.replyTarget f.c))))) ∧
    (∀ t, x.fields.l = some t →
      let tok : Token := { t with seq := x.seq }
      (firing (.trap f) s = some x →
        exec (.trap f) s = .next (x.after s (x.faultDetail Code.trap (f.imm.toNat % 2 ^ 16) (x.tagOf tok)))) ∧
      (∀ a, x.dataTok t a →
        (let c : Colour := BitVec.ofNat 8 (a.getD 0 0).toNat
         let n := (a.getD 1 0).toNat
         firing (.fltr f) s = some x →
          (x.colour = 0 ∨ c = x.colour → n ≠ 0 → u.bound c = true → ∀ p, u.recordAddr c n = some p →
            exec (.fltr f) s = .next (x.after s ((x.await (.fltr (f.sub.getLsbD 0) p) tok).andThen
              (sendReq x.core ⟨.task x.who, 0, 1, p, 32, .wo, .load, [], false, x.a.cfg, true, .g, p, false⟩)))) ∧
          (x.colour ≠ 0 → c ≠ x.colour → exec (.fltr f) s = .next (x.after s (x.fault Code.fltColour)))) ∧
        (let w0 := (a.getD 0 0).toNat
         let mine := x.colour = 0 ∨ bits w0 8 8 = x.colour.toNat
         firing (.resume f) s = some x →
          (mine → (f.sub.getLsbD 0 = true → bits w0 16 16 = Code.trap) → exec (.resume f) s = .next (x.after s
            (x.record (.resume (f.sub.getLsbD 0) (a.take 8) { x.pass tok with seq := x.seq } (x.replyTarget f.c))))) ∧
          (¬ mine → exec (.resume f) s = .next (x.after s (x.fault Code.resColour)))) ∧
        (firing (.plook f) s = some x →
          let p := (a.headD 0).toNat % 2 ^ 16
          let cl := clusterOf x.core
          (∀ site, u.place cl x.colour x.a.cfg p = .ok site → exec (.plook f) s = .next (x.after s
            ((usePlace cl x.colour p).andThen (x.emit f.c (x.data [siteWord site, 0]))))) ∧
          (∀ e, u.place cl x.colour x.a.cfg p = .error e → exec (.plook f) s = .next (x.after s
            ((usePlace cl x.colour p).andThen (x.emit f.c (x.data [0, BitVec.ofNat 32 e.code])))))) ∧
        (firing (.cntr f) s = some x →
          (∀ i, u.cntrIdx x.colour (f.sub.getLsbD 0) (a.headD 0).toNat = some i →
            (f.sub.getLsbD 1 = true →
              exec (.cntr f) s = .next (x.after s (x.record (.cntrClear i { x.pass tok with seq := x.seq } (x.replyTarget f.c))))) ∧
            (f.sub.getLsbD 1 = false → exec (.cntr f) s = .next (x.after s ((x.await .cntr tok).andThen (send x.core 90000 .q0 (.cntrRead x.who i)))))) ∧
          (u.cntrIdx x.colour (f.sub.getLsbD 0) (a.headD 0).toNat = none →
            exec (.cntr f) s = .next (x.after s (x.fault Code.cntrRange))))))) ∧
  (∀ (f : FormS) (s : State) (x : Ctx),
    (firing (.sysr f) s = some x →
      let v := sysRead (x.consume.run s) x f.sreg.toNat (Config.freeCycle s.m.free).toNat
      exec (.sysr f) s = .next (x.after s ((Act.when (f.sreg = 0x009) (.mod fun m => { m with free := m.free + 1 })).andThen
        (x.emit f.c (x.data (v.map fun n => BitVec.ofNat 32 n)))))) ∧
    (∀ p ∈ ([(.syswPinv, 0x102), (.syswXinv, 0x103), (.syswPreempt, 0x104)] : List ((FormS → Instr) × Nat)), firing (p.1 f) s = some x →
      ∀ t, x.fields.l = some t → t.kind = .data →
        (syswOk p.2 t.lanes = true → exec (p.1 f) s = .next (x.after s
          (x.record (.sysw p.2 t.lanes { x.pass { t with seq := x.seq } with seq := x.seq } (x.replyTarget f.c))))) ∧
        (syswOk p.2 t.lanes = false → exec (p.1 f) s = .next (x.after s (x.fault Code.sysValue)))))

/-- Frame slot k of a capsule activation is chunk k of the tile. For an activation of width w that holds a capsule: the tile has
TLEN times 128 bytes; for every k below the number of whole chunks of 4w bytes, a read of frame slot k delivers chunk k, as data
where every word of it can be corrected (R173), whose lane j, for j below w, is bytes 4wk + 4j to 4wk + 4j + 3 of the tile,
little-endian; the number of chunks is TLEN times 128 divided by 4w, rounded down. -/
def Obligations.CapsuleSlotsAreChunks : Prop :=
  ∀ (a : Activation) (h : Held) (k : Nat), a.kind = .capsule → a.held = some h → 0 < a.width →
    h.cap.tile.length = h.cap.get 1 52 7 * 128 →
    h.cap.chunks a.width = h.cap.get 1 52 7 * 128 / (4 * a.width) ∧
    (k < h.cap.chunks a.width →
      (h.cap.chunkHurt a.width k = false → (a.slotTok k).kind = .data) ∧ (a.slotTok k).lanes.length = a.width ∧ 4 * a.width * k + 4 * a.width ≤ h.cap.tile.length ∧
      ∀ j < a.width, (a.slotTok k).lanes.getD j 0 = BitVec.ofNat 32
        ((h.cap.tile.getD (4 * a.width * k + 4 * j) 0).toNat + 2 ^ 8 * (h.cap.tile.getD (4 * a.width * k + 4 * j + 1) 0).toNat +
          2 ^ 16 * (h.cap.tile.getD (4 * a.width * k + 4 * j + 2) 0).toNat +
          2 ^ 24 * (h.cap.tile.getD (4 * a.width * k + 4 * j + 3) 0).toNat))

/-- A hop forwards, poisons or discards a token by its two check bits. A hop, where message k may go on, receives its token with the
bits of its tag that a mask names changed on the way. Where check[1] and check[0] hold for the bits received, the token is forwarded
with those bits. Where check[0] alone fails, it is forwarded as poison, its check recomputed, with its width and its destination
kept (log 80). Where check[1] fails, the message is gone, the die's uncorrectable errors count one more, and a record TAG_CHECK,
with the site of the hop's die (log 29), goes to colour 0's fault area, freezing no master. A beat that goes on lies at the end of
its next track (R243, log 116). Nothing else changes, and nothing at all where it may not go on. check[1] is the parity of bits
[63:32] and check[0] that of bits [31:2]. -/
def Obligations.HopChecksTheTag : Prop :=
  ∀ (flip : BitVec 64) (s : State) (x : Msg) (t : Token), s.m.net[s.m.at_.k]? = some x → x.body.token? = some t →
    (s.m.mayHop s.m.at_.k x = false → exec (.tokenHop flip) s = .next s) ∧ (s.m.mayHop s.m.at_.k x = true →
    let b := (t.tag ^^^ flip).toNat
    let hi := decide (parity 32 (b / 2 ^ 32) = (bits b 1 1 == 1))
    let lo := decide (parity 30 (b / 4) = (bits b 0 1 == 1))
    let die := (unitDie x.dst).getD 0
    let on (u : Token) : State := { s with m := { s.m with net := setAt s.m.net s.m.at_.k { x.hopped with body := x.body.setTok u } } }
    let r : Record := { Record.blank with code := Code.tagCheck, col := BitVec.ofNat 8 (bits b 56 8), site := siteId die 0 0,
                                          seq := BitVec.ofNat 16 (bits b 7 16), addr := b }
    (hi = true → lo = true → exec (.tokenHop flip) s = .next (on (withTag t b))) ∧
    (hi = true → lo = false → exec (.tokenHop flip) s = .next (on { withTag t b with kind := .poison })) ∧
    (hi = false → exec (.tokenHop flip) s = .next ((Act.seq [takeMsg s.m.at_.k, countErr die true, recordIn 0 r]).run s) ∧ r.frz = false))

/-- A launched configuration is drained once every colour that entered has come in and gone out. A launched configuration is drained
exactly where, for every colour that has entered, every entry port whose mask holds the colour has had its EOS and every exit port
has sent its EOS; where no colour has entered it is drained from its launch. pk.write with DRAIN and pk.teardown without FORCE wait
for that: until then the queue's packet does not move on, and once the configuration is drained (and resident) they do what they
have to do. A teardown of one that a round has saved discards the save, drained or not (R277). -/
def Obligations.DrainedConfigurations : Prop :=
  (∀ f : ConfState, f.launched = true →
    (f.drained = true ↔ ∀ c ∈ f.entered, (∀ e ∈ f.entries, e.rcd.mask.getLsbD c.toNat = true → (e.colour c).eos = true) ∧
      ∀ x ∈ f.exits, c ∈ x.eos) ∧
    (f.entered = [] → f.drained = true)) ∧
  (∀ (p : Packet) (s : State) (x : QState) (f : ConfState), s.queue? s.m.cur.queue = some x → x.mapped = true →
    s.conf? (x.cfgNo p) = some f →
    let q := s.m.cur.queue
    let done (a : Act) : State := (handOver x.desc.die 0 64).run (a.run s)
    ((Instr.pkWrite p).wf = true → p.pflg.getLsbD 13 = true → f.tearer = none →
      (f.drained = false → exec (.pkWrite p) s = .next (done .quiet)) ∧
      (f.drained = true → exec (.pkWrite p) s = .next (done (hoistWrite q x p)))) ∧
    ((Instr.pkTeardown p).wf = true → f.tearer = some (q, false) → p.pflg.getLsbD 12 = false →
      (f.drained = false → f.phase ≠ .saved → exec (.pkTeardown p) s = .next (done .quiet)) ∧
      (f.phase = .saved → exec (.pkTeardown p) s = .next (done ((discardConf (x.cfgNo p)).andThen
        ((release (x.cfgNo p)).andThen (goTo q (x.after p)))))) ∧
      (f.drained = true → f.phase = .resident →
        exec (.pkTeardown p) s = .next (done ((release (x.cfgNo p)).andThen (goTo q (x.after p)))))))

/-- The packets of flow move their queue on, or stop it with a fault of their own. For a well-formed packet of a mapped queue, each
packet does what follows, and then queues due to leave their slots do so: pk.nop and pk.ffence go on to the next packet, pk.ffence
with nothing fetched ahead; pk.link goes to word 1 of a segment whose header is read and well formed, with no word of it fetched
ahead (log 98); pk.ib and pk.ibend enter and leave an indirect buffer; pk.loop opens and closes a loop; pk.pred begins to step over
the packets that it names, one at a time, where its condition fails; pk.wait goes on where it holds. A nesting deeper than four, a
close without an open, or an open within a loop is PKT_BADOP; a word that reads ERR is WAIT_ERR; a condition that fails on a word
with DEF is WAIT_COND. -/
def Obligations.PacketsOfFlowComplete : Prop :=
  ∀ (p : Packet) (s : State) (x : QState), s.queue? s.m.cur.queue = some x → x.mapped = true →
    let q := s.m.cur.queue
    let does (i : Packet → Instr) (a : Act) : Prop :=
      (i p).wf = true → exec (i p) s = .next ((handOver x.desc.die 0 64).run (a.run s))
    let bad (pop : Nat) : Act := queueFault q Code.pktBadop (packetHeader p pop)
    does .pkNop (goTo q (x.after p)) ∧
    (∀ w, x.desc.ibd = 0 → x.desc.lpcnt = 0 → hoistRead s q x (p.pair 0) true = .word w →
      (segmentOk w.toNat = true → does .pkLink ((goTo q (p.pair 0 + 4)).andThen
        (modQueue q fun x => { x with
          segEnd := p.pair 0 + 4 + 4 * bits w.toNat 0 18
          fetched := x.fetched.filter fun v => v.1 < p.pair 0 || p.pair 0 + 4 + 4 * bits w.toNat 0 18 ≤ v.1 }))) ∧
      (segmentOk w.toNat = false → does .pkLink (bad 0x01))) ∧
    (x.desc.ibd ≠ 4 → does .pkIb ((goTo q (p.pair 0)).andThen (modQueue q fun y => { y with
      desc := { y.desc with ibd := x.desc.ibd + 1, ibret := setAt y.desc.ibret x.desc.ibd (x.after p) } }))) ∧
    (x.desc.ibd = 4 → does .pkIb (bad 0x05)) ∧
    (x.desc.ibd ≠ 0 → does .pkIbend ((goTo q (x.desc.ibret.getD (x.desc.ibd - 1) 0)).andThen
      (modQueue q fun y => { y with desc := { y.desc with ibd := x.desc.ibd - 1 } }))) ∧
    (x.desc.ibd = 0 → does .pkIbend (bad 0x06)) ∧
    (x.desc.lpcnt = 0 → does .pkLoopOpen ((goTo q (x.after p)).andThen
      (modQueue q fun y => { y with desc := { y.desc with lpadr := x.after p, lpcnt := p.pflg.toNat } }))) ∧
    (x.desc.lpcnt ≠ 0 → does .pkLoopOpen (bad 0x08)) ∧
    (1 < x.desc.lpcnt → does .pkLoopClose ((goTo q x.desc.lpadr).andThen
      (modQueue q fun y => { y with desc := { y.desc with lpcnt := x.desc.lpcnt - 1 } }))) ∧
    (x.desc.lpcnt = 1 → does .pkLoopClose ((goTo q (x.after p)).andThen
      (modQueue q fun y => { y with desc := { y.desc with lpcnt := 0 } }))) ∧
    (x.desc.lpcnt = 0 → does .pkLoopClose (bad 0x08)) ∧
    does .pkFfence ((goTo q (x.after p)).andThen (modQueue q fun y => { y with fetched := [] })) ∧
    (∀ w, hoistRead s q x (p.pair 0) (packetDef p) = .word w →
      (packetHolds p w = true ∨ p.pflg.toNat / 256 = 0 → does .pkPred (goTo q (x.after p))) ∧
      (packetHolds p w = false → p.pflg.toNat / 256 ≠ 0 → does .pkPred
        (modQueue q fun y => { y with passOver := some (p.pflg.toNat / 256, x.after p) }))) ∧
    (let first := packetDef p = true ∨ x.polled ≠ some (tgetD 0 s.m.pkg.hoistRound x.desc.die)
     first →
      (∀ w, hoistRead s q x (p.pair 0) (packetDef p) = .word w →
        (packetHolds p w = true → does .pkWait (goTo q (x.after p))) ∧
        (packetHolds p w = false → packetDef p = true → does .pkWait (queueFault q Code.waitCond (packetHeader p 0x0A))) ∧
        (packetHolds p w = false → packetDef p = false → does .pkWait
          (modQueue q fun y => { y with polled := some (tgetD 0 s.m.pkg.hoistRound x.desc.die) }))) ∧
      (hoistRead s q x (p.pair 0) (packetDef p) = .bad → does .pkWait (queueFault q Code.waitErr (packetHeader p 0x0A)))) ∧
    (hoistRead s q x (p.pair 0) (packetDef p) = .bad → does .pkPred (queueFault q Code.waitErr (packetHeader p 0x07)))

/-- The packets of configurations, seeds, writes, colours and pins do their work. For a well-formed packet of a mapped queue: pk.cfg
of a free handle that meets its checks adds a bid, and ends once its configuration has loaded; pk.launch opens the entry ports of a
loaded configuration once; pk.seed enters its next seed where the entry port takes it; pk.teardown gates the entry ports and,
forced, discards (log 71) and releases; pk.write writes its value at its home, after which a queue that is not mapped and whose ST
it made IDLE is gone (R270); pk.signal queues its message while the host takes one, which is free after each (log 28); pk.pri sets
PRI; pk.colour of colour 0's queue writes an entry not in use; pk.pin and pk.unpin change PIN in every leaf of the range. pk.cfg,
pk.write, pk.pin and pk.unpin wait while a home they need is out of reach (R325, R361, log 89). A handle that names no configuration
is CFG_HANDLE. -/
def Obligations.PacketsOfConfigurationsComplete : Prop :=
  ∀ (p : Packet) (s : State) (x : QState), s.queue? s.m.cur.queue = some x → x.mapped = true →
    let q := s.m.cur.queue
    let does (i : Packet → Instr) (a : Act) : Prop :=
      (i p).wf = true → exec (i p) s = .next ((handOver x.desc.die 0 64).run (a.run s))
    let cfg := x.cfgNo p
    let handle (pop : Nat) : Act := queueFault q Code.cfgHandle (packetHeader p pop)
    (s.conf? cfg = none →
      (s.vaAway x (p.pair 0) (s.imageSpan x.desc.col (p.pair 0)) = true → does .pkCfg .quiet) ∧
      (∀ f, s.vaAway x (p.pair 0) (s.imageSpan x.desc.col (p.pair 0)) = false → s.cfgCheck q x (p.pair 0) = .ok f → does .pkCfg (.pkg fun t =>
        { t with confs := tput t.confs cfg f, bids := t.bids ++ [cfg], nextAge := t.nextAge + 1 })) ∧
      (∀ c, s.vaAway x (p.pair 0) (s.imageSpan x.desc.col (p.pair 0)) = false → s.cfgCheck q x (p.pair 0) = .error c → does .pkCfg (queueFault q c (packetHeader p 0x02))) ∧
      does .pkLaunch (handle 0x03) ∧ does .pkSeed (handle 0x04) ∧ does .pkTeardown (handle 0x11)) ∧
    (∀ f, s.conf? cfg = some f → f.waitsCfg = true → f.queue = q →
      (f.phase = .bidding ∨ f.phase = .loading → does .pkCfg .quiet) ∧
      (f.phase ≠ .bidding → f.phase ≠ .loading →
        does .pkCfg ((modConf cfg fun f => { f with waitsCfg := false }).andThen (goTo q (x.after p))))) ∧
    (∀ f, s.conf? cfg = some f → f.tearer = none → f.waitsCfg = false →
      (f.launched = false → does .pkLaunch ((modConf cfg fun f => { f with
          launched := true, entries := f.entries.map fun e => { e with gated := f.phase != .resident } }).andThen (goTo q (x.after p)))) ∧
      (f.launched = true → does .pkLaunch (queueFault q Code.cfgState (packetHeader p 0x03))) ∧
      does .pkTeardown ((modConf cfg fun f => { f with
          tearer := some (q, p.pflg.getLsbD 12), entries := f.entries.map fun e => { e with gated := true } }).andThen
        (tearStep q cfg x p (p.pflg.getLsbD 12)))) ∧
    (∀ f e, s.conf? cfg = some f → f.tearer = none → f.launched = true → seedKindOk (seedKind p) = true → seedPort p < f.nent →
      f.entry? (seedPort p) = some e →
      let t := seedTok p x.progress
      (s.seedFate e t = .enters → does .pkSeed ((seedIn cfg (seedPort p) t).andThen (if x.progress + 1 < seedCount p then
        modQueue q fun y => { y with progress := x.progress + 1 } else goTo q (x.after p)))) ∧
      (s.seedFate e t = .waits → does .pkSeed .quiet) ∧
      (∀ c, s.seedFate e t = .fault c → does .pkSeed (queueFault q c (packetHeader p 0x04)))) ∧
    (∀ h m, p.pflg.getLsbD 13 = false → s.xlate x.desc.col classH true (p.pair 0) = .ok (h, m) →
      (s.away x.desc.die h = true → does .pkWrite .quiet) ∧
      (s.away x.desc.die h = false → s.engineRefusal h (writeVal p).length m = none → does .pkWrite (Act.seq [
        engineWrite x.desc.col h m (plainBytes (writeVal p)), dropIdle, goTo q (x.after p)])) ∧
      (s.away x.desc.die h = false → s.engineRefusal h (writeVal p).length m ≠ none →
        does .pkWrite (queueFault q Code.woRewrite (packetHeader p 0x0B)))) ∧
    (s.m.pkg.hostReady = true → does .pkSignal (Act.seq [
      .pkg fun t => { t with
        hostOut := t.hostOut ++ [(q, p.pflg.setWidth 8, p.payload)], hostReady := Config.hostStaysReady s.m.free },
      .mod fun m => { m with free := m.free + 1 },
      goTo q (x.after p) ])) ∧
    (s.m.pkg.hostReady = false → does .pkSignal .quiet) ∧
    does .pkPri ((goTo q (x.after p)).andThen (modQueue q fun y => { y with desc := { y.desc with pri := p.pflg.toNat } })) ∧
    (let c : Colour := BitVec.ofNat 8 p.pflg.toNat
     let w := entryWords p
     colourEntryOk w = true →
      (x.desc.col = 0 → c ≠ 0 → (bits (w.getD 0 0) 63 1 = 1 → bits (s.vdevWord (bits (w.getD 0 0) 58 5) 0) 63 1 = 1) →
        s.colourUsed c = false → does .pkColour ((Act.pkg fun t => { t with colours := tset 0 t.colours c.toNat (entryBits w) }).andThen
          (goTo q (x.after p)))) ∧
      (x.desc.col ≠ 0 → does .pkColour (queueFault q Code.pktColour (packetHeader p 0x0E))) ∧
      (x.desc.col = 0 → s.colourUsed c = true → does .pkColour (queueFault q Code.colourBind (packetHeader p 0x0E)))) ∧
    (let c : Colour := BitVec.ofNat 8 p.pflg.toNat
     let pages := (upFrom (p.payload.getD 2 0).toNat 0).map fun i => p.pair 0 + 2 ^ 16 * i
     x.desc.col = 0 ∨ x.desc.col = c →
      (∀ ls, leaves_ s c true pages = .ok ls → (ls.any fun l => s.away x.desc.die l.1) = false → does .pkPin ((Act.each ls.eraseDups fun (a, d) =>
        putBytes a (leBytes 8 (d + 2 ^ 55))).andThen (goTo q (x.after p)))) ∧
      (∀ ls, leaves_ s c false pages = .ok ls → (ls.any fun l => s.away x.desc.die l.1) = false → does .pkUnpin ((Act.each ls.eraseDups fun (a, d) =>
        putBytes a (leBytes 8 (d - 2 ^ 55))).andThen (goTo q (x.after p)))))

/-- Loads, stores, clears, atomics and reservations at their home, the replay of loads and reduction packets. Message k, a request,
reaches its home, which is no dead CXL port and no slice port that holds it back. A load is answered with the bytes, with poison
where a word it covers is damaged beyond correction (an engine's word by word), or with the code of its lowest ERR word; on a
write-once page a word without a value parks it in a free pool entry, or refuses it, 256 bytes of spoil. A home may accept a task's
load now and read it in a later event (log 133). A store that nothing refuses leaves its bytes at its address and covered words
FULL; bytes of other words that were FULL or ERR are as before; a write-once home refuses it whole. clr turns covered FULL and ERR
words EMPTY; every byte stays. An atomic stores its operation's result and answers the old value, poison for a damaged word; a
write-once page refuses it. A reservation of EMPTY words is granted, and stands unless its wave has faulted since. Two reduction
packets that may merge become one, and the oldest refused access of a unit is looked at anew when an entry, or room at its port, is
free (logs 15, 50, 126). -/
def Obligations.HomeEventsComplete : Prop :=
  (∀ (s : State) (x : Msg) (r : Req), s.m.msg? s.m.at_.k = some x → x.body = .req r → s.wf →
    let u := x.dst
    let t := (takeMsg s.m.at_.k).run s
    let pr := t.presenceOf r.addr r.mode
    let ws := wordsOf r.addr r.len
    let k := t.m.cluster ((u - 20000) / 16)
    let does (i : Instr) (a : Act) : Prop := exec i s = .next (a.run t)
    let reply (v : AnsVal) : Act := Act.seq [accepted r, checked r.addr r.len, answer u r.who r.piece v]
    let kept (n : State) (a : Nat) : Prop := n.byteAt a = t.byteAt a ∧ n.presAt a = t.presAt a
    let own := match r.who with
      | .task _ => true
      | _ => false
    let refusal := (t.woRefuses r.addr r.len).orElse fun _ => if !own && t.reserved ws then some Code.woRewrite else none
    (isCxlUnit u && t.m.pkg.cxlDown.contains (u - 41000)) = false →
    (isSliceUnit u = true → k.blocker r = none ∧ k.behind u r.who.unit = false ∧ t.refusedBehind u (some r.who.unit) = false) →
    (s.m.at_.j ≠ 0 → s.mayHear x.dst r = true → exec .homeLoad s = .next ((hear s.m.at_.k x r).run s)) ∧
    (r.kind = .load → s.m.at_.j = 0 ∨ s.mayHear x.dst r = false →
      let v : AnsVal := if r.who.byWord then .line (t.lineOf r.addr r.len (decide (pr ≠ .none)))
        else if t.damaged r.addr r.len then .poison
        else if pr = .none then .bytes (t.bytesAt r.addr r.len)
        else match t.errWord r.addr r.len with
          | some w => .err (t.byteAt (4 * w))
          | none => .bytes (t.bytesAt r.addr r.len)
      let hurt := t.damaged r.addr r.len = true ∧ r.who.byWord = false
      (pr ≠ .wo ∨ hurt ∨ t.missing r.addr r.len = none → does .homeLoad (reply v)) ∧
      (∀ w, pr = .wo → ¬ hurt → t.missing r.addr r.len = some w →
        (∀ i, freeEntry (t.pool u) (poolSize u) = some i → does .homeLoad ((accepted r).andThen (park u w i r))) ∧
        (freeEntry (t.pool u) (poolSize u) = none → does .homeLoad
          ((Act.pkg fun p => { p with refused := p.refused ++ [(u, .req r none)] }).andThen (spoilAdd r.colour 256))))) ∧
    (r.kind = .ldp → does .homeLoad (reply (if t.damaged r.addr r.len then .poison else .ldp
      (if pr ≠ .none ∧ t.presAt r.addr = .defer then 0 else BitVec.ofNat 32 (t.nat r.addr 4))
      (if pr = .none then .full else t.presAt r.addr)))) ∧
    (∀ v, r.kind = .store v →
      (pr = .wo → ∀ c, refusal = some c → does .homeStore (answer u r.who r.piece (.refused c))) ∧
      (pr ≠ .wo ∨ refusal = none → does .homeStore (Act.seq [spendResv r, storeEffect r v, ackAll u r]) ∧
        ∀ bs n, v = .bytes bs → bs.length = r.len → exec .homeStore s = .next n →
          (∀ i < r.len, n.byteAt (r.addr + i) = bs.getD i 0) ∧ (pr ≠ .none → ∀ w ∈ ws, n.presAt (4 * w) = .full) ∧
          (∀ a, (a < r.addr ∨ r.addr + r.len ≤ a) → t.presAt a = .full ∨ t.presAt a = .err → n.byteAt a = t.byteAt a) ∧
          (∀ a, a / 4 ∉ ws → t.presAt a = .full ∨ t.presAt a = .err → kept n a))) ∧
    (r.kind = .clr → does .homeClr ((if pr = .none then .quiet else clearWords r.addr r.len).andThen (ackAll u r)) ∧
      ∀ n, exec .homeClr s = .next n → ∀ a, n.byteAt a = t.byteAt a ∧
        n.presAt a = (if pr ≠ .none ∧ a / 4 ∈ ws ∧ (t.presAt a = .full ∨ t.presAt a = .err) then .empty else t.presAt a)) ∧
    (∀ op v, r.kind = .atomic op v →
      let say (z : AnsVal) : Act := (checked r.addr r.len).andThen (if r.answer then answer u r.who r.piece z else ackAll u r)
      (pr = .wo → does .homeAtomic (answer u r.who r.piece (.refused Code.woAtomic))) ∧
      (pr ≠ .wo → t.damaged r.addr r.len = true → does .homeAtomic (say .poison)) ∧
      (∀ w, pr = .plain → t.damaged r.addr r.len = false → t.errWord r.addr r.len = some w → does .homeAtomic (say (.err (t.byteAt (4 * w))))) ∧
      (pr = .none ∨ pr = .plain ∧ t.errWord r.addr r.len = none → t.damaged r.addr r.len = false → ∀ y,
        atomicNew op (8 * r.len) (t.nat r.addr r.len) v = .ok y →
        does .homeAtomic ((if pr = .none then putBytes r.addr (leBytes r.len y) else fill r.addr (leBytes r.len y)).andThen
          (say (.bytes (leBytes r.len (t.nat r.addr r.len))))))) ∧
    (∀ z, r.kind = .reserve z →
      let no := if z = .atomic then some Code.woAtomic
        else (t.woRefuses r.addr r.len).orElse fun _ => if t.reserved ws then some Code.woRewrite else none
      (∀ c, no = some c → does .homeReservation (answer u r.who r.piece (.refused c))) ∧
      (no = none → ∀ w, r.who = .task w → does .homeReservation
        ((Act.when (t.m.runs w) (.pkg fun p => { p with
          resvs := p.resvs ++ [⟨.task { w with slot := 0 }, r.addr / 4, ws.length⟩] })).andThen (answer u r.who r.piece .granted))))) ∧
  (∀ (s : State) (u : Nat) (h : PortHeld), s.m.pkg.refused.find? (fun x => x.1 = s.m.at_.k) = some (u, h) →
    (h.pools = true → (freeEntry (s.pool u) (poolSize u)).isSome = true) → (s.m.cluster ((u - 20000) / 16)).holding u < 64 →
    let back (a : Act) : Prop := exec .loadReplay s = .next ((Act.seq [.pkg fun p => { p with refused := p.refused.erase (u, h) },
      spoilSub h.colour 256, a]).run s)
    (∀ r b, h = .req r b → back (reqReplay u r)) ∧ (∀ e, h = .tile e → back (tileReplay u e))) ∧
  (∀ (s : State) (x y : Msg) (a b r : Req), s.m.net[s.m.at_.j]? = some x → s.m.net[s.m.at_.k]? = some y → x.body = .req a →
    y.body = .req b → s.m.at_.j < s.m.at_.k → x.dst = y.dst → s.m.joins s.m.at_.j s.m.at_.k y = true → remoteHome x.src a.addr = true → remoteHome y.src b.addr = true →
    merged a b = some r → exec .reductionMerge s = .next ((Act.mod fun m => { m with
      net := setAt m.net s.m.at_.j { x with body := .req r } }).run ((takeMsg s.m.at_.k).run s))) ∧
  (∀ x v : Lane,
    let gives (op : AtomicOp) (y : Lane) : Prop := atomicNew op 32 x.toNat [v] = .ok y.toNat
    gives .add (x + v) ∧ gives .min (if v.slt x then v else x) ∧ gives .max (if x.slt v then v else x) ∧
    gives .minn (if v.ult x then v else x) ∧ gives .maxn (if x.ult v then v else x) ∧ gives .and (x &&& v) ∧
    gives .or (x ||| v) ∧ gives .xor (x ^^^ v) ∧ gives .swp v ∧
    ∀ w : Lane, atomicNew .cas 32 x.toNat [v, w] = .ok (if x = v then w else x).toNat)

/-- Tokens arrive at a channel or by their tag, replay from the spoil, and close, wedge or credit their channel. Message k arrives
at a core whose configuration, if it has one, is complete. A data token at a channel that is open to its colour joins the channel's
queue when its lines are granted (none where a window awaits it), counts one more arrival, and binds to the waves that await it;
else it goes to the spoil. One at a closed channel leaves on every port as UNPAIRED. A token that carries a tag, a reply or a send
goes to its window field, or to the spoil behind an earlier one of its key. An EOS closes its channel, and a wedge wedges it, once
the tokens sent before it have arrived; until then it is held, and is acted on once they have come (logs 15, 22). A demand token
adds its count to the credit of its port or entry port. A node whose colours are wedged on every input, and that can do nothing
more, sends a wedge of each colour on each output channel, behind what the port holds back, and freezes. A spilled item, the oldest
of its key, arrives again ahead of the others of its key where its colour has the lines for it. -/
def Obligations.TokenEventsComplete : Prop :=
  (∀ (s : State) (x : Msg), s.m.msg? s.m.at_.k = some x →
    let t := (takeMsg s.m.at_.k).run s
    (∀ core node chan u ahead, x.body = .tok (.chan core node chan) u ahead → s.takes core = true →
      (u.kind ≠ .eos → u.kind ≠ .wedge → u.kind ≠ .demand →
        exec .channelTokenArrive s = .next ((chanArrive core node chan u).run ((countArrival core node chan u.colour).run t)) ∧
        (∀ n f a, t.m.node? core node = some n → (t.m.core core).defaultOf node u.colour = some (f, a) →
          n.past (t.m.core core) node u.colour = false →
          let y := (occupyCore core u.colour).run ((countArrival core node chan u.colour).run t)
          let entry := ((n.info.ins.find? fun i => i.chan == chan).map InChan.entry).getD 0
          let v := { u with chan := BitVec.ofNat 5 entry }
          ((n.chan chan u.colour).closed = true → exec .channelTokenArrive s = .next ((Act.each n.info.outs fun o =>
            portPush core node o.net o.port u.colour true (.out o.net o.port (closedToken n o.net v))).run
              ((countArrival core node chan u.colour).run t))) ∧
          let need := if (y.m.core core).bindsNow ((y.m.node? core node).getD n) node chan u.colour then 0 else tokenLines v
          ((n.chan chan u.colour).closed = false → inlineScale (y.m.core core) entry = false →
            (y.m.core core).spilt (.chan node chan v none) = false → (y.m.core core).grants u.colour need = true →
            exec .channelTokenArrive s = .next (((modNode core node fun n =>
              n.setChan chan u.colour { n.chan chan u.colour with queue := (n.chan chan u.colour).queue ++ [v] }).andThen
                (bindChan core node chan u.colour 64)).run y)) ∧
          ((n.chan chan u.colour).closed = false → inlineScale (y.m.core core) entry = false →
            (y.m.core core).spilt (.chan node chan v none) = true ∨ (y.m.core core).grants u.colour need = false →
            exec .channelTokenArrive s = .next ((spill core (.chan node chan v none)).run y)))) ∧
      (∀ n, t.m.node? core node = some n →
        let early := ∃ a, ahead = some a ∧ (n.chan chan u.colour).arrived < a
        (u.kind = .eos → ¬ early → exec .eosToken s = .next ((closeChan core node chan u).run t)) ∧
        (u.kind = .wedge → ¬ early → exec .wedgeToken s = .next ((wedgeChan core node chan u.colour).run t)) ∧
        (∀ a, ahead = some a → (n.chan chan u.colour).arrived < a →
          let held : State := (modNode core node fun n => n.setChan chan u.colour
            { n.chan chan u.colour with held := (n.chan chan u.colour).held ++ [(u, a)] }).run t
          (u.kind = .eos → exec .eosToken s = .next held) ∧ (u.kind = .wedge → exec .wedgeToken s = .next held)))) ∧
    (∀ core u, x.body = .tag core u → s.takes core = true → exec .tokenArrive s = .next ((itemOrSpill core (.tag u)).run t)) ∧
    (∀ r u, x.body = .reply r u → s.savedReply r = false → s.takes r.core = true → exec .tokenArrive s = .next ((itemOrSpill r.core (.reply r u)).run t)) ∧
    (∀ core d u, x.body = .sent core d u → s.takes core = true → exec .tokenArrive s = .next ((itemOrSpill core (.sent d u)).run t)) ∧
    (∀ core node port c n, x.body = .demand core node port c n → s.takes core = true →
      exec .demandToken s = .next ((addCredit core node port c n).run t)) ∧
    (∀ cfg port c n, x.body = .demandEntry cfg port c n → exec .demandToken s = .next ((addEntryCredit cfg port c n).run t))) ∧
  (∀ (s : State) (n : NodeState) (u : Token) (a : Nat) (rest : List (Token × Nat)),
    let core := s.m.at_.core
    let node := s.m.at_.node
    let chan := s.m.at_.k / 256
    let c : Colour := BitVec.ofNat 8 s.m.at_.k
    s.m.node? core node = some n → (n.chan chan c).held = (u, a) :: rest → u.colour = c →
    let t := (modNode core node fun n => n.setChan chan c { n.chan chan c with held := rest }).run s
    (a ≤ (n.chan chan c).arrived → u.kind = .wedge → exec .dynControlRelease s = .next ((wedgeChan core node chan c).run t)) ∧
    (a ≤ (n.chan chan c).arrived → u.kind = .eos → exec .dynControlRelease s = .next ((closeChan core node chan u).run t)) ∧
    ((n.chan chan c).arrived < a → exec .dynControlRelease s = .next s)) ∧
  (∀ (s : State) (n : NodeState),
    let core := s.m.at_.core
    let node := s.m.at_.node
    s.m.node? core node = some n → n.frozen = false → (tget? s.m.pkg.confs n.cfg).map ConfState.phase = some .wedging →
    (∀ c ∈ s.confColours n.cfg, n.wedgedIn c = true) → s.nodeIdle core node = true →
    exec .nodeWedgeFreeze s = .next ((Act.seq [
      Act.each n.info.outs fun o => Act.each (s.confColours n.cfg) fun c =>
        portOut core node o.net o.port c (.wedge o.net o.port (Config.freeSeq s.m.free) n.info.width),
      .mod fun m => { m with free := m.free + 1 }, modNode core node fun n => { n with frozen := true }]).run s)) ∧
  (∀ (s : State) (i : Spilled), (s.m.core s.m.at_.core).spill[s.m.at_.k]? = some i →
    let core := s.m.at_.core
    let k := s.m.core core
    (∀ y ∈ k.spill.take s.m.at_.k, y.key ≠ i.key) → k.evicted.contains i.colour = false →
    let again (a : Act) : Prop := (k.occupy i.colour).grants i.colour (i.room s core) = true →
      exec .tokenReplay s = .next ((Act.seq [modCore core fun k => { k with spill := k.spill.filter fun y => y.key != i.key },
        spoilSub i.colour 256, occupyCore core i.colour, a, modCore core fun k => { k with
          spill := k.spill ++ ((s.m.core core).spill.drop (s.m.at_.k + 1)).filter fun y => y.key == i.key }]).run s)
    (∀ w piece v, i = .answer w piece v → again (taskAnswer w piece v)) ∧
    ((∀ w piece v, i ≠ .answer w piece v) → again (itemArrive core i)))

/-- Windows are allocated, waves commit and withdraw, activations are created, and answers reach their issuers. The next window of
an activation that may have one joins its waves with the block that its state names and every slot empty, and its operands bind. A
wave commits where every condition holds: without a breach its window goes, then its stores, its effects in ascending slot, its
capsule, and its exit; a breach takes its fault. The oldest wave of an activation whose channels have all closed is withdrawn where
it holds nothing from outside (logs 22, 36); else a token that stays unmatched in it is PRED_IMBAL. A closed node sends EOS on each
output channel (log 37). A creation starts at its core where its node, a frame and the lines are free (log 44). The head of the
admission order becomes an occupant where its minimum is free, or the longest resident is evicted. An answer reaches the operator,
the streamer or the island that waits for it, and the next pieces of split accesses go. -/
def Obligations.WaveEventsComplete : Prop :=
  (∀ (s : State) (a : Activation),
    let core := s.m.at_.core
    let fr := s.m.at_.frame
    s.m.act? core fr = some a →
    (∀ b, a.next = .block b → mayAllocate s core a = true → exec .windowAllocate s = .next ((Act.seq [
      modCore core fun k => { k with nextOrder := k.nextOrder + 1 },
      modAct core fr fun a => { a with waves := a.waves ++ [newWave a.count b (s.m.core core).nextOrder], count := a.count + 1,
                                       next := .unknown },
      bindFrame core fr, .when (a.kind = .default) (bindAll core a.node a.colour), placeTagged core fr]).run s)) ∧
    (∀ w rest x, a.waves = w :: rest → ctxAt s core fr w.idx 0 = some x → x.commits s = true →
      (x.commitFault s = none → exec .blockCommit s = .next ((Act.seq [
        modAct core fr fun a => { a with waves := a.waves.filter fun v => v.idx ≠ x.idx, owed := tdel a.owed x.idx },
        x.commitStores (s.confDet x.a.cfg), Act.each (bySlot x.w.acts) fun (i, e) => Ctx.commitAct { x with slot := i } e,
        x.commitCapsule s, x.commitExit, flushAfter core fr, bindFrame core fr, settleFault core fr]).run s)) ∧
      (∀ i c, x.commitFault s = some (i, c) →
        exec .blockCommit s = .next ((takeFault { x.who with slot := i } c 0 0 x.a.seq 0).run s))) ∧
    (∀ w rest n, a.waves = w :: rest → s.m.node? core a.node = some n → n.info.ins ≠ [] → n.channelsClosed a.colour = true →
      w.framed = true → a.unacked = 0 → a.answers = [] →
      (w.outside = false → w.fault = false → w.pend = [] → tgetD 0 a.owed w.idx = 0 →
        let last := decide (a.waves.length ≤ 1)
        exec .waveWithdraw s = .next ((Act.seq [
          releaseWave ⟨core, fr, a.uid, w.idx, 0, a.colour, w.run⟩, .when w.buffer (freeBuffer core a.uid),
          modAct core fr fun a => { a with
            waves := a.waves.filter fun v => v.idx ≠ w.idx, owed := tdel a.owed w.idx, next := if last then .ended else a.next },
          bindFrame core fr, .when last ((dropTagged core fr).andThen (noReply a))]).run s)) ∧
      (a.holds w = true → ∀ x y g u, ctxAt s core fr w.idx 0 = some x → Ctx.leftover s x = some (y, g, u) →
        exec .waveWithdraw s = .next ((tokenFault y.who Code.predImbal (y.inField g u)).run s))) ∧
    (∀ x p, pendAt s (a.who core fr s.m.at_.j s.m.at_.k) = some (x, p) → p.stage = .issue →
      exec .splitPieceIssue s = .next ((sendOuts core s.m.at_.id 4096).run
        ((advance maxPieces (a.who core fr s.m.at_.j s.m.at_.k)).run s)))) ∧
  (∀ (s : State) (n : NodeState),
    let core := s.m.at_.core
    let node := s.m.at_.node
    let c : Colour := BitVec.ofNat 8 s.m.at_.colour
    s.m.node? core node = some n → n.eosDone.getLsbD c.toNat = false → n.frozen = false →
    n.info.colours.getLsbD c.toNat = true → s.issues n.cfg = true → s.closed core node n c = true →
    exec .nodeEosSend s = .next ((Act.seq [modNode core node fun n => { n with eosDone := n.eosDone ||| (1#256 <<< c.toNat) },
      Act.each n.info.outs fun o => portOut core node o.net o.port c (.eos o.net o.port (Config.freeSeq s.m.free) n.info.width),
      .mod fun m => { m with free := m.free + 1 }, endDefault core node c]).run s)) ∧
  (∀ (s : State) (y : Msg) (x : Creation), s.m.msg? s.m.at_.k = some y → y.body = .spawn x → s.takes x.core = true →
    let t := (takeMsg s.m.at_.k).run s
    let k := (t.m.core x.core).occupy x.colour
    (∀ z ∈ (t.m.core x.core).creations, z.colour ≠ x.colour) →
    ∀ node n, k.nodes.find? (fun (_, n) => n.info.handle.toNat == x.handle) = some (node, n) →
      (∀ f, k.freeFrame = some f → k.grants x.colour (frameLines n.info.frame n.info.width) = true →
        exec .spawnCreate s = .next ((Act.seq [occupyCore x.core x.colour,
          startAct x.core { newAct x.colour f k.nextUid n.info.width node n.cfg .explicit x.seq x.entry with
            reply := x.reply, slots := [(0, mkTok x.colour .data x.l.seq (padLanes n.info.width x.l.lanes))] }]).run t)) ∧
      (k.freeFrame = none ∨ k.grants x.colour (frameLines n.info.frame n.info.width) = false →
        exec .spawnCreate s = .next ((holdCreation x).run t))) ∧
  (∀ (s : State) (c : Colour) (rest : List Colour),
    let core := s.m.at_.core
    let k := s.m.core core
    k.waiting = c :: rest →
    (k.admits c = true → exec .colourAdmit s = .next ((Act.seq [
      modCore core fun k => { k with
        occupants := k.present ++ [c], waiting := rest, evicted := k.evicted.filter (· != c)
        acts := k.acts.map fun (f, a) => (f, if a.colour = c then { a with spilled := false } else a) },
      .when (k.evicted.contains c) (spoilSub c (128 * k.held c))]).run s)) ∧
    (∀ d more, k.admits c = false → k.present = d :: more → exec .colourEvict s = .next ((Act.seq [
      spoilAdd d (128 * k.held d),
      modCore core fun k => { k with
        occupants := more, waiting := k.waiting ++ [d], evicted := d :: k.evicted
        acts := k.acts.map fun (f, a) => (f, if a.colour = d then { a with spilled := true } else a) }]).run s))) ∧
  (∀ (s : State) (x : Msg) (v : Ans), s.m.msg? s.m.at_.k = some x → x.body = .ans v →
    let t := (takeMsg s.m.at_.k).run s
    (∀ w, v.who = .task w → exec .acknowledgement s = .next ((answerArrive w v.piece v.val).run t) ∧
      ∀ a, t.m.actOf? w = some a → a.wave? w.wave = none →
        (∀ y ∈ a.answers, ¬ (y.1 = w.wave ∧ y.2.1 = w.slot)) → v.val = .ack → exec .acknowledgement s = .next ((Act.seq [
          modAct w.core w.frame fun b => { b with unacked := b.unacked - 1 }, nextPiece w v.piece,
          flushAfter w.core w.frame]).run t)) ∧
    (∀ i, v.who = .streamer i → exec .acknowledgement s = .next ((modStream i fun c => { c with waiting := false, got := some v.val }).run t)) ∧
    (∀ i, v.who = .island i → exec .acknowledgement s = .next ((modIsland i fun c => { c with
        waiting := none, got := c.got ++ c.waiting.toList.map fun b => (b, v.val) }).run t)))

/-- Capsules, tile ports, the tag unit, barriers, matrix islands and streamers perform their events. Message k, a capsule, lands at
its core, or stays in its input queue while its configuration is to be saved, and a free buffer goes to the next request. A tile
event is performed at its port where the tile's state lets it and nothing of its issuer waits there, or is held, or refused with 64
held (an issuer is a wave, a command or an element: log 148); a fill or drain by another colour is TILE_COLOUR; a fill whose last
write is acknowledged makes its tile READY, and a drain whose reads are done makes it READY or EMPTY. The tag unit performs its
event, a barrier's home its own, the fabric's root too, while other packages send theirs to it (logs 143, 144). A token at an island
joins its inbox, and is taken once nothing before it waits (logs 23, 26): a beat of the owner joins its row; the island performs its
oldest command: mxz claims it and zeroes it, mxck reads its counters, and mxr, once its target is reached, releases the rows. A
streamer performs the next event of the command that it serves, and a command whose last write is done completes to its reply
target. -/
def Obligations.UnitEventsComplete : Prop :=
  (∀ (s : State) (x : Msg), s.m.msg? s.m.at_.k = some x →
    let t := (takeMsg s.m.at_.k).run s
    (∀ core home c, x.body = .capsule core home c → s.takes core = true →
      (s.keepsCapsules core = false → exec .capsuleLand s = .next ((land core home c).run t)) ∧
      (s.keepsCapsules core = true → exec .capsuleLand s = .next ((keepCapsule core ⟨c, home, false, []⟩).run t))) ∧
    (∀ e, x.body = .tile e →
      let k := t.m.cluster e.cluster
      let me := (PortHeld.tile e).issuer
      let free := k.held.any (fun y => y.1 == x.dst && y.2.issuer == me) = false ∨ me = none
      let own := e.ofStreamer = none ∨ e.who.colour ≠ 0 ∧ tileCol (k.tile e.tile) = e.who.colour
      let full := 64 ≤ k.holding x.dst ∨ t.refusedBehind x.dst me = true
      (own → free → t.refusedBehind x.dst me = false → e.op.applies (tileSt (k.tile e.tile)) = true →
        exec .tilePortEvent s = .next ((releasePorts e.cluster 4096).run ((tilePerform e).run t))) ∧
      (own → e.op.applies (tileSt (k.tile e.tile)) = false →
        (¬ full → exec .tilePortEvent s = .next
          ((modCluster e.cluster fun k => { k with held := k.held ++ [(x.dst, .tile e)] }).run t)) ∧
        (full → exec .tilePortEvent s = .next ((refuse x.dst (.tile e)).run t))) ∧
      (¬ own → ∀ y, e.ofStreamer.bind t.stream? = some y → exec .tilePortEvent s = .next
        ((streamFault y Code.tileColour 0 e.tile).run ((modStream y.id fun y => { y with asked := false }).run t)))) ∧
    (∀ e, x.body = .tagEv e →
      let k := t.m.cluster e.cluster
      exec .tagUnitEvent s = .next ((tagPerform e).run t) ∧
      (∀ a w, e.op = .look a → w < 4 → tagV (k.way (tagSet e.who.colour a) w) = true →
        tagCol (k.way (tagSet e.who.colour a) w) = e.who.colour → tagGln (k.way (tagSet e.who.colour a) w) = glnOf a →
        (∀ j < w, ¬ (tagV (k.way (tagSet e.who.colour a) j) = true ∧ tagCol (k.way (tagSet e.who.colour a) j) = e.who.colour ∧
          tagGln (k.way (tagSet e.who.colour a) j) = glnOf a)) →
        (∀ y ∈ k.tagHurt, y.1 / 4 ≠ tagSet e.who.colour a) →
        exec .tagUnitEvent s = .next ((answer (tagUnit e.cluster) (.task e.who) 0
          (.lanes [BitVec.ofNat 32 (w * 2 ^ 8 + tagTidx (k.way (tagSet e.who.colour a) w))])).run t))) ∧
    (∀ id chan u ahead i, x.body = .tok (.island id chan) u ahead → s.island? id = some i → i.frozen = false → s.issues i.cfg = true →
      s.m.inOrder s.m.at_.k x = true → s.halted i.node.1 = false → i.waitingOn chan < 4 →
      exec .islandRow s = .next ((islandDrain id 64).run ((modIsland id fun i => { i with inbox := i.inbox ++ [.beat chan u] }).run t)) ∧
      (i.inbox = [] → i.stuck = false → i.waiting = none → ∃ n j, exec .islandRow s = .next n ∧ n.island? id = some j ∧
        (u.kind ≠ .eos → u.kind ≠ .wedge → u.kind ≠ .stop → isBlockFmt i.fmt.toNat = false → i.owner = some u.colour → i.held = [] →
          j = sumRows 4 { i with beats := i.beats ++ [(chan, none, u)] }) ∧
        (u.kind = .eos → (chan, u.colour) ∈ j.eos)))) ∧
  (∀ (s : State) (r : BufReq) (k : CoreState), s.m.core s.m.at_.core = k → nextBufReq k = some r → k.buffers.length < 2 →
    (∀ f uid wave slot c x p o g,
      let t := (modCore s.m.at_.core fun k => { k with bufReqs := k.bufReqs.erase r }).run s
      let w : Who := ⟨s.m.at_.core, f, uid, wave, slot, c, ((s.m.act? s.m.at_.core f).map fun a => (a.who s.m.at_.core f wave slot).run).getD 0⟩
      r = .fire f uid wave slot c → pendAt s w = some (x, p) → x.ins = some (o, .k g) →
      (x.a.held = none → x.w.buffer = false →
        exec .capsuleBufferGrant s = .next ((capnTake w p.tok (capnAct g p.tok (p.bad.getD p.tok))).run ((dropPend w).run t))) ∧
      (x.a.held.isSome = true ∨ x.w.buffer = true →
        exec .capsuleBufferGrant s = .next ((x.fault Code.capHeld).run ((dropPend w).run t)))) ∧
    ∀ h node n, r = .land h → k.freeFrame.isSome = true → k.nodes.find? (fun (_, n) => n.info.handle.toNat == entryHandle (h.cap.entry h.cap.cur)) = some (node, n) →
      exec .capsuleBufferGrant s = .next ((startCapsule s.m.at_.core node n h).run
        ((modCore s.m.at_.core fun k => { k with bufReqs := k.bufReqs.erase r }).run s))) ∧
  (∀ (s : State) (c : StreamCmd),
    let cl := s.m.at_.cluster
    let e := (s.m.cluster cl).tile s.m.at_.tile
    s.streamOn cl s.m.at_.tile = some c → c.frozen = false →
    (tileSt e = 1 → c.written = true → exec .tileFillComplete s = .next ((Act.seq [modStream c.id fun y => { y with tileDone := true },
      putTile cl s.m.at_.tile (tileWord 2 (tileCol e) (tileLen e) (tileBase e)), releasePorts cl 4096]).run s)) ∧
    (∀ sp a n keep, tileSt e = 3 → c.extent ≠ 0 → 128 * c.extent ≤ c.reads → c.cmd.kind = .tdrain sp a n keep →
      exec .tileDrainComplete s = .next ((Act.seq [modStream c.id fun y => { y with tileDone := true },
        putTile cl s.m.at_.tile (tileWord (if keep then 2 else 0) (tileCol e) (tileLen e) (tileBase e)), releasePorts cl 4096]).run s))) ∧
  (∀ (s : State) (x : Msg) (e : BarEv), s.m.msg? s.m.at_.k = some x → x.body = .bar e →
    let t := (takeMsg s.m.at_.k).run s
    let key := barKey e.scope e.who.core e.idx
    let b := t.barrier key
    (e.scope = 4 → t.fbReady = true → exec .barrierEvent s = .next ((fbAtRoot e).run t)) ∧
    (e.scope = 4 → t.fbReady = false → exec .barrierEvent s = .next
      ((Act.when (decide (t.fabRoot ≠ t.fabSelf)) (fbSend t.m.fab.pkg (.event (e.fbEvent e.who.core)))).run
        ((Act.fab fun f => { f with fbPending := f.fbPending ++ [e] }).run t))) ∧
    (e.scope ≠ 4 → exec .barrierEvent s = .next ((barPerform key e).run t) ∧
      (e.op = .arrive → b.colour = e.who.colour → b.units.contains e.who.unit = true → b.st = 1 → b.marks.contains e.who.unit = false →
        b.waiters = [] → b.again = [] → b.exp ≤ b.enr → 0 < b.exp → 0 < b.pnd → ∃ n, exec .barrierEvent s = .next n ∧
          (b.arr + 1 = b.exp → n.barrier key =
            { b.arrived e.who.unit with gen := b.gen + 1, arr := 0, pnd := b.enr, marks := [] }) ∧
          (b.arr + 1 < b.exp → b.exp ≤ b.arr + b.pnd → n.barrier key =
            { b.arrived e.who.unit with arr := b.arr + 1, pnd := b.pnd - 1 })))) ∧
  (∀ (s : State) (i : IslandState) (c : Cmd) (rest : List IslandIn),
    let id := s.m.at_.id
    s.island? id = some i → i.frozen = false → i.stuck = false → i.waiting = none → s.issues i.cfg = true → s.halted i.node.1 = false → i.inbox = .cmd c :: rest →
    ((∀ k y j d, s.m.msg? k = some y → y.body = .islandCmd j d → j ≠ id) →
      (c.kind = .mxz → exec .islandCommand s = .next ((Act.seq [modIsland id fun i => { i.zeroed with owner := some c.who.colour },
        islandDone id c [0], islandEos id]).run s)) ∧
      (c.kind = .mxck false → i.owner = some c.who.colour → exec .islandCommand s = .next ((islandDone id c
        [BitVec.ofNat 32 (min i.corrected (2 ^ 32 - 1)), BitVec.ofNat 32 (min i.missed (2 ^ 32 - 1)),
         BitVec.ofNat 32 i.poisonGroups, BitVec.ofNat 32 i.rowCount]).run s))) ∧
    (∀ zero target, c.kind = .mxr zero target → i.owner = some c.who.colour → target.toNat % 2 ^ 16 ≤ i.rowCount →
      exec .mxrRelease s = .next ((Act.seq [
        Act.each ((upFrom (settleGroup i).m 0).flatMap fun r => rowTokens (settleGroup i) c.who.colour c.l.seq r) fun t =>
          sendEdges (islandUnit id) .st none i.out t none,
        modIsland id fun _ => { (if zero then (settleGroup i).zeroed else settleGroup i) with
          missed := (settleGroup i).missed + Config.freeMiss s.m.free },
        .mod fun m => { m with free := m.free + 1 }, islandDone id c [BitVec.ofNat 32 i.rowCount], islandEos id]).run s))) ∧
  (∀ (s : State) (y : StreamCmd), s.stream? s.m.at_.id = some y →
    (∀ x, s.streamPick (islandOf y.cmd.who.core) = some x → x.tile? = none → exec .streamerExecute s = .next ((streamStep x (decide (s.m.at_.j ≠ 0))).run
      ((Act.pkg fun p => { p with rrStream := tput p.rrStream (islandOf y.cmd.who.core) ((x.vdev + 1) % 33) }).run s))) ∧
    (y.written = true → y.frozen = false → s.streamHead y = true → (y.tile? = none ∨ y.tileDone = true) → s.halted y.cmd.who.core = false → exec .streamerComplete s = .next ((Act.seq [
      .pkg fun p => { p with streams := p.streams.filter fun c => c.id ≠ y.id }, cmdDone y.cmd classS,
      cmdReply (Party.streamer y.id).unit y.cmd [BitVec.ofNat 32 y.count, BitVec.ofNat 32 y.badWords]]).run s)))

/-- The special elements, seal elements and voters take their tokens. A token that is neither EOS nor wedge reaches an element that
is neither frozen nor stopped, and whose configuration issues. A read-modify-write element updates its word, as the operation of its
word gives; a corner turn and a reorder element keep it until a block, a frame, is full and then emit the turned block, the indexed
tokens; a sparse-accumulator element's token goes to its tile's port, where its pairs are added to a READY tile of its colour; a
seal element hashes it into its colour's open session and forwards it; a voter keeps the first copy of a sequence and sends the
token once two copies agree. An intersect or union element compares the heads of its two fibres: equal coordinates leave as one
triple, and the lower of two is dropped by an intersection and leaves with a zero from a union (log 59). A voter's sequence of which
two differing copies wait too long leaves as poison. -/
def Obligations.ElementTokensComplete : Prop :=
  (∀ (s : State) (x : Msg) (id input : Nat) (u : Token) (ahead : Option Nat) (e : ElemState), s.m.msg? s.m.at_.k = some x →
    x.body = .tok (.elem id input) u ahead → s.elem? id = some e → e.frozen = false → s.issues e.cfg = true →
    s.m.inOrder s.m.at_.k x = true → s.halted e.rcd.core = false → u.kind ≠ .eos → u.kind ≠ .wedge →
    let t := (takeMsg s.m.at_.k).run s
    (∀ w, e.rcd.kind = .rmw w → exec .rmwUpdate s = .next ((rmwToken e w u).run t) ∧
      (let a := bankAddr e.rcd.core (4 * (bits w.toNat 41 14 + u.lane0.toNat))
       u.kind = .data → u.lanes.length = 2 → u.lane0.toNat ≤ bits w.toNat 27 14 →
       (t.damaged a 4 = true → exec .rmwUpdate s = .next ((checked a 4).run t)) ∧
       (t.damaged a 4 = false → t.presAt a ≠ .err → ∀ v, rmwNew (bits w.toNat 60 4) (bits w.toNat 55 5) (BitVec.ofNat 32 (t.nat a 4)) (u.lanes.getD 1 0) = .ok v →
        exec .rmwUpdate s = .next ((fill a (leBytes 4 v)).run ((checked a 4).run t))))) ∧
    (∀ w, e.rcd.kind = .cturn w → u.kind = .data → u.lanes.length = bits w.toNat 27 5 + 1 →
      let n := bits w.toNat 22 5 + 1
      let ts := e.of 0 u.colour ++ [u]
      (ts.length < n → exec .cturnToken s = .next ((modElem e.rcd.id fun e => { e with queue := e.queue ++ [(0, u)] }).run t)) ∧
      (n ≤ ts.length → exec .cturnToken s = .next ((elemOuts e (turned (bits w.toNat 27 5 + 1) n ts)).run
        ((modElem e.rcd.id fun e => { e with queue := e.without u.colour }).run t)))) ∧
    (∀ w, e.rcd.kind = .reorder w →
      let ts := e.of 0 u.colour ++ [u]
      (ts.length < bits w.toNat 58 6 + 1 → exec .reorderToken s = .next
        ((modElem e.rcd.id fun e => { e with queue := e.queue ++ [(0, u)] }).run t)) ∧
      (bits w.toNat 58 6 + 1 ≤ ts.length → exec .reorderToken s = .next ((elemOuts e ((reorderIdx w).filterMap fun i => ts[i]?)).run
        ((modElem e.rcd.id fun e => { e with queue := e.without u.colour }).run t)))) ∧
    (∀ w, e.rcd.kind = .spacc w →
      let cl := clusterOf e.rcd.core
      let tile := bits w.toNat 24 8
      let y : TileEv := ⟨⟨e.rcd.core, 0, 0, 0, 0, u.colour, 0⟩, cl, tile, .elem e.rcd.id u⟩
      exec .spaccElement s = .next ((tileArrive (y.port t) y).run t) ∧
      (u.kind = .data → u.lanes.length % 2 = 0 → s.elem? e.rcd.id = some e → tileSt ((s.m.cluster cl).tile tile) = 2 →
        tileCol ((s.m.cluster cl).tile tile) = u.colour → t.refusedBehind (y.port t) (some (elemUnit e.rcd.id)) = false →
        (s.m.cluster cl).behind (y.port t) (elemUnit e.rcd.id) = false → exec .spaccElement s = .next ((releasePorts cl 4096).run
          ((spPairs (t.spTile cl tile) (bits w.toNat 19 5 = 8) u.colour u.lanes).run t)))) ∧
    (∀ w y, e.rcd.kind = .seal w → t.session? e.rcd.id u.colour = some y → u.isBad = false → exec .sealElementToken s = .next
      ((elemOut e u).run ((modSession y fun z => { z with
        input := z.input ++ sealBytes u, count := z.count + 1, first := if z.count = 0 then u.seq else z.first, last := u.seq }).run t))) ∧
    (e.rcd.kind = .voter → e.marked.contains (input, u.colour) = false →
      e.voted.find? (fun (_, d, z, seen) => d == u.colour && z.seq == u.seq && !seen.contains input) = none →
      let others := e.queue.filter fun y => y.2.colour == u.colour && y.2.seq == u.seq && y.1 != input
      (others = [] → exec .voterToken s = .next ((markBehind e.rcd.id u.colour).run
        ((modElem e.rcd.id fun e => { e with queue := e.queue ++ [(input, u)] }).run t))) ∧
      (∀ y, others = [y] → sameTok y.2 u = true → y.1 ≠ input → exec .voterToken s = .next ((markBehind e.rcd.id u.colour).run
        ((decide_ e.rcd.id 0 u [input, y.1]).run t))))) ∧
  (∀ (s : State) (e : ElemState) (i : Nat) (u : Token), s.elem? s.m.at_.id = some e → s.halted e.rcd.core = false →
    e.queue.find? (fun x => 2 ≤ (e.queue.filter fun y => y.2.colour == x.2.colour && y.2.seq == x.2.seq).length) = some (i, u) →
    let seen := (e.queue.filter fun y => y.2.colour == u.colour && y.2.seq == u.seq).map Prod.fst
    exec .voterTimeout s = .next ((Act.seq [voteRecord e u.colour u.seq (((upFrom 3 0).find? fun i => !seen.contains i).getD 3),
      decide_ e.rcd.id 1 (mkTok u.colour .poison u.seq (List.replicate u.lanes.length 0)) seen]).run s)) ∧
  (∀ (s : State) (e₀ e : ElemState) (i : Nat) (y a b : Token) (p q : List Token) (v w : Lane) (c d : Lane),
    let id := s.m.at_.id
    let t := (elemAbsorb id 64).run s
    s.elem? id = some e₀ → e₀.frozen = false → s.issues e₀.cfg = true → s.halted e₀.rcd.core = false → t.elem? id = some e →
    e.queue.find? (fun x => fibreReady e x.2.colour) = some (i, y) → e.of 0 y.colour = a :: p → e.of 1 y.colour = b :: q →
    a.kind = .data → b.kind = .data → a.lanes = [c, v] → b.lanes = [d, w] →
    let step (out : List Lane) (l r : Bool) : State := (elemOuts e (if out = [] then [] else [mkTok (if l then a else b).colour .data
        (if l then a else b).seq out])).run
      ((modElem id fun e => (let e' := if l then dropHead e 0 y.colour else e; if r then dropHead e' 1 y.colour else e')).run t)
    (e₀.rcd.kind = .isect →
      (c = d → exec .isectElement s = .next (step [c, v, w] true true)) ∧
      (c.ult d = true → exec .isectElement s = .next (step [] true false)) ∧
      (d.ult c = true → exec .isectElement s = .next (step [] false true))) ∧
    (e₀.rcd.kind = .union →
      (c = d → exec .unionElement s = .next (step [c, v, w] true true)) ∧
      (c.ult d = true → exec .unionElement s = .next (step [c, v, 0] true false)) ∧
      (d.ult c = true → exec .unionElement s = .next (step [d, 0, w] false true))))

/-- Configurations load, seed, leave, are pre-empted, saved and restored; hoists and the arbiter make their rounds. A slab takes its
section, as its bytes in memory give it (log 12), once its feeder has its own; a section, and with the last the image, is checked,
and a rejection goes to the hoist (log 73). Completion goes slab by slab to the origin, whose report makes the configuration
resident or restored. A node is rewritten once its waves may begin again (logs 22, 41). A token at an exit port leaves and is
released; a poison token asks for its seed again, which is seeded twice at most. A walk answers its waiters, and an invalidation its
requester. A hoist's round reads, selects and hands over; an answered read unblocks its queue; the arbiter reads its bids. A gated
configuration is wedged, then settled when all is frozen or it is forced, then saved, and bids again; restored, it is resident with
what was withdrawn presented anew. -/
def Obligations.ConfigurationEventsComplete : Prop :=
  (∀ (s : State) (slab cfg : Nat) (f : ConfState) (recs : List Rec),
    s.m.pkg.confs.find? (fun x => x.2.slabs.contains slab && x.2.streaming) = some (cfg, f) → s.rejected cfg = false →
    s.halted (slabSite slab 0) = false → ((s.queue? f.queue).any fun x =>
      s.vaAway { x with desc := { x.desc with col := s.confColour f } } f.imageVa f.imageLen) = false →
    (∀ k, f.feeder (f.place slab) = some k → f.image.any (fun x => x.1 == k) = true) → f.image.any (fun x => x.1 == slab) = false →
    let read := s.confSection (s.confColour f) f (f.place slab)
    let t := (Act.seq [plainSites slab, Act.each recs (install cfg (sitesOf f.slabs) (f.place slab) slab),
      modConf cfg fun f => { f with image := f.image ++ [(slab, recs)] }]).run s
    (read = .error .xlate → exec (.configWave slab recs) s = .next ((untranslated cfg).run s)) ∧
    (read = .error .past → exec (.configWave slab recs) s = .next ((sendReject cfg slab (slabSite slab 0, 0, 0)).run s)) ∧
    (∀ raw i, read = .ok raw → rawBad raw = some i → exec (.configWave slab recs) s = .next ((sendReject cfg slab (slabSite slab i, 0, 0)).run s)) ∧
    (∀ raw, read = .ok raw → rawBad raw = none → recsAgree raw recs = false → exec (.configWave slab recs) s = .next s) ∧
    (∀ raw, read = .ok raw → rawBad raw = none → recsAgree raw recs = true →
      (∀ x, s.sectionBad f slab recs = some x → exec (.configWave slab recs) s = .next ((sendReject cfg slab x).run s)) ∧
      (∀ x, s.sectionBad f slab recs = none → t.slabBad cfg slab = some x →
        exec (.configWave slab recs) s = .next ((sendReject cfg slab x).run t)) ∧
      (s.sectionBad f slab recs = none → t.slabBad cfg slab = none → ∀ g, t.conf? cfg = some g →
        (g.configured = false → exec (.configWave slab recs) s = .next t) ∧
        (g.configured = true → t.cfgBad cfg = none → t.elemsOk cfg = true →
          exec (.configWave slab recs) s = .next ((execConfigWave.lockChans g).run t)) ∧
        (∀ x, g.configured = true → t.cfgBad cfg = some x →
          exec (.configWave slab recs) s = .next ((sendReject cfg (slabOf x.1) x).run t))))) ∧
  (∀ (s : State) (n : NodeState) (recs : List Rec) (f : ConfState),
    let core := s.m.at_.core
    let node := s.m.at_.node
    let m := n.rewritten (sitesOf f.slabs) recs
    let e : Env := ⟨s.withNode core node m recs, n.cfg, core, m, false⟩
    s.m.node? core node = some n → s.conf? n.cfg = some f →
    (n.admitting = true → exec (.partialReconfig recs) s = .next ((modNode core node fun n => { n with admitting := false }).run s)) ∧
    (n.admitting = false → (∀ y ∈ (s.m.core core).acts, y.2.node = node → y.2.frozen = true ∨ ∀ w ∈ y.2.waves, w.restarts n = true) →
      partialBad f core n recs = none → (s.m.core core).holdsBlocks node m = true → e.bad = none → exec (.partialReconfig recs) s = .next ((Act.seq [
        modNode core node fun _ => m,
        modCore core fun k => (k.rechannelled recs).lockedChans,
        Act.each ((s.m.core core).acts.filter fun (_, a) => a.node == node && !a.frozen) fun (g, a) => Act.seq [
          interrupt core g a, modAct core g fun a => { a with waves := a.waves.map Wave.again }, bindFrame core g ],
        modNode core node fun n => { n with admitting := true },
        Act.each n.waitingColours fun c => bindAll core node c,
        Act.each ((s.m.core core).acts.filter fun (_, a) => a.node == node) fun (g, _) => placeTagged core g]).run s))) ∧
  (∀ (s : State) (p : Packet) (t : State), s.nextPacket s.m.at_.queue = .ok (.pkSeed p, t) →
    exec .seedEnter s = exec (.pkSeed p) t ∧ ∃ n, exec .seedEnter s = .next n) ∧
  (∀ (s : State) (x : Msg), s.m.msg? s.m.at_.k = some x →
    let t := (takeMsg s.m.at_.k).run s
    (∀ cfg port u ahead f y, x.body = .tok (.exit cfg port) u ahead → s.m.inOrder s.m.at_.k x = true → s.conf? cfg = some f →
      f.exits.find? (fun z => z.rcd.port == port) = some y →
      let modExit (g : ExitState → ExitState) : Act := modConf cfg fun f =>
        { f with exits := f.exits.map fun z => if z.rcd.port = port then g z else z }
      (u.kind ≠ .wedge → u.kind ≠ .eos → u.kind ≠ .poison → exec .exitPortToken s = .next
        ((modExit fun z => { z with left := z.left ++ [u] }).run ((releaseOpt cfg y.rcd.credited u.colour).run t))) ∧
      (u.kind = .eos → exec .exitPortToken s = .next
        ((eosLeft cfg u.colour).run ((modExit fun z => { z with eos := u.colour :: z.eos }).run t))) ∧
      (∀ p, u.kind = .poison → y.rcd.credited = some p → exec .exitPortToken s = .next
        ((send (exitUnit cfg port) (entryUnit cfg p) .q1 (.reinject cfg p u.colour u.seq)).run ((releaseAt cfg p u.colour).run t)))) ∧
    (∀ cfg port c seq f e y, x.body = .reinject cfg port c seq → t.conf? cfg = some f → f.entry? port = some e →
      (e.colour c).kept.find? (fun z => z.seq == seq && z.again < 2) = some y → e.gated = false → e.rcd.gated = false →
      exec .reinjectRequest s = .next ((Act.seq [
        modEntryColour cfg port c fun z => { z with
          count := z.count + 1, kept := z.kept.map fun k => if k = y then { k with again := k.again + 1 } else k },
        entrySend cfg port y.tok]).run t))) ∧
  (∀ (s : State) (w : Walk), (s.walking s.m.at_.die)[s.m.at_.k]? = some w → exec .walkComplete s = .next
    ((Act.each w.waiters (walked (s.walk w.colour (w.page * 2 ^ 16)))).run
      ((Act.pkg fun p => { p with walks := p.walks.erase w }).run s))) ∧
  (∀ (s : State) (ls : List Lane) (l : Token) (r : Option Reply) (c : Colour),
    let a := (ls.getD 0 0).toNat
    (s.sysAt s.m.at_.k 0x102 = some (ls, l, r, c) →
      let key := if a.testBit 21 then 32 else bits a 16 5
      let n := bits (ls.getD 1 0).toNat 0 16
      let hit (p : Nat) : Bool := p < 2 ^ 15 && (n == 0 || (bits a 0 15 ≤ p && p < bits a 0 15 + n))
      s.placed key hit = false → exec .placeInvalidationComplete s = .next ((Act.seq [sysDone s.m.at_.k,
        .mod fun m => { m with clusters := m.clusters.map fun (i, k) => (i, { k with places := k.places.filter fun e =>
          !(e.1 == key && hit e.2.1) }) },
        statusReply l.lanes.length c l r 0]).run s)) ∧
    (s.sysAt s.m.at_.k 0x103 = some (ls, l, r, c) →
      let col : Colour := BitVec.ofNat 8 a
      let first := (ls.getD 1 0).toNat
      let n := (ls.getD 2 0).toNat
      let hit (t : Trans) : Bool := t.colour == col && (n == 0 || (t.page < first + n && first < t.page + t.pages))
      let keep (t : Trans) : Bool := !hit t
      let dropped := (s.m.cores.flatMap fun y => y.2.tlb.filter hit) ++ s.m.clusters.flatMap fun y => y.2.tlb.filter hit
      let page (p : Nat) : Bool := n == 0 || (first ≤ p && p < first + n) || dropped.any fun t => t.page ≤ p && p < t.page + t.pages
      s.translated col page = false →
        exec .xlateInvalidationComplete s = .next ((Act.seq [sysDone s.m.at_.k,
          .mod fun m => { m with
            cores := m.cores.map fun (i, k) => (i, { k with tlb := k.tlb.filter keep })
            clusters := m.clusters.map fun (i, k) => (i, { k with tlb := k.tlb.filter keep }) },
          statusReply l.lanes.length c l r 0]).run s)) ∧
    (let col : Colour := BitVec.ofNat 8 a
     let pinned := a.testBit 8 = false ∧ s.pinnedIn col (ls.getD 1 0).toNat (ls.getD 2 0).toNat = true
     (pinned → (syswCommit 0x103 ls c l r).run s = (statusReply l.lanes.length c l r 1).run s) ∧
     (¬ pinned → (syswCommit 0x103 ls c l r).run s =
       (Act.pkg fun p => { p with sysPending := p.sysPending ++ [(0x103, ls, l, r, c)] }).run s))) ∧
  (∀ s : State, (s.m.pkg.stopped.contains s.m.at_.die = false → exec .hoistRound s = .next ((handOver s.m.at_.die 1 64).run
      ((selectRound s.m.at_.die).run ((readRound s.m.at_.die).run (dropIdle.run s))))) ∧
    (s.m.pkg.stopped.contains s.m.at_.die = true → exec .hoistRound s = .next s) ∧
    exec .arbiterRound s = .next (press.run (arbitrate.run (readBids.run s)))) ∧
  (∀ (s : State) (k : Nat) (y : Msg) (a : Ans) (x : QState),
    let q := s.m.at_.queue
    k < s.m.net.length → s.m.msg? k = some y → y.body = .ans a → a.who = .queue q →
    (∀ j z b, j < k → s.m.msg? j = some z → z.body = .ans b → b.who ≠ .queue q) →
    s.queue? q = some x → x.parked = true →
    (x.mapped = true → exec .queueUnblock s = .next
      ((modQueue q fun y => { y with parked := false, answer := some a.val }).run ((takeMsg k).run s))) ∧
    (x.mapped = false → x.blocked = true → (((takeMsg k).run s).readDesc q).st = qBlocked →
      exec .queueUnblock s = .next ((unbind q qWaiting).run ((takeMsg k).run s)))) ∧
  (∀ (s : State) (f : ConfState),
    let cfg := s.m.at_.cfg
    s.conf? cfg = some f →
    let slab := s.m.at_.id
    (f.streaming = true → f.configured = true → s.rejected cfg = false → f.slabs.contains slab = true → f.done.contains slab = false →
      (∀ i < f.slabs.length, f.feeder i = some slab → f.done.contains (f.slabs.getD i 0) = true) →
      (∀ y g core b i, s.m.msg? s.m.at_.k = some y → y.body ≠ .reject g core b i) →
      let t := (modConf cfg fun f => { f with done := slab :: f.done }).run s
      (f.place slab ≠ 0 → exec .configComplete s = .next t) ∧
      (f.place slab = 0 → f.phase = .restoring →
        exec .configComplete s = .next ((modConf cfg fun f => { f with phase := .restored }).run t)) ∧
      (f.place slab = 0 → f.phase = .loading → ∀ bs, t.vaBytes (t.confColour f) f.imageVa f.imageLen = .ok bs →
        exec .configComplete s = .next ((modConf cfg fun f => { f with phase := .resident, meas := sha384 bs }).run t))) ∧
    (f.phase = .gating → (∀ e ∈ f.entries, e.gated = true) → exec .gatingComplete s = .next ((Act.seq [
      modConf cfg fun f => { f with phase := .wedging },
      Act.each f.entries fun e => Act.each (s.confColours cfg) fun c =>
        entrySend cfg e.rcd.port (mkTok c .wedge (Config.freeSeq s.m.free) [0]),
      Act.each (s.nodesOf cfg) fun (core, i, n) => Act.when n.info.ins.isEmpty
        (modNode core i fun n => { n with wedges := s.confColours cfg }),
      .mod fun m => { m with free := m.free + 1 }]).run s)) ∧
    (f.phase = .wedging → s.allFrozen cfg = true → exec .wedgingComplete s = .next ((settle cfg).run s)) ∧
    (f.phase = .wedging → exec .hardFreeze s = .next ((settle cfg).run ((Act.each (s.m.cores.filter fun y => f.holds y.1) fun y =>
      Act.each y.2.acts fun z => interrupt y.1 z.1 z.2).run s))) ∧
    (f.phase = .settling → s.settled cfg f = true →
      let t := (withdraw cfg).run s
      ∀ g v, t.conf? cfg = some g → g.save = some v → exec .settlingComplete s = .next ((Act.seq [
        modConf cfg fun f => { f with phase := .saving, save := some (t.saveOf cfg f v) },
        leaveTables cfg f (t.saveOf cfg f v)]).run t)) ∧
    (f.phase = .saving → exec .savingComplete s = .next ((Act.seq [
      streamSave cfg f,
      modConf cfg fun f => { f with phase := .saved, slabs := [] },
      .when f.tearer.isNone (.pkg fun p => { p with bids := p.bids ++ [cfg] }), answerPreempts, arbitrate]).run s)) ∧
    (∀ v, f.phase = .restored → f.save = some v →
      let m := s.moveOf f v
      exec .restoreComplete s = .next ((Act.seq [tellMoved v m, renameOutside cfg v m, restoreUnits cfg v m, restoreMem f v m, restoreCluster f v m,
        modConf cfg fun f => { f with
          phase := .resident, save := none, yields := []
          moves := movedSites (sitesOf (v.slabs f.w f.h)) m f.moves
          entries := f.entries.map fun e => { e with gated := f.tearer.isSome || !f.launched } },
        present f v m, Act.each v.cores fun y => wake (m.site y.1), restoreSessions cfg f.vdev v, answerYields v m f.yields, answerPreempts]).run s)))

/-- The host, the management page, power, starts and CXL links do their work. Until READY, and in another form, a host access ends
in an error. A read answers its bytes or its word's state; a write that nothing refuses leaves its bytes and its words FULL, a
checked write only over words without a value; a presence write clears or sets. A management register takes its fields' bits, QTAB
while no queue is MAPPED or BLOCKED; a doorbell queues a WAITING descriptor; VDCMD binds or releases its entry unless it is in use,
at once or after an event in which it shows 1 (log 140). A power-on or a cold start leaves HBM as unwritten, no presence bits, no
token and no core state (log 34); a warm one keeps HBM's bytes. A CXL link that goes down poisons its pending loads and is recorded
for colour 0 (log 81). Throttling, stops, stretches and limits are recorded. -/
def Obligations.PackageEventsComplete : Prop :=
  (∀ (s : State) (a n : Nat) (bs : List Byte),
    let ready (size k : Nat) : Bool := s.m.pkg.mgmt.phase = 1 && hostForm size a k
    let no (i : Instr) : Prop := exec i s = .next ((hostAnswer none).run s)
    let refused (i : Instr) : Prop := exec i s = .next ((hostRefused a).run s)
    let ws := wordsOf a bs.length
    (ready hbmSize n = true → exec (.hostDataRead a n) s = .next ((hostAnswer (some (s.bytesAt a n))).run s)) ∧
    (ready hbmSize n = false → no (.hostDataRead a n)) ∧
    (ready hbmSize bs.length = false → no (.hostDataWrite a bs) ∧ no (.hostCheckedWrite a bs)) ∧
    (ready hbmSize bs.length = true →
      (s.reserved ws = true → refused (.hostDataWrite a bs) ∧ refused (.hostCheckedWrite a bs)) ∧
      (s.reserved ws = false → exec (.hostDataWrite a bs) s = .next (((fill a bs).andThen dropIdle).run s) ∧
        ((∀ w ∈ ws, s.presAt (4 * w) = .empty ∨ s.presAt (4 * w) = .defer) →
          exec (.hostCheckedWrite a bs) s = .next (((fill a bs).andThen dropIdle).run s)) ∧
        ((∃ w ∈ ws, s.presAt (4 * w) = .full ∨ s.presAt (4 * w) = .err) → refused (.hostCheckedWrite a bs)))) ∧
    (ready hbmSize n = true → exec (.hostPresenceRead ⟨a, n⟩) s = .next
      ((hostAnswer (some ((wordsOf a n).flatMap fun w => leBytes 4 (presBits (s.presAt (4 * w)))))).run s)) ∧
    (ready hbmSize n = false → no (.hostPresenceRead ⟨a, n⟩)) ∧
    (∀ vs : List Lane,
      let zs := (wordsOf a (4 * vs.length)).zip vs
      let set (z : Nat × Lane) : Act := .look fun s =>
        if z.2 = 0 then clearWords (4 * z.1) 4
        else if z.2 = 1 then (setPres [z.1] .full).andThen (Act.when (s.presAt (4 * z.1) = .defer) (answerReaders [z.1]))
        else .quiet
      (ready hbmSize (4 * vs.length) = true →
        (1 ∉ vs → exec (.hostPresenceClear ⟨a, vs⟩) s = .next ((Act.each zs set).run s)) ∧
        (1 ∈ vs → s.reserved ((zs.filter fun z => z.2 == 1).map Prod.fst) = true → refused (.hostPresenceSet ⟨a, vs⟩)) ∧
        (1 ∈ vs → s.reserved ((zs.filter fun z => z.2 == 1).map Prod.fst) = false →
          exec (.hostPresenceSet ⟨a, vs⟩) s = .next ((Act.each zs set).run s))) ∧
      (ready hbmSize (4 * vs.length) = false → no (.hostPresenceClear ⟨a, vs⟩) ∧ no (.hostPresenceSet ⟨a, vs⟩))) ∧
    (ready (2 ^ 34) bs.length = true → exec (.hostPublishWrite a bs) s = .next ((fill (hostAddr a) bs).run s)) ∧
    (ready (2 ^ 34) bs.length = false → no (.hostPublishWrite a bs))) ∧
  (∀ (s : State) (v : BitVec 64),
    let on (i : Instr) (f : MgmtState → MgmtState) : Prop :=
      exec i s = .next { s with m := { s.m with pkg := { s.m.pkg with mgmt := f s.m.pkg.mgmt } } }
    on (.mgmtRegisterWrite .vdsel v) (fun m => { m with vdsel := v.extractLsb' 0 5 }) ∧
    (∀ i, on (.mgmtRegisterWrite (.vdent i) v) (fun m =>
      { m with vdent := setAt m.vdent i.val (v &&& [0xFFE0FFFFFFFFF000, 0xFFFFFFFFF000, 0xFFFFFFFFFFFF0000, 0].getD i.val 0) })) ∧
    on (.mgmtRegisterWrite .c0root v) (fun m => { m with c0root := (v &&& 0xFFFFFFFFF000).toNat }) ∧
    on (.mgmtRegisterWrite .c0farea v) (fun m => { m with c0farea := (v &&& 0xFFFFFFFFFFE0).toNat }) ∧
    on (.mgmtRegisterWrite .c0nrec v) (fun m => { m with c0nrec := (v &&& 0xFFFFFFFF).toNat }) ∧
    on (.mgmtRegisterWrite .c0spoil v) (fun m => { m with c0spoil := v &&& 0xFFFFFFFFFF000000 }) ∧
    on (.mgmtRegisterWrite .c0ptab v) (fun m => { m with c0ptab := (v &&& 0xFFFFFFFFF000).toNat }) ∧
    ((∀ y ∈ s.m.pkg.queues, y.2.mapped = false ∧ y.2.blocked = false) →
      on (.qtabWrite v) (fun m => { m with qtab := (v &&& 0xFFFFFFFFFFC0).toNat })) ∧
    ((∃ y ∈ s.m.pkg.queues, y.2.mapped = true ∨ y.2.blocked = true) → exec (.qtabWrite v) s = .next s)) ∧
  (∀ (s : State) (q : BitVec 12),
    let t := dropIdle.run s
    let known : Prop := ∃ x, t.queue? q.toNat = some x ∧ x.frozen = false ∧ x.blocked = false
    (t.m.pkg.mgmt.qtab ≠ 0 → ¬ known → (t.readDesc q.toNat).st = qWaiting →
      exec (.qdoor q) s = .next ((requeue q.toNat).run ((dropReads q.toNat).run t))) ∧
    (t.m.pkg.mgmt.qtab = 0 ∨ known ∨ (t.readDesc q.toNat).st ≠ qWaiting → exec (.qdoor q) s = .next t)) ∧
  (∀ s : State,
    let v := s.m.pkg.mgmt.vdsel.toNat
    let save := bits (s.m.pkg.mgmt.vdent.getD 2 0).toNat 0 48
    let bound := bits (s.vdevWord v 0) 63 1 = 1
    let ends (a : Act) : State := (Act.seq [a, .pkg fun p => { p with vdevs := tset 0 p.vdevs v s.m.pkg.mgmt.entry }, setVdcmd 0]).run s
    (s.m.at_.j ≠ 0 → s.m.pkg.mgmt.vdcmd ≠ 1 →
      exec .vdcmdBind s = .next ((setVdcmd 1).run s) ∧ exec .vdcmdRelease s = .next ((setVdcmd 1).run s)) ∧
    (s.m.at_.j = 0 ∨ s.m.pkg.mgmt.vdcmd = 1 →
    (s.vdevInUse v = false → (s.m.pkg.mgmt.vdent.getD 0 0).getLsbD 63 = true →
      (s.m.pkg.savedBanks.contains save = true → exec .vdcmdBind s = .next (ends ((putBank v (s.bankAt save)).andThen
        (.pkg fun p => { p with savedBanks := p.savedBanks.filter (· ≠ save) })))) ∧
      (s.m.pkg.savedBanks.contains save = false → bound → exec .vdcmdBind s = .next (ends .quiet)) ∧
      (s.m.pkg.savedBanks.contains save = false → ¬ bound →
        exec .vdcmdBind s = .next (ends (putBank v (List.replicate 64 0))))) ∧
    (s.vdevInUse v = true → exec .vdcmdBind s = .next ((setVdcmd 2).run s) ∧ exec .vdcmdRelease s = .next ((setVdcmd 2).run s)) ∧
    ((s.m.pkg.mgmt.vdent.getD 0 0).getLsbD 63 = false → exec .vdcmdBind s = .next ((setVdcmd 2).run s)) ∧
    (s.vdevInUse v = false → ¬ bound → exec .vdcmdRelease s = .next ((setVdcmd 0).run s)) ∧
    (s.vdevInUse v = false → bound → exec .vdcmdRelease s = .next ((Act.seq [
      putBytes (bits (s.vdevWord v 2) 0 48)
        ((upFrom 64 0).flatMap fun i => leBytes 8 (tgetD (0 : BitVec 64) s.m.pkg.counters (v * 64 + i)).toNat),
      putBank v (List.replicate 64 0),
      .pkg fun p => { p with
        vdevs := tset 0 p.vdevs v (tgetD (0 : BitVec 256) s.m.pkg.vdevs v &&& ~~~(1#256 <<< 63))
        savedBanks := bits (s.vdevWord v 2) 0 48 :: p.savedBanks.filter (· ≠ bits (s.vdevWord v 2) 0 48) },
      setVdcmd 0]).run s)))) ∧
  (∀ s : State, s.wf →
    let phase : BitVec 2 := if Config.startFails (s.m.pkg.mgmt.boot + 1) then 2 else 1
    (∃ t, exec .powerOn s = .next t ∧ (s.m.pkg.mgmt.phase ≠ 0 → exec .startCold s = .next t) ∧
      (∀ a, a < 2 ^ 44 → t.byteAt a = 0) ∧ (∀ a, a < 2 ^ 44 ∨ 2 ^ 56 ≤ a → t.presAt a = .full) ∧
      (∀ a, 2 ^ 44 ≤ a → t.byteAt a = s.byteAt a) ∧ t.m.net = [] ∧ t.m.cores = [] ∧ t.m.pkg.mgmt.phase = phase ∧ t.m.pkg.confs = [] ∧
      t.m.pkg.queues = [] ∧ t.m.pkg.vdevs = [] ∧ t.m.pkg.counters = []) ∧
    (s.m.pkg.mgmt.phase ≠ 0 → ∃ t, exec .startWarm s = .next t ∧ (∀ a, t.byteAt a = s.byteAt a) ∧
      (∀ a, a < 2 ^ 44 → t.presAt a = (if s.presAt a = .defer then .empty else s.presAt a)) ∧ (∀ a, 2 ^ 56 ≤ a → t.presAt a = .full) ∧
      t.m.net = [] ∧ t.m.cores = [] ∧ t.m.pkg.mgmt.phase = phase ∧ t.m.pkg.confs = [] ∧ t.m.pkg.queues = [] ∧ t.m.pkg.vdevs = []) ∧
    (s.m.pkg.mgmt.phase = 0 → exec .startCold s = .next s ∧ exec .startWarm s = .next s)) ∧
  (∀ s : State,
    let port := s.m.at_.port
    let die := s.m.at_.die
    let stretch (b : Bool) : Act := modCluster s.m.at_.cluster fun k => { k with stretched := b }
    (port < 4 → s.m.pkg.cxlDown.contains port = false → exec .cxlLinkDown s = .next ((Act.seq [
      .pkg fun p => { p with cxlDown := port :: p.cxlDown }, setPool (41000 + port) [],
      Act.each (s.pool (41000 + port)) fun e => answer (41000 + port) e.req.who e.req.piece .poison,
      recordIn 0 { Record.blank with code := Code.cxlLink }]).run s)) ∧
    exec .cxlLinkTrained s = .next ((Act.pkg fun p => { p with cxlDown := p.cxlDown.filter (· ≠ port) }).run s) ∧
    exec .hostReceiverReady s = .next ((Act.pkg fun p => { p with hostReady := true }).run s) ∧
    (∀ n, exec (.hbmScrub n) s = .next (if 128 * n < hbmSize then (checked (128 * n) 128).run s else s)) ∧
    (∀ n, exec (.powerLimit n) s = .next ((Act.pkg fun p => { p with clockSteps := p.clockSteps + n }).run s)) ∧
    exec .droopStretch s = .next ((stretch true).run s) ∧ exec .supplyRecovered s = .next ((stretch false).run s) ∧
    (die < 8 → exec .thermalThrottle s = .next ((Act.pkg fun p => { p with throttled := die :: p.throttled.filter (· ≠ die) }).run s)) ∧
    (die < 8 → s.m.pkg.stopped.contains die = false → exec .thermalStop s = .next ((recordIn 0 { Record.blank with
      code := Code.thermal, site := siteId die 0 0 }).run ((Act.pkg fun p => { p with stopped := die :: p.stopped }).run s))))

/-- The link table, collectives, fabric barriers, links and seams do their work. A flooded copy newer than the one held replaces it
and goes on; an acknowledgement is noted, and what follows from it is done. Reports of marks come to a started collective and, from
the root, back to it; children's inputs go up, a result comes down, the root notes who has written, and a chunk whose holders have
all written is committed, and then marked. A message of an earlier generation changes nothing itself, one of a later generation, or
whose collective is not there yet, waits in the spoil, and what waits is looked at again behind each (logs 83, 143). An abort ends
its collective with status 3; the next waiting collective is admitted where fewer than 16 run, and one whose marks are all written
completes to its reply target (logs 86, 88). A fabric barrier's event of the agreed generation goes to the root, or on (log 144). A
link that trains enters the table with its peer; lane failures halve it, then take it down; a seam that goes down holds its traffic
until it is trained. -/
def Obligations.FabricEventsComplete : Prop :=
  (∀ (s : State) (c : LltCopy),
    ((∀ x, tget? s.m.fab.copies c.id.toNat = some x → x.gen < c.gen) → exec (.lltFlood c) s = .next ((Act.seq [
      .fab fun f => { f with copies := tput f.copies c.id.toNat c, gen := max f.gen c.gen }, fabSend (.flood c), ackTable]).run s)) ∧
    (∀ x, tget? s.m.fab.copies c.id.toNat = some x → c.gen ≤ x.gen → exec (.lltFlood c) s = .next s)) ∧
  (∀ (s : State) (id : BitVec 12) (g : Nat) (d : List Byte),
    let t := (Act.fab fun f => { f with acks := tput f.acks id.toNat (g, d) }).run s
    (g = s.m.fab.gen → d ≠ t.m.fab.digest → s.m.fab.pkg.toNat < id.toNat → exec (.lltAck id g d) s = .next (floodOwn.run t)) ∧
    (g ≠ s.m.fab.gen ∨ d = t.m.fab.digest ∨ id.toNat ≤ s.m.fab.pkg.toNat → exec (.lltAck id g d) s = .next (tryAgree.run t))) ∧
  (∀ (s : State) (k : CollMsg) (r : MarkReport) (pkg : BitVec 12) (data : List (List (Option Lane))) (row : List (Option Lane)),
    let then_ (i : Instr) (a : Act) : Prop := exec i s = .next (retryEarly.run (a.run s))
    (∀ p ∈ ([(.collMarkExchange k r, .marks k r), (.collChunkUp k pkg data, .up k pkg data), (.collChunkDown k row, .down k row),
        (.collDstAck k pkg, .dstAck k pkg)] : List (Instr × CollIn)),
      (k.gen < s.fabGen → then_ p.1 .quiet) ∧ (s.fabGen < k.gen → then_ p.1 (collEarly p.2))) ∧
    (k.gen = s.fabGen → s.fabSelf ∈ k.group →
      (∀ q c, r.child = some q → s.m.fab.colls.find? (fun c => c.of k && c.gen == k.gen && c.takesPart && !c.reported &&
          !c.reports.any fun x => x.1 == q.toNat) = some c →
        then_ (.collMarkExchange k r) ((modColl c.id fun x => { x with reports := x.reports ++ [(q.toNat, r)] }).andThen (collReport c.id))) ∧
      (∀ c, r.child = none → s.m.fab.colls.find? (fun c => c.of k && c.gen == k.gen && c.takesPart && c.reported && !c.dealt) = some c →
        c.frozen = false → s.startFar c c.group.length = false →
        then_ (.collMarkExchange k r) ((fabSend (.marks k r)).andThen (collDeal c.id r))) ∧
      (∀ c, s.collHas k = some c → c.finished = false → c.status = none →
        then_ (.collChunkUp k pkg data) ((modColl c.id fun x => { x with
          partials := x.partials ++ [(k.chunk, pkg.toNat, data)] }).andThen (collUp c.id k.chunk k.tree)) ∧
        (let p := c.cmd.collPar
         let lo := (p.output c.group.length (rankIn c.group s.fabSelf)).1
         let hi := (p.output c.group.length (rankIn c.group s.fabSelf)).2.1
         let dst := (p.output c.group.length (rankIn c.group s.fabSelf)).2.2
         let a := max lo (65536 * k.chunk)
         let n := min hi (65536 * k.chunk + 4 * row.length) - a
         c.sent.contains k.chunk = true → c.wrote.contains k.chunk = false → c.frozen = false →
         (∃ hs, collHomes s c.cmd (dst + (a - lo)) n true = .ok hs) → s.collFar c.cmd (dst + (a - lo)) n true = false →
         then_ (.collChunkDown k row) (collResult c.id k row))) ∧
      (s.collHas k = none → then_ (.collChunkUp k pkg data) (collEarly (.up k pkg data)) ∧
        then_ (.collChunkDown k row) (collEarly (.down k row))) ∧
      ∀ t, s.fabTrees[k.tree]? = some t →
        (t.root ≠ s.fabSelf → then_ (.collDstAck k pkg) (fabSend (.dstAck k pkg))) ∧
        (∀ c, t.root = s.fabSelf → s.collHas k = some c →
          then_ (.collDstAck k pkg) (modColl c.id fun x => { x with acks := (k.chunk, pkg.toNat) :: x.acks })) ∧
        (t.root = s.fabSelf → s.allAcked k = false → exec (.collChunkCommit k) s = .next s) ∧
        (∀ c h m, s.collHas k = some c → c.finished = false → c.status = none → c.frozen = false → c.marked k.chunk = false →
          (chunkHeld k (rankIn c.group s.fabSelf) = true → c.wrote.contains k.chunk = true) →
          engineHome s c.cmd classC .g (c.cmd.collPar.mark + 4 * k.chunk) 4 true = .ok (h, m) →
          s.away (siteDie c.cmd.who.core) h = false → s.engineRefusal h 4 m = none →
          let v : BitVec 32 := BitVec.ofNat 32 (2 ^ 31 + k.tree % 128 * 2 ^ 24 + k.gen % 2 ^ 24)
          let a : Act := (fabSend (.commit k)).andThen ((engineWrite c.cmd.who.colour h m (plainBytes (leBytes 4 v.toNat))).andThen
            (modColl c.id fun x => { x with full := (k.chunk, v) :: x.full, marks := k.chunk :: x.marks }))
          (t.root ≠ s.fabSelf → then_ (.collChunkCommit k) a) ∧
          (t.root = s.fabSelf → s.allAcked k = true → exec (.collChunkCommit k) s = .next (a.run s))))) ∧
  (∀ (s : State) (colour : Colour) (tag : BitVec 32) (c : Coll), s.collKey colour tag = some c →
    (c.admitted = true → exec (.collAbortMessage colour tag) s = .next (retryEarly.run
      ((dropEarly (fun m => m.key == (c.cmd.who.colour, c.tag)) c.cmd.who.colour).run ((modColl c.id fun x =>
        if x.status.isNone then { x with status := some 3, frozen := false } else x).run s)))) ∧
    (c.admitted = false → exec (.collAbortMessage colour tag) s = .next (retryEarly.run ((collEarly (.abort colour tag)).run s)))) ∧
  (∀ s : State, (s.m.fab.colls.countP fun c => c.admitted && !c.finished) < 16 → ∀ c, s.collNext = some c →
    exec .collAdmit s = .next ((Act.seq [.fab fun f => { f with rrColl := (c.vdev + 1) % 33 },
      modColl c.id fun x => { x with admitted := true }, collStart c.id, retryEarly]).run s)) ∧
  (∀ (s : State) (c : Coll), s.coll? s.m.at_.id = some c → c.finished = false → s.presents c.cmd.cfg = true →
    ((∃ v, c.status = some v) ∨ c.frozen = false ∧ c.begun = true ∧ ∀ i < c.chunks, c.marked i = true) →
    exec .collComplete s = .next ((Act.seq [modColl c.id fun x => { x with finished := true }, cmdDone c.cmd classC,
      cmdReply (collUnit c.id) c.cmd [BitVec.ofNat 32 (c.status.getD 0), BitVec.ofNat 32 c.redone, BitVec.ofNat 32 s.agreedTable.1,
        BitVec.ofNat 32 c.lost]]).run s)) ∧
  (∀ (s : State) (pkg : BitVec 12) (gen : Nat) (x : FbEvent),
    let e : FbMsg := ⟨pkg, gen, .event x⟩
    let then_ (a : Act) : Prop := exec (.fbBarrierEvent e) s = .next (fbRetry.run (a.run s))
    (gen < s.fabGen → then_ .quiet) ∧
    (s.fabGen < gen → then_ (.fab fun f => { f with fbHeld := f.fbHeld ++ [e] })) ∧
    (gen = s.fabGen → s.fabRoot ≠ s.fabSelf → then_ (fabSend (.bar e))) ∧
    (gen = s.fabGen → s.fabRoot = s.fabSelf → pkg ≠ s.m.fab.pkg → x.idx < 16 → s.fbReady = true → then_ (fbAtRoot (fbBar pkg x)))) ∧
  (∀ (s : State) (port : Nat) (peer : BitVec 12) (pport : BitVec 5),
    let q := s.m.at_.port
    let e := s.lltLocal q
    (port < 24 → exec (.linkUp port peer pport) s = .next ((setEntry port (lltEntry 2 4 peer.toNat pport.toNat)).run s)) ∧
    (q < 24 → exec .linkDown s = .next ((setEntry q (lltDown e)).run s)) ∧
    (q < 24 → lltSt e ≠ 0 →
      (lltBw e = 4 → exec .laneFail s = .next ((setEntry q (lltEntry 1 2 (lltPeer e) (lltPport e))).run s)) ∧
      (lltBw e = 2 → exec .laneFail s = .next ((setEntry q (lltEntry 1 1 (lltPeer e) (lltPport e))).run s)) ∧
      (lltBw e = 1 → exec .laneFail s = .next ((setEntry q (lltDown e)).run s)))) ∧
  (∀ s : State,
    let k := s.m.at_.seam
    k < 10 →
    (lltSt (s.lltLocal (24 + k)) ≠ 0 → exec .seamDegraded s = .next ((setEntry (24 + k) (lltEntry 1 3 s.fabSelf k)).run s)) ∧
    (s.m.pkg.seams.contains k = false → exec .seamDown s = .next ((Act.seq [
      .pkg fun p => { p with seams := k :: p.seams }, record { Record.blank with code := Code.seamDown },
      .fab fun f => { f with entries := tset 0 f.entries (24 + k) (lltEntry 0 0 s.fabSelf k), away := true }, floodOwn]).run s)) ∧
    exec .seamTrained s = .next ((Act.seq [
      .pkg fun p => { p with seams := p.seams.filter (· ≠ k) },
      .fab fun f => { f with
        entries := tset 0 f.entries (24 + k) (lltEntry 2 7 s.fabSelf k), away := decide (s.m.pkg.seams.filter (· ≠ k) ≠ []) },
      floodOwn, collWake]).run s))

/-- No instruction of a block writes memory, a presence bit, a frame slot, a held capsule or another core before the commit. Every
instruction of a block, in every form and from every state: where it answers a next state and no fault record is numbered on the
way, every byte of memory and every presence bit is as before; every activation that stands afterwards stood before at its core and
frame, with the same frame slots and the same held capsule; and no other core than the one that the cursor names has changed.
(Stores, frame writes and capsule changes happen at the commit.) -/
def Obligations.BlockInstructionsWriteNoMemory : Prop :=
  ∀ (i : Instr) (s t : State), i.opForm.isSome = true → exec i s = .next t →
    (∀ c, tgetD 0 t.m.pkg.faultNum c = tgetD 0 s.m.pkg.faultNum c) →
    t.mem = s.mem ∧ t.pres = s.pres ∧
    (∀ core frame b, t.m.act? core frame = some b →
      ∃ a, s.m.act? core frame = some a ∧ b.slots = a.slots ∧ b.held = a.held ∧ b.uid = a.uid ∧ b.colour = a.colour) ∧
    ∀ core, core ≠ s.m.cur.core → t.m.core core = s.m.core core

end
end

