-- ==== Sys2Proof/Laws/Encoding.lean ====
section
/-! SUPPORT. Fields packed and read back: each small encoder of Decode is undone by its decoder, and each body by its reader. -/

namespace Sys2Proof

/-- A field below the first of two joined ones. -/
theorem extract_below {m n k l : Nat} (a : BitVec m) (b : BitVec n) (h : k + l ≤ n) :
    (a ++ b).extractLsb' k l = b.extractLsb' k l := BitVec.extractLsb'_append_eq_of_add_le h

/-- The first of two joined fields. -/
theorem extract_top {m n : Nat} (a : BitVec m) (b : BitVec n) : (a ++ b).extractLsb' n m = a :=
  BitVec.extractLsb'_append_eq_left

theorem extract_all {n : Nat} (a : BitVec n) : a.extractLsb' 0 n = a := BitVec.extractLsb'_eq_self

/-- The first of two joined fields, where it is one bit. -/
theorem bit_top {n : Nat} (a : Bool) (b : BitVec n) : (BitVec.ofBool a ++ b).getLsbD n = a := by
  rw [BitVec.getLsbD_append]; cases a <;> simp

theorem bit_below {m n i : Nat} (a : BitVec m) (b : BitVec n) (h : i < n) : (a ++ b).getLsbD i = b.getLsbD i := by
  rw [BitVec.getLsbD_append]; simp [h]

theorem PMode.ofBits_toBits (m : PMode) : PMode.ofBits m.toBits = .ok m := by cases m <;> rfl
theorem Field.ofBits_toBits (f : Field) : Field.ofBits f.toBits = .ok f := by cases f <;> rfl
theorem Net.ofBits_toBits (n : Net) : Net.ofBits n.toBits = n := by cases n <;> rfl
theorem Space.ofBits_toBits (x : Space) : Space.ofBits x.toBits = x := by cases x <;> rfl
theorem Size.ofBits_toBits (z : Size) : Size.ofBits z.toBits = .ok z := by cases z <;> rfl

theorem Target.ofBits_toBits (t : Target) : Target.ofBits t.toBits = .ok t := by
  cases t with
  | null => rfl
  | reply => rfl
  | sink => rfl
  | window s f =>
    have h1 : (toBits (window s f)).extractLsb' 7 2 = 0 := extract_top _ _
    have h2 : (toBits (window s f)).extractLsb' 0 2 = f.toBits := by
      rw [toBits, extract_below _ _ (by decide), extract_below _ _ (by decide), extract_all]
    have h3 : (toBits (window s f)).extractLsb' 2 5 = s := by
      rw [toBits, extract_below _ _ (by decide), extract_top]
    simp [ofBits, h1, h2, h3, Field.ofBits_toBits, Except.map]
  | frame n =>
    have h1 : (toBits (frame n)).extractLsb' 7 2 = 1 := extract_top _ _
    have h2 : (toBits (frame n)).extractLsb' 0 7 = n := by rw [toBits, extract_below _ _ (by decide), extract_all]
    simp [ofBits, h1, h2]
  | port net n =>
    have h1 : (toBits (port net n)).extractLsb' 7 2 = 2 := extract_top _ _
    have h2 : (toBits (port net n)).extractLsb' 5 2 = net.toBits := by
      rw [toBits, extract_below _ _ (by decide), extract_top]
    have h3 : (toBits (port net n)).extractLsb' 0 5 = n := by
      rw [toBits, extract_below _ _ (by decide), extract_below _ _ (by decide), extract_all]
    simp [ofBits, h1, h2, h3, Net.ofBits_toBits]

/-! ## The fields of a word (02 R38) -/

theorem packWord_opcode (o : BitVec 9) (f : Form) : (packWord o f).extractLsb' 55 9 = o := extract_top _ _

theorem packWord_pm (o : BitVec 9) (f : Form) : (packWord o f).extractLsb' 53 2 = f.common.pm.toBits := by
  rw [packWord, extract_below _ _ (by decide), extract_top]

theorem packWord_t0 (o : BitVec 9) (f : Form) : (packWord o f).extractLsb' 44 9 = f.common.t0.toBits := by
  rw [packWord, extract_below _ _ (by decide), extract_below _ _ (by decide), extract_top]

theorem packWord_t1 (o : BitVec 9) (f : Form) : (packWord o f).extractLsb' 35 9 = f.common.t1.toBits := by
  rw [packWord, extract_below _ _ (by decide), extract_below _ _ (by decide), extract_below _ _ (by decide), extract_top]

theorem packWord_body (o : BitVec 9) (f : Form) : (packWord o f).extractLsb' 0 35 = f.body := by
  rw [packWord, extract_below _ _ (by decide), extract_below _ _ (by decide), extract_below _ _ (by decide),
    extract_below _ _ (by decide), extract_all]

theorem Common.ofWord_packWord (o : BitVec 9) (f : Form) : Common.ofWord (packWord o f) = .ok f.common := by
  simp only [ofWord, packWord_pm, packWord_t0, packWord_t1, PMode.ofBits_toBits, Target.ofBits_toBits]

/-! ## The bodies (02 R42, R47 to R52) -/

theorem FormA.ofBody_body (f : FormA) : FormA.ofBody f.c (Form.a f).body = f := by
  have h1 : (Form.a f).body.extractLsb' 31 4 = f.ty := extract_top _ _
  have h2 : (Form.a f).body.extractLsb' 26 5 = f.sub := by rw [Form.body, extract_below _ _ (by decide), extract_top]
  have h3 : (Form.a f).body.getLsbD 25 = f.immf := by
    rw [Form.body, bit_below _ _ (by decide), bit_below _ _ (by decide), bit_top]
  have h4 : (Form.a f).body.extractLsb' 0 25 = f.imm := by
    rw [Form.body, extract_below _ _ (by decide), extract_below _ _ (by decide), extract_below _ _ (by decide), extract_all]
  cases f; simp_all [ofBody]

theorem FormI.ofBody_body (f : FormI) : FormI.ofBody f.c (Form.i f).body = f := by
  have h1 : (Form.i f).body.extractLsb' 32 3 = f.kind := extract_top _ _
  have h2 : (Form.i f).body.extractLsb' 0 32 = f.imm := by rw [Form.body, extract_below _ _ (by decide), extract_all]
  cases f; simp_all [ofBody]

theorem FormX.ofBody_body (f : FormX) : FormX.ofBody f.c (Form.x f).body = f := by
  have h1 : (Form.x f).body.extractLsb' 31 4 = f.eop := extract_top _ _
  have h2 : (Form.x f).body.extractLsb' 26 5 = f.var := by rw [Form.body, extract_below _ _ (by decide), extract_top]
  have h3 : (Form.x f).body.extractLsb' 19 7 = f.pbase := by
    rw [Form.body, extract_below _ _ (by decide), extract_below _ _ (by decide), extract_top]
  have h4 : (Form.x f).body.extractLsb' 0 19 = f.flags := by
    rw [Form.body, extract_below _ _ (by decide), extract_below _ _ (by decide), extract_below _ _ (by decide), extract_all]
  cases f; simp_all [ofBody]

theorem FormK.ofBody_body (f : FormK) : FormK.ofBody f.c (Form.k f).body = f := by
  have h1 : (Form.k f).body.extractLsb' 31 4 = f.kvar := extract_top _ _
  have h2 : (Form.k f).body.extractLsb' 27 4 = f.ent := by rw [Form.body, extract_below _ _ (by decide), extract_top]
  have h3 : (Form.k f).body.extractLsb' 0 27 = f.kimm := by
    rw [Form.body, extract_below _ _ (by decide), extract_below _ _ (by decide), extract_all]
  cases f; simp_all [ofBody]

theorem FormS.ofBody_body (f : FormS) : FormS.ofBody f.c (Form.s f).body = f := by
  have h1 : (Form.s f).body.extractLsb' 23 12 = f.sreg := extract_top _ _
  have h2 : (Form.s f).body.extractLsb' 0 23 = f.simm := by rw [Form.body, extract_below _ _ (by decide), extract_all]
  cases f; simp_all [ofBody]

theorem FormC.ofBody_body (f : FormC) : FormC.ofBody f.c (Form.c f).body = .ok f := by
  have h0 : (Form.c f).body.extractLsb' 0 5 = 0 := by
    rw [Form.body, extract_below _ _ (by decide), extract_below _ _ (by decide), extract_below _ _ (by decide),
      extract_below _ _ (by decide), extract_all]
  have h1 : (Form.c f).body.extractLsb' 29 6 = f.bt0 := extract_top _ _
  have h2 : (Form.c f).body.extractLsb' 23 6 = f.bt1 := by rw [Form.body, extract_below _ _ (by decide), extract_top]
  have h3 : (Form.c f).body.extractLsb' 11 12 = f.handle := by
    rw [Form.body, extract_below _ _ (by decide), extract_below _ _ (by decide), extract_top]
  have h4 : (Form.c f).body.extractLsb' 5 6 = f.entry := by
    rw [Form.body, extract_below _ _ (by decide), extract_below _ _ (by decide), extract_below _ _ (by decide), extract_top]
  cases f; simp_all [ofBody]

theorem FormM.ofBody_body (f : FormM) : FormM.ofBody f.c (Form.m f).body = .ok f := by
  have h1 : (Form.m f).body.extractLsb' 30 5 = f.sqp := extract_top _ _
  have h2 : (Form.m f).body.extractLsb' 25 5 = f.sqo := by rw [Form.body, extract_below _ _ (by decide), extract_top]
  have h3 : (Form.m f).body.extractLsb' 20 5 = f.sqs := by
    rw [Form.body, extract_below _ _ (by decide), extract_below _ _ (by decide), extract_top]
  have h4 : (Form.m f).body.extractLsb' 18 2 = f.sp.toBits := by
    rw [Form.body, extract_below _ _ (by decide), extract_below _ _ (by decide), extract_below _ _ (by decide), extract_top]
  have h5 : (Form.m f).body.extractLsb' 15 3 = f.sz.toBits := by
    rw [Form.body, extract_below _ _ (by decide), extract_below _ _ (by decide), extract_below _ _ (by decide),
      extract_below _ _ (by decide), extract_top]
  have h6 : (Form.m f).body.getLsbD 14 = f.lnk := by
    rw [Form.body, bit_below _ _ (by decide), bit_below _ _ (by decide), bit_below _ _ (by decide), bit_below _ _ (by decide),
      bit_below _ _ (by decide), bit_top]
  have h7 : (Form.m f).body.extractLsb' 0 14 = f.off := by
    rw [Form.body, extract_below _ _ (by decide), extract_below _ _ (by decide), extract_below _ _ (by decide),
      extract_below _ _ (by decide), extract_below _ _ (by decide), extract_below _ _ (by decide), extract_all]
  cases f; simp_all [ofBody, Space.ofBits_toBits, Size.ofBits_toBits, Except.map]

/-! ## Bytes -/

theorem leNat_leBytes (n x : Nat) : leNat (leBytes n x) = x % 2 ^ (8 * n) := by
  induction n generalizing x with
  | zero => simp [leNat, leBytes, Nat.mod_one]
  | succ n ih =>
    have h : 2 ^ (8 * (n + 1)) = 256 * 2 ^ (8 * n) := by rw [show 8 * (n + 1) = 8 + 8 * n by omega, Nat.pow_add]
    have hm := Nat.mod_mul (a := 256) (b := 2 ^ (8 * n)) (x := x)
    rw [h, hm, leBytes, leNat, ih, BitVec.toNat_ofNat]

theorem leBytes_length (n x : Nat) : (leBytes n x).length = n := by
  induction n generalizing x with
  | zero => rfl
  | succ n ih => simp [leBytes, ih]

end Sys2Proof
end

