-- ==== Sys2Proof/Laws/Tables.lean ====
section
/-! SUPPORT. The laws of tables: what a read gives after a write, and that every write keeps the canonical form. -/

namespace Sys2Proof.Machine

variable {α : Type}

/-! ## Rising keys -/

/-- Every key of a table lies above k. -/
def Tab.above (k : Nat) (t : Tab α) : Prop := ∀ i x, (i, x) ∈ t → k < i

/-- Keys strictly rising, and no entry equal to d: the canonical form, as a proposition by recursion. -/
def Tab.canonical (d : α) : Tab α → Prop
  | [] => True
  | (k, v) :: t => v ≠ d ∧ Tab.above k t ∧ Tab.canonical d t

theorem Tab.above_nil (k : Nat) : Tab.above k ([] : Tab α) := by simp [Tab.above]

theorem Tab.above_cons {k i : Nat} {x : α} {t : Tab α} : Tab.above k ((i, x) :: t) ↔ k < i ∧ Tab.above k t := by
  constructor
  · intro h
    exact ⟨h i x (List.mem_cons_self ..), fun j y hj => h j y (List.mem_cons_of_mem _ hj)⟩
  · rintro ⟨h, ht⟩ j y hj
    rcases List.mem_cons.mp hj with e | hj
    · cases e; exact h
    · exact ht j y hj

theorem Tab.above_of_lt {k i : Nat} {t : Tab α} (h : k < i) (ht : Tab.above i t) : Tab.above k t :=
  fun j y hj => Nat.lt_trans h (ht j y hj)

theorem Tab.wf_iff [DecidableEq α] (d : α) (t : Tab α) : Tab.wf d t = true ↔ Tab.canonical d t := by
  induction t with
  | nil => simp [Tab.wf, Tab.canonical]
  | cons p t ih =>
    obtain ⟨k, v⟩ := p
    cases t with
    | nil => simp [Tab.wf, Tab.canonical, Tab.above_nil]
    | cons q t =>
      obtain ⟨k', v'⟩ := q
      simp only [Tab.wf, Bool.and_eq_true, decide_eq_true_eq, bne_iff_ne, ne_eq, ih]
      constructor
      · rintro ⟨⟨h, hv⟩, hc⟩
        exact ⟨hv, Tab.above_cons.mpr ⟨h, Tab.above_of_lt h hc.2.1⟩, hc⟩
      · rintro ⟨hv, ha, hc⟩
        exact ⟨⟨(Tab.above_cons.mp ha).1, hv⟩, hc⟩

/-! ## Writes keep the form -/

theorem tput_above {k i : Nat} {x : α} {t : Tab α} (h : k < i) (ht : Tab.above k t) : Tab.above k (tput t i x) := by
  induction t with
  | nil => simpa [tput, Tab.above] using h
  | cons p t ih =>
    obtain ⟨j, v⟩ := p
    have hj := Tab.above_cons.mp ht
    simp only [tput]
    split
    · exact Tab.above_cons.mpr ⟨h, ht⟩
    · split
      · exact Tab.above_cons.mpr ⟨h, hj.2⟩
      · exact Tab.above_cons.mpr ⟨hj.1, ih hj.2⟩

theorem tput_canonical {d x : α} {t : Tab α} (i : Nat) (hx : x ≠ d) (ht : Tab.canonical d t) :
    Tab.canonical d (tput t i x) := by
  induction t with
  | nil => exact ⟨hx, Tab.above_nil _, trivial⟩
  | cons p t ih =>
    obtain ⟨j, v⟩ := p
    obtain ⟨hv, ha, hc⟩ := ht
    simp only [tput]
    split
    · next h => exact ⟨hx, Tab.above_cons.mpr ⟨h, Tab.above_of_lt h ha⟩, hv, ha, hc⟩
    · split
      · next h => exact ⟨hx, h ▸ ha, hc⟩
      · exact ⟨hv, tput_above (by omega) ha, ih hc⟩

theorem tdel_above {k i : Nat} {t : Tab α} (ht : Tab.above k t) : Tab.above k (tdel t i) := by
  induction t with
  | nil => exact ht
  | cons p t ih =>
    obtain ⟨j, v⟩ := p
    have hj := Tab.above_cons.mp ht
    simp only [tdel]
    split
    · exact hj.2
    · exact Tab.above_cons.mpr ⟨hj.1, ih hj.2⟩

theorem tdel_canonical {d : α} {t : Tab α} (i : Nat) (ht : Tab.canonical d t) : Tab.canonical d (tdel t i) := by
  induction t with
  | nil => trivial
  | cons p t ih =>
    obtain ⟨j, v⟩ := p
    obtain ⟨hv, ha, hc⟩ := ht
    simp only [tdel]
    split
    · exact hc
    · exact ⟨hv, tdel_above ha, ih hc⟩

/-- Every write of a table keeps the canonical form. -/
theorem tset_wf [DecidableEq α] {d : α} {t : Tab α} (i : Nat) (x : α) (ht : Tab.wf d t = true) :
    Tab.wf d (tset d t i x) = true := by
  rw [Tab.wf_iff] at ht ⊢
  unfold tset
  split
  · exact tdel_canonical i ht
  · next h => exact tput_canonical i h ht

/-! ## Reads after writes -/

theorem tget_above {i : Nat} {t : Tab α} (h : Tab.above i t) : tget? t i = none := by
  induction t with
  | nil => rfl
  | cons p t ih =>
    obtain ⟨j, v⟩ := p
    have hj := Tab.above_cons.mp h
    have hne : j ≠ i := by omega
    simp [tget?, hne, ih hj.2]

@[simp] theorem tget_tput_same (t : Tab α) (i : Nat) (x : α) : tget? (tput t i x) i = some x := by
  induction t with
  | nil => simp [tput, tget?]
  | cons p t ih =>
    obtain ⟨j, v⟩ := p
    simp only [tput]
    split
    · simp [tget?]
    · split
      · simp [tget?]
      · next h => simp [tget?, ih, Ne.symm h]

theorem tget_tput_other (t : Tab α) {i j : Nat} (x : α) (h : j ≠ i) : tget? (tput t i x) j = tget? t j := by
  induction t with
  | nil => simp [tput, tget?, Ne.symm h]
  | cons p t ih =>
    obtain ⟨k, v⟩ := p
    simp only [tput]
    split
    · simp [tget?, Ne.symm h]
    · split
      · next h' => subst h'; simp [tget?, Ne.symm h]
      · simp [tget?, ih]

theorem tget_tdel_other (t : Tab α) {i j : Nat} (h : j ≠ i) : tget? (tdel t i) j = tget? t j := by
  induction t with
  | nil => rfl
  | cons p t ih =>
    obtain ⟨k, v⟩ := p
    simp only [tdel]
    split
    · next h' => subst h'; simp [tget?, Ne.symm h]
    · simp [tget?, ih]

theorem tget_tdel_same {d : α} {t : Tab α} (i : Nat) (ht : Tab.canonical d t) : tget? (tdel t i) i = none := by
  induction t with
  | nil => rfl
  | cons p t ih =>
    obtain ⟨k, v⟩ := p
    obtain ⟨_, ha, hc⟩ := ht
    simp only [tdel]
    split
    · next h => subst h; exact tget_above ha
    · next h => simp [tget?, h, ih hc]

@[simp] theorem tgetD_tput_same (d : α) (t : Tab α) (i : Nat) (x : α) : tgetD d (tput t i x) i = x := by simp [tgetD]

theorem tgetD_tput_other (d : α) (t : Tab α) {i j : Nat} (x : α) (h : j ≠ i) : tgetD d (tput t i x) j = tgetD d t j := by
  simp [tgetD, tget_tput_other t x h]

/-- A read after a write to the same place gives the value written. -/
theorem tgetD_tset_same [DecidableEq α] {d : α} {t : Tab α} (i : Nat) (x : α) (ht : Tab.wf d t = true) :
    tgetD d (tset d t i x) i = x := by
  unfold tset
  split
  · next h => simp [tgetD, tget_tdel_same i ((Tab.wf_iff d t).mp ht), h]
  · simp

/-- A write leaves every other place alone. -/
theorem tgetD_tset_other [DecidableEq α] (d : α) (t : Tab α) {i j : Nat} (x : α) (h : j ≠ i) :
    tgetD d (tset d t i x) j = tgetD d t j := by
  unfold tset tgetD
  split
  · rw [tget_tdel_other t h]
  · rw [tget_tput_other t x h]

end Sys2Proof.Machine
end

