-- ==== Sys2Proof/Laws/State.lean ====
section
/-! SUPPORT. One lemma per field and update of the state: the three effects, and the updates of the machine's parts. -/

namespace Sys2Proof.Machine

/-! ## The three effects -/

@[simp] theorem State.eff_m_mem (s : State) (x : Machine) : (s.eff (.m x)).mem = s.mem := rfl
@[simp] theorem State.eff_m_pres (s : State) (x : Machine) : (s.eff (.m x)).pres = s.pres := rfl
@[simp] theorem State.eff_m_m (s : State) (x : Machine) : (s.eff (.m x)).m = x := rfl
@[simp] theorem State.eff_byte_mem (s : State) (a : Nat) (b : Byte) : (s.eff (.byte a b)).mem = tset 0 s.mem a b := rfl
@[simp] theorem State.eff_byte_pres (s : State) (a : Nat) (b : Byte) : (s.eff (.byte a b)).pres = s.pres := rfl
@[simp] theorem State.eff_byte_m (s : State) (a : Nat) (b : Byte) : (s.eff (.byte a b)).m = s.m := rfl
@[simp] theorem State.eff_pres_mem (s : State) (w : Nat) (p : Pres) : (s.eff (.pres w p)).mem = s.mem := rfl
@[simp] theorem State.eff_pres_pres (s : State) (w : Nat) (p : Pres) :
    (s.eff (.pres w p)).pres = tset .full s.pres w p := rfl
@[simp] theorem State.eff_pres_m (s : State) (w : Nat) (p : Pres) : (s.eff (.pres w p)).m = s.m := rfl

/-! ## Lists of effects, and acts -/

@[simp] theorem State.effs_nil (s : State) : s.effs [] = s := rfl
@[simp] theorem State.effs_cons (s : State) (e : Eff) (es : List Eff) : s.effs (e :: es) = (s.eff e).effs es := rfl

theorem State.effs_append (s : State) (es fs : List Eff) : s.effs (es ++ fs) = (s.effs es).effs fs := by
  induction es generalizing s with
  | nil => rfl
  | cons e es ih => simp [ih]

@[simp] theorem Act.run_quiet (s : State) : Act.quiet.run s = s := rfl

/-- One thing after another runs the second in the state that the first leaves. -/
@[simp] theorem Act.run_andThen (a b : Act) (s : State) : (a.andThen b).run s = b.run (a.run s) :=
  State.effs_append s (a s) _

@[simp] theorem Act.run_seq_nil (s : State) : (Act.seq []).run s = s := rfl
@[simp] theorem Act.run_seq_cons (a : Act) (as : List Act) (s : State) : (Act.seq (a :: as)).run s = (Act.seq as).run (a.run s) :=
  Act.run_andThen a (Act.seq as) s

@[simp] theorem Act.run_each_nil {α : Type} (f : α → Act) (s : State) : (Act.each [] f).run s = s := rfl
@[simp] theorem Act.run_each_cons {α : Type} (x : α) (xs : List α) (f : α → Act) (s : State) :
    (Act.each (x :: xs) f).run s = (Act.each xs f).run ((f x).run s) := Act.run_andThen (f x) (Act.each xs f) s

@[simp] theorem Act.run_when_true (a : Act) (s : State) : (Act.when true a).run s = a.run s := rfl
@[simp] theorem Act.run_when_false (a : Act) (s : State) : (Act.when false a).run s = s := rfl
@[simp] theorem Act.run_look (f : State → Act) (s : State) : (Act.look f).run s = (f s).run s := rfl
@[simp] theorem Act.run_mod_mem (f : Machine → Machine) (s : State) : ((Act.mod f).run s).mem = s.mem := rfl
@[simp] theorem Act.run_mod_pres (f : Machine → Machine) (s : State) : ((Act.mod f).run s).pres = s.pres := rfl
@[simp] theorem Act.run_mod_m (f : Machine → Machine) (s : State) : ((Act.mod f).run s).m = f s.m := rfl

/-! ## The package's tables and the fabric -/

@[simp] theorem Act.run_pkg_mem (f : PkgState → PkgState) (s : State) : ((Act.pkg f).run s).mem = s.mem := rfl
@[simp] theorem Act.run_pkg_pres (f : PkgState → PkgState) (s : State) : ((Act.pkg f).run s).pres = s.pres := rfl
@[simp] theorem Act.run_pkg_m_agenda (f : PkgState → PkgState) (s : State) : ((Act.pkg f).run s).m.agenda = s.m.agenda := rfl
@[simp] theorem Act.run_pkg_m_at (f : PkgState → PkgState) (s : State) : ((Act.pkg f).run s).m.at_ = s.m.at_ := rfl
@[simp] theorem Act.run_pkg_m_cur (f : PkgState → PkgState) (s : State) : ((Act.pkg f).run s).m.cur = s.m.cur := rfl
@[simp] theorem Act.run_pkg_m_free (f : PkgState → PkgState) (s : State) : ((Act.pkg f).run s).m.free = s.m.free := rfl
@[simp] theorem Act.run_pkg_m_net (f : PkgState → PkgState) (s : State) : ((Act.pkg f).run s).m.net = s.m.net := rfl
@[simp] theorem Act.run_pkg_m_cores (f : PkgState → PkgState) (s : State) : ((Act.pkg f).run s).m.cores = s.m.cores := rfl
@[simp] theorem Act.run_pkg_m_clusters (f : PkgState → PkgState) (s : State) :
    ((Act.pkg f).run s).m.clusters = s.m.clusters := rfl
@[simp] theorem Act.run_pkg_m_pkg (f : PkgState → PkgState) (s : State) : ((Act.pkg f).run s).m.pkg = f s.m.pkg := rfl
@[simp] theorem Act.run_pkg_m_fab (f : PkgState → PkgState) (s : State) : ((Act.pkg f).run s).m.fab = s.m.fab := rfl
@[simp] theorem Act.run_fab_mem (f : FabricState → FabricState) (s : State) : ((Act.fab f).run s).mem = s.mem := rfl
@[simp] theorem Act.run_fab_pres (f : FabricState → FabricState) (s : State) : ((Act.fab f).run s).pres = s.pres := rfl
@[simp] theorem Act.run_fab_m_agenda (f : FabricState → FabricState) (s : State) :
    ((Act.fab f).run s).m.agenda = s.m.agenda := rfl
@[simp] theorem Act.run_fab_m_at (f : FabricState → FabricState) (s : State) : ((Act.fab f).run s).m.at_ = s.m.at_ := rfl
@[simp] theorem Act.run_fab_m_cur (f : FabricState → FabricState) (s : State) : ((Act.fab f).run s).m.cur = s.m.cur := rfl
@[simp] theorem Act.run_fab_m_free (f : FabricState → FabricState) (s : State) : ((Act.fab f).run s).m.free = s.m.free := rfl
@[simp] theorem Act.run_fab_m_net (f : FabricState → FabricState) (s : State) : ((Act.fab f).run s).m.net = s.m.net := rfl
@[simp] theorem Act.run_fab_m_cores (f : FabricState → FabricState) (s : State) :
    ((Act.fab f).run s).m.cores = s.m.cores := rfl
@[simp] theorem Act.run_fab_m_clusters (f : FabricState → FabricState) (s : State) :
    ((Act.fab f).run s).m.clusters = s.m.clusters := rfl
@[simp] theorem Act.run_fab_m_pkg (f : FabricState → FabricState) (s : State) : ((Act.fab f).run s).m.pkg = s.m.pkg := rfl
@[simp] theorem Act.run_fab_m_fab (f : FabricState → FabricState) (s : State) : ((Act.fab f).run s).m.fab = f s.m.fab := rfl

/-! ## One core, one cluster -/

@[simp] theorem modCore_mem (c : Nat) (f : CoreState → CoreState) (s : State) : ((modCore c f).run s).mem = s.mem := rfl
@[simp] theorem modCore_pres (c : Nat) (f : CoreState → CoreState) (s : State) : ((modCore c f).run s).pres = s.pres := rfl
@[simp] theorem modCore_agenda (c : Nat) (f : CoreState → CoreState) (s : State) :
    ((modCore c f).run s).m.agenda = s.m.agenda := rfl
@[simp] theorem modCore_at (c : Nat) (f : CoreState → CoreState) (s : State) : ((modCore c f).run s).m.at_ = s.m.at_ := rfl
@[simp] theorem modCore_cur (c : Nat) (f : CoreState → CoreState) (s : State) : ((modCore c f).run s).m.cur = s.m.cur := rfl
@[simp] theorem modCore_free (c : Nat) (f : CoreState → CoreState) (s : State) :
    ((modCore c f).run s).m.free = s.m.free := rfl
@[simp] theorem modCore_net (c : Nat) (f : CoreState → CoreState) (s : State) : ((modCore c f).run s).m.net = s.m.net := rfl
@[simp] theorem modCore_cores (c : Nat) (f : CoreState → CoreState) (s : State) :
    ((modCore c f).run s).m.cores = tput s.m.cores c (f (s.m.core c)) := rfl
@[simp] theorem modCore_clusters (c : Nat) (f : CoreState → CoreState) (s : State) :
    ((modCore c f).run s).m.clusters = s.m.clusters := rfl
@[simp] theorem modCore_pkg (c : Nat) (f : CoreState → CoreState) (s : State) : ((modCore c f).run s).m.pkg = s.m.pkg := rfl
@[simp] theorem modCore_fab (c : Nat) (f : CoreState → CoreState) (s : State) : ((modCore c f).run s).m.fab = s.m.fab := rfl
@[simp] theorem modCluster_mem (c : Nat) (f : ClusterState → ClusterState) (s : State) :
    ((modCluster c f).run s).mem = s.mem := rfl
@[simp] theorem modCluster_pres (c : Nat) (f : ClusterState → ClusterState) (s : State) :
    ((modCluster c f).run s).pres = s.pres := rfl
@[simp] theorem modCluster_agenda (c : Nat) (f : ClusterState → ClusterState) (s : State) :
    ((modCluster c f).run s).m.agenda = s.m.agenda := rfl
@[simp] theorem modCluster_at (c : Nat) (f : ClusterState → ClusterState) (s : State) :
    ((modCluster c f).run s).m.at_ = s.m.at_ := rfl
@[simp] theorem modCluster_cur (c : Nat) (f : ClusterState → ClusterState) (s : State) :
    ((modCluster c f).run s).m.cur = s.m.cur := rfl
@[simp] theorem modCluster_free (c : Nat) (f : ClusterState → ClusterState) (s : State) :
    ((modCluster c f).run s).m.free = s.m.free := rfl
@[simp] theorem modCluster_net (c : Nat) (f : ClusterState → ClusterState) (s : State) :
    ((modCluster c f).run s).m.net = s.m.net := rfl
@[simp] theorem modCluster_cores (c : Nat) (f : ClusterState → ClusterState) (s : State) :
    ((modCluster c f).run s).m.cores = s.m.cores := rfl
@[simp] theorem modCluster_clusters (c : Nat) (f : ClusterState → ClusterState) (s : State) :
    ((modCluster c f).run s).m.clusters = tput s.m.clusters c (f (s.m.cluster c)) := rfl
@[simp] theorem modCluster_pkg (c : Nat) (f : ClusterState → ClusterState) (s : State) :
    ((modCluster c f).run s).m.pkg = s.m.pkg := rfl
@[simp] theorem modCluster_fab (c : Nat) (f : ClusterState → ClusterState) (s : State) :
    ((modCluster c f).run s).m.fab = s.m.fab := rfl

@[simp] theorem modCore_core (c : Nat) (f : CoreState → CoreState) (s : State) :
    ((modCore c f).run s).m.core c = f (s.m.core c) := by simp [Machine.core]

theorem modCore_core_other {c d : Nat} (f : CoreState → CoreState) (s : State) (h : d ≠ c) :
    ((modCore c f).run s).m.core d = s.m.core d := by simp [Machine.core, tgetD_tput_other _ _ _ h]

@[simp] theorem modCluster_cluster (c : Nat) (f : ClusterState → ClusterState) (s : State) :
    ((modCluster c f).run s).m.cluster c = f (s.m.cluster c) := by simp [Machine.cluster]

theorem modCluster_cluster_other {c d : Nat} (f : ClusterState → ClusterState) (s : State) (h : d ≠ c) :
    ((modCluster c f).run s).m.cluster d = s.m.cluster d := by simp [Machine.cluster, tgetD_tput_other _ _ _ h]

/-! ## Messages -/

@[simp] theorem send_mem (src dst : Nat) (c : Cls) (b : Body) (s : State) : ((send src dst c b).run s).mem = s.mem := rfl
@[simp] theorem send_pres (src dst : Nat) (c : Cls) (b : Body) (s : State) : ((send src dst c b).run s).pres = s.pres := rfl
@[simp] theorem send_net (src dst : Nat) (c : Cls) (b : Body) (s : State) :
    ((send src dst c b).run s).m.net = s.m.net ++ [⟨src, dst, c, b, none⟩] := rfl
@[simp] theorem send_cores (src dst : Nat) (c : Cls) (b : Body) (s : State) : ((send src dst c b).run s).m.cores = s.m.cores := rfl
@[simp] theorem send_clusters (src dst : Nat) (c : Cls) (b : Body) (s : State) :
    ((send src dst c b).run s).m.clusters = s.m.clusters := rfl
@[simp] theorem send_pkg (src dst : Nat) (c : Cls) (b : Body) (s : State) : ((send src dst c b).run s).m.pkg = s.m.pkg := rfl
@[simp] theorem send_fab (src dst : Nat) (c : Cls) (b : Body) (s : State) : ((send src dst c b).run s).m.fab = s.m.fab := rfl

/-! ## The canonical form -/

theorem State.eff_wf {s : State} (h : s.wf) (e : Eff) : (s.eff e).wf := by
  cases e with
  | m x => exact h
  | byte a b => exact ⟨tset_wf a b h.1, h.2⟩
  | pres w p => exact ⟨h.1, tset_wf w p h.2⟩

theorem State.effs_wf {s : State} (h : s.wf) (es : List Eff) : (s.effs es).wf := by
  induction es generalizing s with
  | nil => exact h
  | cons e es ih => exact ih (State.eff_wf h e)

/-- Whatever happens in a step keeps memory and presence in their canonical form. -/
theorem Act.run_wf {s : State} (h : s.wf) (a : Act) : (a.run s).wf := State.effs_wf h (a s)

/-! ## Reading memory after an effect -/

theorem State.byteAt_byte_same {s : State} (h : s.wf) (a : Nat) (b : Byte) : (s.eff (.byte a b)).byteAt a = b :=
  tgetD_tset_same a b h.1

theorem State.byteAt_byte_other (s : State) {a c : Nat} (b : Byte) (h : c ≠ a) : (s.eff (.byte a b)).byteAt c = s.byteAt c :=
  tgetD_tset_other _ _ b h

@[simp] theorem State.byteAt_m (s : State) (x : Machine) (a : Nat) : (s.eff (.m x)).byteAt a = s.byteAt a := rfl
@[simp] theorem State.byteAt_pres (s : State) (w : Nat) (p : Pres) (a : Nat) : (s.eff (.pres w p)).byteAt a = s.byteAt a := rfl

theorem State.presAt_pres_same {s : State} (h : s.wf) (a : Nat) (p : Pres) : (s.eff (.pres (a / 4) p)).presAt a = p :=
  tgetD_tset_same (a / 4) p h.2

theorem State.presAt_pres_other (s : State) {a w : Nat} (p : Pres) (h : a / 4 ≠ w) :
    (s.eff (.pres w p)).presAt a = s.presAt a := tgetD_tset_other _ _ p h

end Sys2Proof.Machine
end

