-- ==== Sys2Proof/Laws/Fire.lean ====
section
/-! SUPPORT. What the firing rule does, said once (01 R20, R21): a slot that fires, one that may not, one that its predicate turns
off, and one whose predicate is bad. -/

namespace Sys2Proof.Machine

theorem firing_some {i : Instr} {s : State} {x : Ctx} {o : BitVec 9} {f : Form} (hi : i.opForm = some (o, f))
    (h : firing i s = some x) :
    ctx? s = some x ∧ x.ready s o.toNat f = true ∧ x.gate s o.toNat f = true ∧ x.w.skip ≠ some x.slot ∧ x.lets f = true ∧
      x.lacksReply f.common = false := by
  unfold firing at h
  rw [hi] at h
  cases hc : ctx? s with
  | none => simp [hc] at h
  | some y =>
    simp only [hc] at h
    split at h
    · rename_i hy
      simp only [Option.some.injEq] at h
      subst h
      simp only [Bool.and_eq_true, decide_eq_true_eq, Bool.not_eq_true'] at hy
      exact ⟨rfl, hy.1.1.1.1, hy.1.1.1.2, hy.1.1.2, hy.1.2, hy.2⟩
    · cases h

/-- A slot that fires: its fields are read, then its body acts. -/
theorem firing_fire {i : Instr} {s : State} {x : Ctx} {o : BitVec 9} {n : Nat} {f : Form} (hi : i.opForm = some (o, f))
    (hn : o.toNat = n) (h : firing i s = some x) (nul body : Ctx → Act) : (fire n f nul body).run s = x.after s (body x) := by
  subst hn
  obtain ⟨hc, hr, hg, hk, hl, hn⟩ := firing_some hi h
  unfold fire Ctx.after
  simp only [Act.run_look, hc, hr, hg, Bool.and_self, Bool.not_true, Bool.false_eq_true, if_false, Act.run_andThen, hk, Ctx.act, hn]
  unfold Ctx.lets at hl
  cases hpm : f.common.pm <;> cases hp : x.fields.p <;> simp_all

/-- A slot that may not fire, or that waits at its gate, changes nothing. -/
theorem fire_quiet {s : State} {x : Ctx} {o : Nat} {f : Form} (hc : ctx? s = some x)
    (h : (x.ready s o f && x.gate s o f) = false) (nul body : Ctx → Act) : (fire o f nul body).run s = s := by
  unfold fire
  simp only [Act.run_look, hc, h, Bool.not_false, if_true, Act.run_quiet]

theorem fire_none {s : State} {o : Nat} {f : Form} (hc : ctx? s = none) (nul body : Ctx → Act) :
    (fire o f nul body).run s = s := by
  simp [fire, hc]

/-- A slot that its predicate turns off, or that a resumption skips: null outputs. -/
theorem fire_off {s : State} {x : Ctx} {o : Nat} {f : Form} (hc : ctx? s = some x) (hr : x.ready s o f = true)
    (hg : x.gate s o f = true)
    (h : x.w.skip = some x.slot ∨ ∃ p, x.fields.p = some p ∧ f.common.pm ≠ .always ∧ p.isBad = false ∧
      (p.lane0.getLsbD 0 = true) ≠ (f.common.pm = .onTrue)) (nul body : Ctx → Act) :
    (fire o f nul body).run s = x.after s ((x.nullOuts f.common).andThen (x.unless (nul x))) := by
  unfold fire Ctx.after
  simp only [Act.run_look, hc, hr, hg, Bool.and_self, Bool.not_true, Bool.false_eq_true, if_false, Act.run_andThen]
  by_cases hk : x.w.skip = some x.slot
  · simp [hk]
  · obtain hk' | ⟨p, hp, hpm, hb, hl⟩ := h
    · exact absurd hk' hk
    · cases hpm' : f.common.pm <;> simp_all

/-- A slot whose predicate is an error or a poison: it leaves on both targets. -/
theorem fire_bad {s : State} {x : Ctx} {o : Nat} {f : Form} {p : Token} (hc : ctx? s = some x) (hr : x.ready s o f = true)
    (hg : x.gate s o f = true) (hk : x.w.skip ≠ some x.slot) (hp : x.fields.p = some p) (hpm : f.common.pm ≠ .always)
    (hb : p.isBad = true) (nul body : Ctx → Act) :
    (fire o f nul body).run s = x.after s ((x.emitQuiet f.common (x.pass p)).andThen (x.unless (nul x))) := by
  unfold fire Ctx.after
  simp only [Act.run_look, hc, hr, hg, Bool.and_self, Bool.not_true, Bool.false_eq_true, if_false, Act.run_andThen, hk]
  cases hpm' : f.common.pm <;> simp_all

/-! ## Operands that reach `execute` -/

/-- Data operands of the context's width emit nothing before they reach `execute`. -/
theorem Ctx.early_data {x : Ctx} {ops : List Token} {c : Option Token}
    (h : ∀ u ∈ ops ++ c.toList, u.kind = .data ∧ u.lanes.length = x.width) : x.early ops c = none := by
  have mixed : ∀ us : List Token, (∀ u ∈ us, u.kind = .data ∧ u.lanes.length = x.width) → x.mixed us = none := by
    intro us hu
    have h1 : us.find? (fun u => u.kind = .stop) = none := by
      simp only [List.find?_eq_none, decide_eq_true_eq]; intro u m; simp [(hu u m).1]
    have h2 : us.find? (fun u => u.lanes.length ≠ x.width) = none := by
      simp only [List.find?_eq_none, decide_eq_true_eq]; intro u m; simp [(hu u m).2]
    simp only [Ctx.mixed, h1, h2, Option.map_none]
  have h1 : ops.find? (fun u => u.kind = .poison) = none := by
    simp only [List.find?_eq_none, decide_eq_true_eq]; intro u m; simp [(h u (by simp [m])).1]
  have h2 : ops.find? (fun u => u.kind = .error) = none := by
    simp only [List.find?_eq_none, decide_eq_true_eq]; intro u m; simp [(h u (by simp [m])).1]
  unfold Ctx.early
  simp only [h1, h2]
  cases c with
  | none => exact mixed _ fun u m => h u (by simp [m])
  | some t =>
    have : t.isBad = false := by simp [Token.isBad, (h t (by simp)).1]
    simp only [this, Bool.false_eq_true, if_false]
    exact mixed _ h

theorem Ctx.opL_data {x : Ctx} {a : List Lane} (h : x.dataL a) : ∀ u ∈ x.opL, u.kind = .data ∧ u.lanes.length = x.width := by
  obtain ⟨t, ht, hk, hl, hw⟩ := h
  simp [Ctx.opL, ht, hk, hl, hw]

theorem Ctx.opR_data {x : Ctx} {f : FormA} {b : List Lane} (h : x.dataB f b) :
    ∀ u ∈ x.opR, u.kind = .data ∧ u.lanes.length = x.width := by
  obtain ⟨-, hr, -⟩ | ⟨-, u, hu, hk, hl, hw⟩ := h
  · simp [Ctx.opR, hr]
  · simp [Ctx.opR, hu, hk, hl, hw]

theorem Ctx.early_data1 {x : Ctx} {a : List Lane} (h : x.dataL a) : x.early x.opL none = none :=
  Ctx.early_data (by simpa using Ctx.opL_data h)

theorem Ctx.early_data2 {x : Ctx} {f : FormA} {a b : List Lane} (ha : x.dataL a) (hb : x.dataB f b) :
    x.early (x.opL ++ x.opR) none = none :=
  Ctx.early_data fun u m => by
    simp only [Option.toList_none, List.append_nil, List.mem_append] at m
    exact m.elim (Ctx.opL_data ha u) (Ctx.opR_data hb u)

theorem Ctx.early_data3 {x : Ctx} {f : FormA} {n : Nat} {a b c : List Lane} (ha : x.dataL a) (hb : x.dataB f b) (hc : x.dataC n c) :
    x.early (x.opL ++ x.opR) (some (x.a.slotTok n)) = none :=
  Ctx.early_data fun u m => by
    simp only [Option.toList_some, List.mem_append, List.mem_singleton] at m
    rcases m with (m | m) | rfl
    · exact Ctx.opL_data ha u m
    · exact Ctx.opR_data hb u m
    · exact ⟨hc.1, by rw [hc.2.1, hc.2.2]⟩

theorem Ctx.lanesL_data {x : Ctx} {a : List Lane} (h : x.dataL a) : x.lanesL = a := by
  obtain ⟨t, ht, -, hl, -⟩ := h
  simp [Ctx.lanesL, ht, hl]

theorem Ctx.lanesR_data {x : Ctx} {f : FormA} {b : List Lane} (h : x.dataB f b) : x.lanesR f = b := by
  obtain ⟨hi, -, hb⟩ | ⟨hi, u, hu, -, hl, -⟩ := h
  · simp [Ctx.lanesR, hi, hb]
  · simp [Ctx.lanesR, hi, hu, hl]

theorem padLanes_self {w : Nat} {a : List Lane} (h : a.length = w) : padLanes w a = a := by
  subst h
  simp [padLanes]

theorem Ctx.pass_data {x : Ctx} {t : Token} {a : List Lane} (h : x.dataTok t a) : x.pass t = x.tok .data a := by
  obtain ⟨h1, h2, h3⟩ := h
  simp [Ctx.pass, h1, h2, padLanes_self h3]

theorem Ctx.opTok_some {x : Ctx} {t : Token} (h : x.fields.l = some t) : x.opTok = t := by simp [Ctx.opTok, h]

theorem Ctx.selTok_some {x : Ctx} {t : Token} (h : x.fields.r = some t) : x.selTok = t := by simp [Ctx.selTok, h]

theorem Ctx.withData_one {x : Ctx} {c : Common} {a : List Lane} {act : Act} (h : x.dataL a) : x.withData c x.opL act = act := by
  simp [Ctx.withData, Ctx.early_data1 h]

theorem Ctx.withData_two {x : Ctx} {c : Common} {a b : List Lane} {act : Act} (ha : x.dataL a) (hb : x.dataR b) :
    x.withData c (x.opL ++ x.opR) act = act := by
  have := Ctx.early_data2 (f := ⟨⟨.always, .null, .null⟩, 0, 0, false, 0⟩) ha (.inr ⟨rfl, hb⟩)
  simp [Ctx.withData, this]

theorem Ctx.widthed_data {x : Ctx} {t : Token} {a : List Lane} (h : x.dataTok t a) : x.widthed t = t := by
  obtain ⟨h1, h2, h3⟩ := h
  simp [Ctx.widthed, h1, h2, h3]

end Sys2Proof.Machine
end

