-- ==== Sys2Proof/Laws/Exec.lean ====
section
/-! SUPPORT. What a step can do, said once: every instruction, event and packet answers a next state reached by effects, so that both
tables keep their canonical form. -/

namespace Sys2Proof.Machine

theorem Act.run_effs (a : Act) (s : State) : a.run s = s.effs (a s) := rfl

theorem State.effs_trans {s t u : State} (h : ∃ es, t = s.effs es) (g : ∃ es, u = t.effs es) : ∃ es, u = s.effs es := by
  obtain ⟨es, rfl⟩ := h
  obtain ⟨fs, rfl⟩ := g
  exact ⟨es ++ fs, (State.effs_append s es fs).symm⟩

/-- Fetching a packet, or taking what comes of its defect, is a list of effects. -/
theorem State.nextPacket_effs (s : State) (q : Nat) :
    (∀ i t, s.nextPacket q = .ok (i, t) → ∃ es, t = s.effs es) ∧ (∀ t, s.nextPacket q = .error t → ∃ es, t = s.effs es) := by
  unfold State.nextPacket
  repeat' split
  all_goals
    refine ⟨?_, ?_⟩
    all_goals
      intros
      rename_i h
      cases h <;> first
        | exact ⟨[], rfl⟩
        | exact ⟨_, Act.run_effs _ _⟩

/-- Reading the word that issues, with what its errors cause, is a list of effects. -/
theorem State.fetched_effs (s : State) :
    (∀ i t, s.fetched = .ok (i, t) → ∃ es, t = s.effs es) ∧ (∀ t, s.fetched = .error t → ∃ es, t = s.effs es) := by
  unfold State.fetched
  repeat' split
  all_goals
    refine ⟨?_, ?_⟩
    all_goals
      intros
      rename_i h
      cases h <;> first
        | exact ⟨[], rfl⟩
        | exact ⟨_, Act.run_effs _ _⟩
        | exact State.effs_trans ⟨_, Act.run_effs _ _⟩ ⟨_, Act.run_effs _ _⟩

theorem seedEnter_effs (s : State) : ∃ es, exec .seedEnter s = .next (s.effs es) := by
  change ∃ es, execSeedEnter s = .next (s.effs es)
  unfold execSeedEnter
  split
  · rename_i p t h
    obtain ⟨es, ht⟩ := State.effs_trans ((State.nextPacket_effs s _).1 _ _ h)
      ⟨_, Act.run_effs (packet 0x04 (Instr.pkSeed p).wf p fun q x => seedStep q x p) t⟩
    exact ⟨es, by rw [ht]⟩
  · exact ⟨[], rfl⟩

/-- Every instruction answers a next state, reached from s by effects. -/
theorem exec_effs (i : Instr) (s : State) : ∃ es, exec i s = .next (s.effs es) := by
  cases i
  case seedEnter => exact seedEnter_effs s
  all_goals exact ⟨_, rfl⟩

/-- The meaning of every instruction of a block is one firing of its opcode and form. -/
theorem exec_fire {i : Instr} {o : BitVec 9} {f : Form} (hi : i.opForm = some (o, f)) :
    ∃ body, ∀ s, exec i s = .next ((fire o.toNat f (if isExitOp o.toNat then exitNull else if isMemOp o.toNat then memNull
      else if o = 0x164 then twaitDone else noNull) body).run s) := by
  cases i <;> simp only [Instr.opForm, Option.some.injEq, Prod.mk.injEq, reduceCtorEq] at hi <;> obtain ⟨rfl, rfl⟩ := hi <;>
    exact ⟨_, fun _ => rfl⟩

/-- The computing instructions with two operands. -/
theorem exec_pair {i : FormA → Instr} (h : i ∈ pairOps) (f : FormA) :
    ∃ o op, (i f).opForm = some (o, .a f) ∧ ∀ s, exec (i f) s = .next ((alu2 o.toNat f op).run s) := by
  simp only [pairOps, List.mem_cons, List.not_mem_nil, or_false] at h
  rcases h with rfl | rfl | rfl | rfl | rfl | rfl | rfl | rfl | rfl | rfl | rfl | rfl | rfl | rfl | rfl | rfl | rfl | rfl | rfl |
    rfl | rfl | rfl | rfl | rfl | rfl | rfl | rfl | rfl | rfl | rfl | rfl | rfl | rfl | rfl <;>
  exact ⟨_, _, rfl, fun _ => rfl⟩

/-- Those with one. -/
theorem exec_single {i : FormA → Instr} (h : i ∈ singleOps) (f : FormA) :
    ∃ o op, (i f).opForm = some (o, .a f) ∧ ∀ s, exec (i f) s = .next ((alu1 o.toNat f op).run s) := by
  simp only [singleOps, List.mem_cons, List.not_mem_nil, or_false] at h
  rcases h with rfl | rfl | rfl | rfl | rfl | rfl | rfl | rfl | rfl | rfl | rfl | rfl | rfl | rfl | rfl | rfl | rfl | rfl | rfl |
    rfl | rfl | rfl | rfl | rfl | rfl | rfl | rfl <;>
  exact ⟨_, _, rfl, fun _ => rfl⟩

/-- Those with three. -/
theorem exec_triple {i : FormA → Instr} (h : i ∈ tripleOps) (f : FormA) :
    ∃ o op, (i f).opForm = some (o, .a f) ∧ ∀ s, exec (i f) s = .next ((alu3 o.toNat f op).run s) := by
  simp only [tripleOps, List.mem_cons, List.not_mem_nil, or_false] at h
  rcases h with rfl | rfl | rfl | rfl <;> exact ⟨_, _, rfl, fun _ => rfl⟩

/-- What a firing of each shape leaves. -/
theorem alu1_fire {i : Instr} {o : BitVec 9} {f : FormA} {s : State} {x : Ctx} (hi : i.opForm = some (o, .a f))
    (h : firing i s = some x) (op : List Lane → List Lane → List Lane → Result) :
    (alu1 o.toNat f op).run s = x.after s (x.emit f.c ((x.early x.opL none).getD
      (if oddPair f.ty.toNat x.width then x.err errWidth else x.result (op x.lanesL x.lanesL x.lanesL)))) :=
  firing_fire hi rfl h _ _

theorem alu2_fire {i : Instr} {o : BitVec 9} {f : FormA} {s : State} {x : Ctx} (hi : i.opForm = some (o, .a f))
    (h : firing i s = some x) (op : List Lane → List Lane → List Lane → Result) :
    (alu2 o.toNat f op).run s = x.after s (x.emit f.c ((x.early (x.opL ++ x.opR) none).getD
      (if oddPair f.ty.toNat x.width then x.err errWidth else x.result (op x.lanesL (x.lanesR f) (x.lanesR f))))) :=
  firing_fire hi rfl h _ _

theorem alu3_fire {i : Instr} {o : BitVec 9} {f : FormA} {s : State} {x : Ctx} (hi : i.opForm = some (o, .a f))
    (h : firing i s = some x) (op : List Lane → List Lane → List Lane → Result) :
    (alu3 o.toNat f op).run s = x.after s (x.emit f.c ((x.early (x.opL ++ x.opR) (some (x.a.slotTok f.sub.toNat))).getD
      (if oddPair f.ty.toNat x.width then x.err errWidth
       else x.result (op x.lanesL (x.lanesR f) (padLanes x.width (x.a.slotTok f.sub.toNat).lanes))))) :=
  firing_fire hi rfl h _ _

/-- A step answers no refusal; its one fault is an agenda that names no event. -/
theorem step_cases (s : State) :
    (∃ m es, step s = .next (State.effs { s with m := m } es)) ∨
    (∃ i a rest, s.m.agenda = .event i a :: rest ∧ isEvent i = false ∧ step s = .fault .notAnEvent) := by
  cases h : s.m.agenda with
  | nil => exact .inl ⟨s.m, [], by simp [step, h]⟩
  | cons it rest =>
    cases it with
    | event i a =>
      cases hi : isEvent i with
      | true =>
        obtain ⟨es, he⟩ := exec_effs i { s with m := { s.m with agenda := rest, at_ := a } }
        exact .inl ⟨_, es, by simpa [step, h, stepEvent, hi] using he⟩
      | false => exact .inr ⟨i, a, rest, rfl, hi, by simp [step, h, stepEvent, hi]⟩
    | issue core memory =>
      left
      simp only [step, h]
      unfold stepIssue
      split
      · exact ⟨_, [], rfl⟩
      · rename_i r hr
        split
        · rename_i i t ht
          obtain ⟨es, he⟩ := exec_effs i t
          obtain ⟨fs, hf⟩ := State.effs_trans ((State.fetched_effs _).1 _ _ ht) ⟨es, rfl⟩
          exact ⟨_, fs, by rw [he, hf]; rfl⟩
        · rename_i t ht
          obtain ⟨fs, hf⟩ := (State.fetched_effs _).2 _ ht
          exact ⟨_, fs, by rw [hf]; rfl⟩
    | packet q =>
      left
      simp only [step, h]
      unfold stepPacket
      split
      · rename_i i t hp
        obtain ⟨es, he⟩ := exec_effs i t
        obtain ⟨fs, hf⟩ := State.effs_trans ((State.nextPacket_effs _ _).1 _ _ hp) ⟨es, rfl⟩
        exact ⟨_, fs, by rw [he, hf]⟩
      · rename_i t hp
        obtain ⟨es, he⟩ := (State.nextPacket_effs _ _).2 _ hp
        exact ⟨_, es, by rw [he]⟩
    | fetch q => exact .inl ⟨_, _, by simp only [step, h]; rfl⟩
    | outside x => exact .inl ⟨_, _, by simp only [step, h]; rfl⟩

end Sys2Proof.Machine
end

