-- ==== Sys2Proof/Laws/PerInstr.lean ====
section
/-! SUPPORT. The family Encoding, one lemma per instruction: the word of a well-formed instruction, and the words of a well-formed
packet, decode to it. -/

namespace Sys2Proof

/-- The instruction is what its own word or words decode to. -/
def Laws.Encoding.Statement (i : Instr) : Prop :=
  i.wf = true → (∀ w, encodeWord i = some w → decodeWord w = .ok i) ∧
    (∀ ws rest, encodePacket i = some ws → decodePacket (ws ++ rest) = .ok i)

/-! ## The shapes -/

theorem word_a {i : Instr} {o : BitVec 9} {f : FormA} {g : FormA → Instr} (hi : i.opForm = some (o, .a f))
    (hp : i.popForm = none) (hl : opTable.lookup o = some (.a g)) (hg : i.wf = true → g f = i) : Laws.Encoding.Statement i := by
  intro hw
  constructor
  · intro w he
    simp only [encodeWord, hi, Option.map_some, Option.some.injEq] at he
    subst he
    simp only [decodeWord, packWord_opcode, packWord_body, Common.ofWord_packWord, hl, OpRow.read, Form.common,
      FormA.ofBody_body, checked, hg hw, hw, if_true]
  · intro ws rest he
    simp [encodePacket, hp] at he

theorem word_i {i : Instr} {o : BitVec 9} {f : FormI} {g : FormI → Instr} (hi : i.opForm = some (o, .i f))
    (hp : i.popForm = none) (hl : opTable.lookup o = some (.i g)) (hg : i.wf = true → g f = i) : Laws.Encoding.Statement i := by
  intro hw
  constructor
  · intro w he
    simp only [encodeWord, hi, Option.map_some, Option.some.injEq] at he
    subst he
    simp only [decodeWord, packWord_opcode, packWord_body, Common.ofWord_packWord, hl, OpRow.read, Form.common,
      FormI.ofBody_body, checked, hg hw, hw, if_true]
  · intro ws rest he
    simp [encodePacket, hp] at he

theorem word_m {i : Instr} {o : BitVec 9} {f : FormM} {g : FormM → Instr} (hi : i.opForm = some (o, .m f))
    (hp : i.popForm = none) (hl : opTable.lookup o = some (.m g)) (hg : i.wf = true → g f = i) : Laws.Encoding.Statement i := by
  intro hw
  constructor
  · intro w he
    simp only [encodeWord, hi, Option.map_some, Option.some.injEq] at he
    subst he
    simp only [decodeWord, packWord_opcode, packWord_body, Common.ofWord_packWord, hl, OpRow.read, Form.common,
      FormM.ofBody_body, Except.map, checked, hg hw, hw, if_true]
  · intro ws rest he
    simp [encodePacket, hp] at he

theorem word_c {i : Instr} {o : BitVec 9} {f : FormC} {g : FormC → Instr} (hi : i.opForm = some (o, .c f))
    (hp : i.popForm = none) (hl : opTable.lookup o = some (.c g)) (hg : i.wf = true → g f = i) : Laws.Encoding.Statement i := by
  intro hw
  constructor
  · intro w he
    simp only [encodeWord, hi, Option.map_some, Option.some.injEq] at he
    subst he
    simp only [decodeWord, packWord_opcode, packWord_body, Common.ofWord_packWord, hl, OpRow.read, Form.common,
      FormC.ofBody_body, Except.map, checked, hg hw, hw, if_true]
  · intro ws rest he
    simp [encodePacket, hp] at he

theorem word_x {i : Instr} {o : BitVec 9} {f : FormX} {g : FormX → Instr} (hi : i.opForm = some (o, .x f))
    (hp : i.popForm = none) (hl : opTable.lookup o = some (.x g)) (hg : i.wf = true → g f = i) : Laws.Encoding.Statement i := by
  intro hw
  constructor
  · intro w he
    simp only [encodeWord, hi, Option.map_some, Option.some.injEq] at he
    subst he
    simp only [decodeWord, packWord_opcode, packWord_body, Common.ofWord_packWord, hl, OpRow.read, Form.common,
      FormX.ofBody_body, checked, hg hw, hw, if_true]
  · intro ws rest he
    simp [encodePacket, hp] at he

theorem word_k {i : Instr} {o : BitVec 9} {f : FormK} {g : FormK → Instr} (hi : i.opForm = some (o, .k f))
    (hp : i.popForm = none) (hl : opTable.lookup o = some (.k g)) (hg : i.wf = true → g f = i) : Laws.Encoding.Statement i := by
  intro hw
  constructor
  · intro w he
    simp only [encodeWord, hi, Option.map_some, Option.some.injEq] at he
    subst he
    simp only [decodeWord, packWord_opcode, packWord_body, Common.ofWord_packWord, hl, OpRow.read, Form.common,
      FormK.ofBody_body, checked, hg hw, hw, if_true]
  · intro ws rest he
    simp [encodePacket, hp] at he

theorem word_s {i : Instr} {o : BitVec 9} {f : FormS} {g : FormS → Instr} (hi : i.opForm = some (o, .s f))
    (hp : i.popForm = none) (hl : opTable.lookup o = some (.s g)) (hg : i.wf = true → g f = i) : Laws.Encoding.Statement i := by
  intro hw
  constructor
  · intro w he
    simp only [encodeWord, hi, Option.map_some, Option.some.injEq] at he
    subst he
    simp only [decodeWord, packWord_opcode, packWord_body, Common.ofWord_packWord, hl, OpRow.read, Form.common,
      FormS.ofBody_body, checked, hg hw, hw, if_true]
  · intro ws rest he
    simp [encodePacket, hp] at he

theorem word_packet {i : Instr} {pop : BitVec 8} {p : Packet} (hi : i.opForm = none) (hp : i.popForm = some (pop, p))
    (hl : i.wf = true → packetOf pop p = .ok i) (hn : i.wf = true → plenOk p = true) : Laws.Encoding.Statement i := by
  intro hw
  constructor
  · intro w he
    simp [encodeWord, hi] at he
  · intro ws rest he
    simp only [encodePacket, hp, Option.map_some, Option.some.injEq] at he
    subst he
    have hlen : p.payload.length = p.plen.toNat := by simpa [plenOk] using hn hw
    have h1 : (pop ++ (p.plen ++ p.pflg) : BitVec 32).extractLsb' 24 8 = pop := extract_top _ _
    have h2 : (pop ++ (p.plen ++ p.pflg) : BitVec 32).extractLsb' 16 8 = p.plen := by
      rw [extract_below _ _ (by decide), extract_top]
    have h3 : (pop ++ (p.plen ++ p.pflg) : BitVec 32).extractLsb' 0 16 = p.pflg := by
      rw [extract_below _ _ (by decide), extract_below _ _ (by decide), extract_all]
    simp only [List.cons_append, decodePacket, h1, h2, h3, List.length_append, hlen]
    rw [if_neg (by omega), ← hlen, List.take_left' rfl, hl hw]
    simp [hw]

theorem no_word {i : Instr} (hi : i.opForm = none) (hp : i.popForm = none) : Laws.Encoding.Statement i := by
  intro _
  exact ⟨by intro w he; simp [encodeWord, hi] at he, by intro ws rest he; simp [encodePacket, hp] at he⟩

/-! ## One lemma per instruction -/

theorem Laws.Encoding.nop (a : FormA) : Laws.Encoding.Statement (.nop a) := word_a rfl rfl rfl fun _ => rfl
theorem Laws.Encoding.bro (a : FormC) : Laws.Encoding.Statement (.bro a) := word_c rfl rfl rfl fun _ => rfl
theorem Laws.Encoding.brp (a : FormC) : Laws.Encoding.Statement (.brp a) := word_c rfl rfl rfl fun _ => rfl
theorem Laws.Encoding.bri (a : FormC) : Laws.Encoding.Statement (.bri a) := word_c rfl rfl rfl fun _ => rfl
theorem Laws.Encoding.spawn (a : FormC) : Laws.Encoding.Statement (.spawn a) := word_c rfl rfl rfl fun _ => rfl
theorem Laws.Encoding.ret (a : FormC) : Laws.Encoding.Statement (.ret a) := word_c rfl rfl rfl fun _ => rfl
theorem Laws.Encoding.retire (a : FormC) : Laws.Encoding.Statement (.retire a) := word_c rfl rfl rfl fun _ => rfl
theorem Laws.Encoding.ctxa (a : FormA) : Laws.Encoding.Statement (.ctxa a) := word_a rfl rfl rfl fun _ => rfl
theorem Laws.Encoding.ctxf (a : FormA) : Laws.Encoding.Statement (.ctxf a) := word_a rfl rfl rfl fun _ => rfl
theorem Laws.Encoding.ctxq (a : FormA) : Laws.Encoding.Statement (.ctxq a) := word_a rfl rfl rfl fun _ => rfl
theorem Laws.Encoding.pack (a : FormA) : Laws.Encoding.Statement (.pack a) := word_a rfl rfl rfl fun _ => rfl
theorem Laws.Encoding.unpack (a : FormA) : Laws.Encoding.Statement (.unpack a) := word_a rfl rfl rfl fun _ => rfl
theorem Laws.Encoding.mov (a : FormA) : Laws.Encoding.Statement (.mov a) := word_a rfl rfl rfl fun _ => rfl
theorem Laws.Encoding.ldf (a : FormA) : Laws.Encoding.Statement (.ldf a) := word_a rfl rfl rfl fun _ => rfl
theorem Laws.Encoding.send (a : FormA) : Laws.Encoding.Statement (.send a) := word_a rfl rfl rfl fun _ => rfl
theorem Laws.Encoding.steer (a : FormA) : Laws.Encoding.Statement (.steer a) := word_a rfl rfl rfl fun _ => rfl
theorem Laws.Encoding.merge (a : FormA) : Laws.Encoding.Statement (.merge a) := word_a rfl rfl rfl fun _ => rfl
theorem Laws.Encoding.gate (a : FormA) : Laws.Encoding.Statement (.gate a) := word_a rfl rfl rfl fun _ => rfl
theorem Laws.Encoding.drop (a : FormA) : Laws.Encoding.Statement (.drop a) := word_a rfl rfl rfl fun _ => rfl
theorem Laws.Encoding.eos (a : FormA) : Laws.Encoding.Statement (.eos a) := word_a rfl rfl rfl fun _ => rfl
theorem Laws.Encoding.stop (a : FormA) : Laws.Encoding.Statement (.stop a) := word_a rfl rfl rfl fun _ => rfl
theorem Laws.Encoding.stopc (a : FormA) : Laws.Encoding.Statement (.stopc a) := word_a rfl rfl rfl fun _ => rfl
theorem Laws.Encoding.dmd (a : FormA) : Laws.Encoding.Statement (.dmd a) := word_a rfl rfl rfl fun _ => rfl
theorem Laws.Encoding.cvt (a : FormA) : Laws.Encoding.Statement (.cvt a) := word_a rfl rfl rfl fun _ => rfl
theorem Laws.Encoding.cvts (a : FormA) : Laws.Encoding.Statement (.cvts a) := word_a rfl rfl rfl fun _ => rfl
theorem Laws.Encoding.bcast (a : FormA) : Laws.Encoding.Statement (.bcast a) := word_a rfl rfl rfl fun _ => rfl
theorem Laws.Encoding.shuf (a : FormA) : Laws.Encoding.Statement (.shuf a) := word_a rfl rfl rfl fun _ => rfl
theorem Laws.Encoding.lrot (a : FormA) : Laws.Encoding.Statement (.lrot a) := word_a rfl rfl rfl fun _ => rfl
theorem Laws.Encoding.redadd (a : FormA) : Laws.Encoding.Statement (.redadd a) := word_a rfl rfl rfl fun _ => rfl
theorem Laws.Encoding.redmax (a : FormA) : Laws.Encoding.Statement (.redmax a) := word_a rfl rfl rfl fun _ => rfl
theorem Laws.Encoding.redmin (a : FormA) : Laws.Encoding.Statement (.redmin a) := word_a rfl rfl rfl fun _ => rfl
theorem Laws.Encoding.scanadd (a : FormA) : Laws.Encoding.Statement (.scanadd a) := word_a rfl rfl rfl fun _ => rfl
theorem Laws.Encoding.lidx (a : FormA) : Laws.Encoding.Statement (.lidx a) := word_a rfl rfl rfl fun _ => rfl
theorem Laws.Encoding.lmask (a : FormA) : Laws.Encoding.Statement (.lmask a) := word_a rfl rfl rfl fun _ => rfl
theorem Laws.Encoding.lcomp (a : FormA) : Laws.Encoding.Statement (.lcomp a) := word_a rfl rfl rfl fun _ => rfl
theorem Laws.Encoding.add (a : FormA) : Laws.Encoding.Statement (.add a) := word_a rfl rfl rfl fun _ => rfl
theorem Laws.Encoding.sub (a : FormA) : Laws.Encoding.Statement (.sub a) := word_a rfl rfl rfl fun _ => rfl
theorem Laws.Encoding.mul (a : FormA) : Laws.Encoding.Statement (.mul a) := word_a rfl rfl rfl fun _ => rfl
theorem Laws.Encoding.mulhi (a : FormA) : Laws.Encoding.Statement (.mulhi a) := word_a rfl rfl rfl fun _ => rfl
theorem Laws.Encoding.mulhn (a : FormA) : Laws.Encoding.Statement (.mulhn a) := word_a rfl rfl rfl fun _ => rfl
theorem Laws.Encoding.mad (a : FormA) : Laws.Encoding.Statement (.mad a) := word_a rfl rfl rfl fun _ => rfl
theorem Laws.Encoding.div (a : FormA) : Laws.Encoding.Statement (.div a) := word_a rfl rfl rfl fun _ => rfl
theorem Laws.Encoding.divn (a : FormA) : Laws.Encoding.Statement (.divn a) := word_a rfl rfl rfl fun _ => rfl
theorem Laws.Encoding.rem (a : FormA) : Laws.Encoding.Statement (.rem a) := word_a rfl rfl rfl fun _ => rfl
theorem Laws.Encoding.remn (a : FormA) : Laws.Encoding.Statement (.remn a) := word_a rfl rfl rfl fun _ => rfl
theorem Laws.Encoding.and (a : FormA) : Laws.Encoding.Statement (.and a) := word_a rfl rfl rfl fun _ => rfl
theorem Laws.Encoding.or (a : FormA) : Laws.Encoding.Statement (.or a) := word_a rfl rfl rfl fun _ => rfl
theorem Laws.Encoding.xor (a : FormA) : Laws.Encoding.Statement (.xor a) := word_a rfl rfl rfl fun _ => rfl
theorem Laws.Encoding.andn (a : FormA) : Laws.Encoding.Statement (.andn a) := word_a rfl rfl rfl fun _ => rfl
theorem Laws.Encoding.not (a : FormA) : Laws.Encoding.Statement (.not a) := word_a rfl rfl rfl fun _ => rfl
theorem Laws.Encoding.shl (a : FormA) : Laws.Encoding.Statement (.shl a) := word_a rfl rfl rfl fun _ => rfl
theorem Laws.Encoding.shr (a : FormA) : Laws.Encoding.Statement (.shr a) := word_a rfl rfl rfl fun _ => rfl
theorem Laws.Encoding.sar (a : FormA) : Laws.Encoding.Statement (.sar a) := word_a rfl rfl rfl fun _ => rfl
theorem Laws.Encoding.rol (a : FormA) : Laws.Encoding.Statement (.rol a) := word_a rfl rfl rfl fun _ => rfl
theorem Laws.Encoding.ror (a : FormA) : Laws.Encoding.Statement (.ror a) := word_a rfl rfl rfl fun _ => rfl
theorem Laws.Encoding.min (a : FormA) : Laws.Encoding.Statement (.min a) := word_a rfl rfl rfl fun _ => rfl
theorem Laws.Encoding.max (a : FormA) : Laws.Encoding.Statement (.max a) := word_a rfl rfl rfl fun _ => rfl
theorem Laws.Encoding.minn (a : FormA) : Laws.Encoding.Statement (.minn a) := word_a rfl rfl rfl fun _ => rfl
theorem Laws.Encoding.maxn (a : FormA) : Laws.Encoding.Statement (.maxn a) := word_a rfl rfl rfl fun _ => rfl
theorem Laws.Encoding.abs (a : FormA) : Laws.Encoding.Statement (.abs a) := word_a rfl rfl rfl fun _ => rfl
theorem Laws.Encoding.neg (a : FormA) : Laws.Encoding.Statement (.neg a) := word_a rfl rfl rfl fun _ => rfl
theorem Laws.Encoding.clz (a : FormA) : Laws.Encoding.Statement (.clz a) := word_a rfl rfl rfl fun _ => rfl
theorem Laws.Encoding.ctz (a : FormA) : Laws.Encoding.Statement (.ctz a) := word_a rfl rfl rfl fun _ => rfl
theorem Laws.Encoding.popc (a : FormA) : Laws.Encoding.Statement (.popc a) := word_a rfl rfl rfl fun _ => rfl
theorem Laws.Encoding.bfx (a : FormA) : Laws.Encoding.Statement (.bfx a) := word_a rfl rfl rfl fun _ => rfl
theorem Laws.Encoding.bfi (a : FormA) : Laws.Encoding.Statement (.bfi a) := word_a rfl rfl rfl fun _ => rfl
theorem Laws.Encoding.sel (a : FormA) : Laws.Encoding.Statement (.sel a) := word_a rfl rfl rfl fun _ => rfl
theorem Laws.Encoding.cmp (a : FormA) : Laws.Encoding.Statement (.cmp a) := word_a rfl rfl rfl fun _ => rfl
theorem Laws.Encoding.imm (a : FormI) : Laws.Encoding.Statement (.imm a) := word_i rfl rfl rfl fun _ => rfl
theorem Laws.Encoding.lea (a : FormA) : Laws.Encoding.Statement (.lea a) := word_a rfl rfl rfl fun _ => rfl
theorem Laws.Encoding.sadd (a : FormA) : Laws.Encoding.Statement (.sadd a) := word_a rfl rfl rfl fun _ => rfl
theorem Laws.Encoding.ssub (a : FormA) : Laws.Encoding.Statement (.ssub a) := word_a rfl rfl rfl fun _ => rfl
theorem Laws.Encoding.dot2i (a : FormA) : Laws.Encoding.Statement (.dot2i a) := word_a rfl rfl rfl fun _ => rfl
theorem Laws.Encoding.dot4i (a : FormA) : Laws.Encoding.Statement (.dot4i a) := word_a rfl rfl rfl fun _ => rfl
theorem Laws.Encoding.fadd (a : FormA) : Laws.Encoding.Statement (.fadd a) := word_a rfl rfl rfl fun _ => rfl
theorem Laws.Encoding.fsub (a : FormA) : Laws.Encoding.Statement (.fsub a) := word_a rfl rfl rfl fun _ => rfl
theorem Laws.Encoding.fmul (a : FormA) : Laws.Encoding.Statement (.fmul a) := word_a rfl rfl rfl fun _ => rfl
theorem Laws.Encoding.ffma (a : FormA) : Laws.Encoding.Statement (.ffma a) := word_a rfl rfl rfl fun _ => rfl
theorem Laws.Encoding.fmin (a : FormA) : Laws.Encoding.Statement (.fmin a) := word_a rfl rfl rfl fun _ => rfl
theorem Laws.Encoding.fmax (a : FormA) : Laws.Encoding.Statement (.fmax a) := word_a rfl rfl rfl fun _ => rfl
theorem Laws.Encoding.fabs (a : FormA) : Laws.Encoding.Statement (.fabs a) := word_a rfl rfl rfl fun _ => rfl
theorem Laws.Encoding.fneg (a : FormA) : Laws.Encoding.Statement (.fneg a) := word_a rfl rfl rfl fun _ => rfl
theorem Laws.Encoding.fcmp (a : FormA) : Laws.Encoding.Statement (.fcmp a) := word_a rfl rfl rfl fun _ => rfl
theorem Laws.Encoding.fclass (a : FormA) : Laws.Encoding.Statement (.fclass a) := word_a rfl rfl rfl fun _ => rfl
theorem Laws.Encoding.frcp (a : FormA) : Laws.Encoding.Statement (.frcp a) := word_a rfl rfl rfl fun _ => rfl
theorem Laws.Encoding.frsq (a : FormA) : Laws.Encoding.Statement (.frsq a) := word_a rfl rfl rfl fun _ => rfl
theorem Laws.Encoding.fsqrt (a : FormA) : Laws.Encoding.Statement (.fsqrt a) := word_a rfl rfl rfl fun _ => rfl
theorem Laws.Encoding.fexp2 (a : FormA) : Laws.Encoding.Statement (.fexp2 a) := word_a rfl rfl rfl fun _ => rfl
theorem Laws.Encoding.flog2 (a : FormA) : Laws.Encoding.Statement (.flog2 a) := word_a rfl rfl rfl fun _ => rfl
theorem Laws.Encoding.ftanh (a : FormA) : Laws.Encoding.Statement (.ftanh a) := word_a rfl rfl rfl fun _ => rfl
theorem Laws.Encoding.fsig (a : FormA) : Laws.Encoding.Statement (.fsig a) := word_a rfl rfl rfl fun _ => rfl
theorem Laws.Encoding.fsin (a : FormA) : Laws.Encoding.Statement (.fsin a) := word_a rfl rfl rfl fun _ => rfl
theorem Laws.Encoding.fcos (a : FormA) : Laws.Encoding.Statement (.fcos a) := word_a rfl rfl rfl fun _ => rfl
theorem Laws.Encoding.ferf (a : FormA) : Laws.Encoding.Statement (.ferf a) := word_a rfl rfl rfl fun _ => rfl
theorem Laws.Encoding.fround (a : FormA) : Laws.Encoding.Statement (.fround a) := word_a rfl rfl rfl fun _ => rfl
theorem Laws.Encoding.fdot2 (a : FormA) : Laws.Encoding.Statement (.fdot2 a) := word_a rfl rfl rfl fun _ => rfl
theorem Laws.Encoding.fdot4 (a : FormA) : Laws.Encoding.Statement (.fdot4 a) := word_a rfl rfl rfl fun _ => rfl
theorem Laws.Encoding.capnNew (a : FormK) : Laws.Encoding.Statement (.capnNew a) := by
  refine word_k rfl rfl rfl ?_
  intro h
  simp_all [Instr.wf]
theorem Laws.Encoding.capnAdopt (a : FormK) : Laws.Encoding.Statement (.capnAdopt a) := by
  refine word_k rfl rfl rfl ?_
  intro h
  simp_all [Instr.wf]
theorem Laws.Encoding.capgo (a : FormK) : Laws.Encoding.Statement (.capgo a) := word_k rfl rfl rfl fun _ => rfl
theorem Laws.Encoding.capnxIndex (a : FormK) : Laws.Encoding.Statement (.capnxIndex a) := by
  refine word_k rfl rfl rfl ?_
  intro h
  simp_all [Instr.wf]
theorem Laws.Encoding.capnxOperand (a : FormK) : Laws.Encoding.Statement (.capnxOperand a) := by
  refine word_k rfl rfl rfl ?_
  intro h
  simp_all [Instr.wf]
theorem Laws.Encoding.cappush (a : FormK) : Laws.Encoding.Statement (.cappush a) := word_k rfl rfl rfl fun _ => rfl
theorem Laws.Encoding.capins (a : FormK) : Laws.Encoding.Statement (.capins a) := word_k rfl rfl rfl fun _ => rfl
theorem Laws.Encoding.caprepWhole (a : FormK) : Laws.Encoding.Statement (.caprepWhole a) := by
  refine word_k rfl rfl rfl ?_
  intro h
  simp_all [Instr.wf, capEnt]
theorem Laws.Encoding.caprepPlace (a : FormK) : Laws.Encoding.Statement (.caprepPlace a) := by
  refine word_k rfl rfl rfl ?_
  intro h
  simp_all [Instr.wf]
theorem Laws.Encoding.capdel (a : FormK) : Laws.Encoding.Statement (.capdel a) := word_k rfl rfl rfl fun _ => rfl
theorem Laws.Encoding.capfork (a : FormK) : Laws.Encoding.Statement (.capfork a) := word_k rfl rfl rfl fun _ => rfl
theorem Laws.Encoding.capjoin (a : FormK) : Laws.Encoding.Statement (.capjoin a) := word_k rfl rfl rfl fun _ => rfl
theorem Laws.Encoding.cappark (a : FormK) : Laws.Encoding.Statement (.cappark a) := word_k rfl rfl rfl fun _ => rfl
theorem Laws.Encoding.capld (a : FormK) : Laws.Encoding.Statement (.capld a) := word_k rfl rfl rfl fun _ => rfl
theorem Laws.Encoding.capst (a : FormK) : Laws.Encoding.Statement (.capst a) := word_k rfl rfl rfl fun _ => rfl
theorem Laws.Encoding.caphdWord (a : FormK) : Laws.Encoding.Statement (.caphdWord a) := by
  refine word_k rfl rfl rfl ?_
  intro h
  simp_all [Instr.wf]
theorem Laws.Encoding.caphdEntry (a : FormK) : Laws.Encoding.Statement (.caphdEntry a) := by
  refine word_k rfl rfl rfl ?_
  intro h
  simp only [Instr.wf, Bool.and_eq_true, Bool.or_eq_true, beq_iff_eq] at h
  obtain h' | h' := h.1.1.1 <;> simp [h']
theorem Laws.Encoding.caphdArg (a : FormK) : Laws.Encoding.Statement (.caphdArg a) := by
  refine word_k rfl rfl rfl ?_
  intro h
  simp_all [Instr.wf]
theorem Laws.Encoding.ld (a : FormM) : Laws.Encoding.Statement (.ld a) := by
  refine word_m rfl rfl rfl ?_
  intro h
  simp_all [Instr.wf]
theorem Laws.Encoding.ldLnk (a : FormM) : Laws.Encoding.Statement (.ldLnk a) := by
  refine word_m rfl rfl rfl ?_
  intro h
  simp_all [Instr.wf]
theorem Laws.Encoding.st (a : FormM) : Laws.Encoding.Statement (.st a) := word_m rfl rfl rfl fun _ => rfl
theorem Laws.Encoding.ldp (a : FormM) : Laws.Encoding.Statement (.ldp a) := word_m rfl rfl rfl fun _ => rfl
theorem Laws.Encoding.clr (a : FormM) : Laws.Encoding.Statement (.clr a) := word_m rfl rfl rfl fun _ => rfl
theorem Laws.Encoding.aadd (a : FormM) : Laws.Encoding.Statement (.aadd a) := word_m rfl rfl rfl fun _ => rfl
theorem Laws.Encoding.amin (a : FormM) : Laws.Encoding.Statement (.amin a) := word_m rfl rfl rfl fun _ => rfl
theorem Laws.Encoding.amax (a : FormM) : Laws.Encoding.Statement (.amax a) := word_m rfl rfl rfl fun _ => rfl
theorem Laws.Encoding.aminn (a : FormM) : Laws.Encoding.Statement (.aminn a) := word_m rfl rfl rfl fun _ => rfl
theorem Laws.Encoding.amaxn (a : FormM) : Laws.Encoding.Statement (.amaxn a) := word_m rfl rfl rfl fun _ => rfl
theorem Laws.Encoding.aand (a : FormM) : Laws.Encoding.Statement (.aand a) := word_m rfl rfl rfl fun _ => rfl
theorem Laws.Encoding.aor (a : FormM) : Laws.Encoding.Statement (.aor a) := word_m rfl rfl rfl fun _ => rfl
theorem Laws.Encoding.axor (a : FormM) : Laws.Encoding.Statement (.axor a) := word_m rfl rfl rfl fun _ => rfl
theorem Laws.Encoding.aswp (a : FormM) : Laws.Encoding.Statement (.aswp a) := word_m rfl rfl rfl fun _ => rfl
theorem Laws.Encoding.acas (a : FormM) : Laws.Encoding.Statement (.acas a) := word_m rfl rfl rfl fun _ => rfl
theorem Laws.Encoding.afadd (a : FormM) : Laws.Encoding.Statement (.afadd a) := word_m rfl rfl rfl fun _ => rfl
theorem Laws.Encoding.vcset (a : FormA) : Laws.Encoding.Statement (.vcset a) := word_a rfl rfl rfl fun _ => rfl
theorem Laws.Encoding.vcget (a : FormA) : Laws.Encoding.Statement (.vcget a) := word_a rfl rfl rfl fun _ => rfl
theorem Laws.Encoding.sclset (a : FormA) : Laws.Encoding.Statement (.sclset a) := word_a rfl rfl rfl fun _ => rfl
theorem Laws.Encoding.dec (a : FormA) : Laws.Encoding.Statement (.dec a) := word_a rfl rfl rfl fun _ => rfl
theorem Laws.Encoding.enc (a : FormA) : Laws.Encoding.Statement (.enc a) := word_a rfl rfl rfl fun _ => rfl
theorem Laws.Encoding.fence (a : FormM) : Laws.Encoding.Statement (.fence a) := word_m rfl rfl rfl fun _ => rfl
theorem Laws.Encoding.tlook (a : FormA) : Laws.Encoding.Statement (.tlook a) := word_a rfl rfl rfl fun _ => rfl
theorem Laws.Encoding.tins (a : FormA) : Laws.Encoding.Statement (.tins a) := word_a rfl rfl rfl fun _ => rfl
theorem Laws.Encoding.tinv (a : FormA) : Laws.Encoding.Statement (.tinv a) := word_a rfl rfl rfl fun _ => rfl
theorem Laws.Encoding.tsetEmpty (a : FormA) : Laws.Encoding.Statement (.tsetEmpty a) := by
  refine word_a rfl rfl rfl ?_
  intro h
  simp_all [Instr.wf, chkA]
theorem Laws.Encoding.tsetReady (a : FormA) : Laws.Encoding.Statement (.tsetReady a) := by
  refine word_a rfl rfl rfl ?_
  intro h
  simp_all [Instr.wf, chkA]
theorem Laws.Encoding.tsetBind (a : FormA) : Laws.Encoding.Statement (.tsetBind a) := by
  refine word_a rfl rfl rfl ?_
  intro h
  simp_all [Instr.wf, chkA]
theorem Laws.Encoding.tsetFree (a : FormA) : Laws.Encoding.Statement (.tsetFree a) := by
  refine word_a rfl rfl rfl ?_
  intro h
  simp_all [Instr.wf, chkA]
theorem Laws.Encoding.twait (a : FormA) : Laws.Encoding.Statement (.twait a) := word_a rfl rfl rfl fun _ => rfl
theorem Laws.Encoding.mxb (a : FormX) : Laws.Encoding.Statement (.mxb a) := word_x rfl rfl rfl fun _ => rfl
theorem Laws.Encoding.mxz (a : FormX) : Laws.Encoding.Statement (.mxz a) := word_x rfl rfl rfl fun _ => rfl
theorem Laws.Encoding.mxr (a : FormX) : Laws.Encoding.Statement (.mxr a) := word_x rfl rfl rfl fun _ => rfl
theorem Laws.Encoding.mxck (a : FormX) : Laws.Encoding.Statement (.mxck a) := word_x rfl rfl rfl fun _ => rfl
theorem Laws.Encoding.isect (a : FormA) : Laws.Encoding.Statement (.isect a) := word_a rfl rfl rfl fun _ => rfl
theorem Laws.Encoding.union (a : FormA) : Laws.Encoding.Statement (.union a) := word_a rfl rfl rfl fun _ => rfl
theorem Laws.Encoding.spacc (a : FormA) : Laws.Encoding.Statement (.spacc a) := word_a rfl rfl rfl fun _ => rfl
theorem Laws.Encoding.spdr (a : FormA) : Laws.Encoding.Statement (.spdr a) := word_a rfl rfl rfl fun _ => rfl
theorem Laws.Encoding.binit (a : FormA) : Laws.Encoding.Statement (.binit a) := word_a rfl rfl rfl fun _ => rfl
theorem Laws.Encoding.bjoin (a : FormA) : Laws.Encoding.Statement (.bjoin a) := word_a rfl rfl rfl fun _ => rfl
theorem Laws.Encoding.barv (a : FormA) : Laws.Encoding.Statement (.barv a) := word_a rfl rfl rfl fun _ => rfl
theorem Laws.Encoding.bwait (a : FormA) : Laws.Encoding.Statement (.bwait a) := word_a rfl rfl rfl fun _ => rfl
theorem Laws.Encoding.bleave (a : FormA) : Laws.Encoding.Statement (.bleave a) := word_a rfl rfl rfl fun _ => rfl
theorem Laws.Encoding.cpy (a : FormX) : Laws.Encoding.Statement (.cpy a) := word_x rfl rfl rfl fun _ => rfl
theorem Laws.Encoding.gath (a : FormX) : Laws.Encoding.Statement (.gath a) := word_x rfl rfl rfl fun _ => rfl
theorem Laws.Encoding.scat (a : FormX) : Laws.Encoding.Statement (.scat a) := word_x rfl rfl rfl fun _ => rfl
theorem Laws.Encoding.tfill (a : FormX) : Laws.Encoding.Statement (.tfill a) := word_x rfl rfl rfl fun _ => rfl
theorem Laws.Encoding.tdrain (a : FormX) : Laws.Encoding.Statement (.tdrain a) := word_x rfl rfl rfl fun _ => rfl
theorem Laws.Encoding.xfence (a : FormA) : Laws.Encoding.Statement (.xfence a) := word_a rfl rfl rfl fun _ => rfl
theorem Laws.Encoding.trap (a : FormA) : Laws.Encoding.Statement (.trap a) := word_a rfl rfl rfl fun _ => rfl
theorem Laws.Encoding.sysr (a : FormS) : Laws.Encoding.Statement (.sysr a) := word_s rfl rfl rfl fun _ => rfl
theorem Laws.Encoding.syswPinv (a : FormS) : Laws.Encoding.Statement (.syswPinv a) := by
  refine word_s rfl rfl rfl ?_
  intro h
  simp_all [Instr.wf]
theorem Laws.Encoding.syswXinv (a : FormS) : Laws.Encoding.Statement (.syswXinv a) := by
  refine word_s rfl rfl rfl ?_
  intro h
  simp_all [Instr.wf]
theorem Laws.Encoding.syswPreempt (a : FormS) : Laws.Encoding.Statement (.syswPreempt a) := by
  refine word_s rfl rfl rfl ?_
  intro h
  simp_all [Instr.wf]
theorem Laws.Encoding.fltr (a : FormA) : Laws.Encoding.Statement (.fltr a) := word_a rfl rfl rfl fun _ => rfl
theorem Laws.Encoding.resume (a : FormA) : Laws.Encoding.Statement (.resume a) := word_a rfl rfl rfl fun _ => rfl
theorem Laws.Encoding.plook (a : FormA) : Laws.Encoding.Statement (.plook a) := word_a rfl rfl rfl fun _ => rfl
theorem Laws.Encoding.cntr (a : FormA) : Laws.Encoding.Statement (.cntr a) := word_a rfl rfl rfl fun _ => rfl
theorem Laws.Encoding.yield (a : FormA) : Laws.Encoding.Statement (.yield a) := word_a rfl rfl rfl fun _ => rfl
theorem Laws.Encoding.sealo (a : FormX) : Laws.Encoding.Statement (.sealo a) := word_x rfl rfl rfl fun _ => rfl
theorem Laws.Encoding.sealc (a : FormX) : Laws.Encoding.Statement (.sealc a) := word_x rfl rfl rfl fun _ => rfl
theorem Laws.Encoding.seals (a : FormX) : Laws.Encoding.Statement (.seals a) := word_x rfl rfl rfl fun _ => rfl
theorem Laws.Encoding.collAllReduce (a : FormX) : Laws.Encoding.Statement (.collAllReduce a) := by
  refine word_x rfl rfl rfl ?_
  intro h
  have he : a.eop = 0 := BitVec.eq_of_toNat_eq (by simp_all [Instr.wf, collForm])
  simp [he]
theorem Laws.Encoding.collReduceScatter (a : FormX) : Laws.Encoding.Statement (.collReduceScatter a) := by
  refine word_x rfl rfl rfl ?_
  intro h
  have he : a.eop = 1 := BitVec.eq_of_toNat_eq (by simp_all [Instr.wf, collForm])
  simp [he]
theorem Laws.Encoding.collAllGather (a : FormX) : Laws.Encoding.Statement (.collAllGather a) := by
  refine word_x rfl rfl rfl ?_
  intro h
  have he : a.eop = 2 := BitVec.eq_of_toNat_eq (by simp_all [Instr.wf, collForm])
  simp [he]
theorem Laws.Encoding.collBroadcast (a : FormX) : Laws.Encoding.Statement (.collBroadcast a) := by
  refine word_x rfl rfl rfl ?_
  intro h
  have he : a.eop = 3 := BitVec.eq_of_toNat_eq (by simp_all [Instr.wf, collForm])
  simp [he]
theorem Laws.Encoding.lnkr (a : FormX) : Laws.Encoding.Statement (.lnkr a) := word_x rfl rfl rfl fun _ => rfl
theorem Laws.Encoding.trgen (a : FormX) : Laws.Encoding.Statement (.trgen a) := word_x rfl rfl rfl fun _ => rfl
theorem Laws.Encoding.collab (a : FormX) : Laws.Encoding.Statement (.collab a) := word_x rfl rfl rfl fun _ => rfl
theorem Laws.Encoding.pkNop (a : Packet) : Laws.Encoding.Statement (.pkNop a) := by
  refine word_packet rfl rfl ?_ ?_
  · intro h
    rfl
  · intro h
    simp_all [Instr.wf]
theorem Laws.Encoding.pkLink (a : Packet) : Laws.Encoding.Statement (.pkLink a) := by
  refine word_packet rfl rfl ?_ ?_
  · intro h
    rfl
  · intro h
    simp_all [Instr.wf]
theorem Laws.Encoding.pkCfg (a : Packet) : Laws.Encoding.Statement (.pkCfg a) := by
  refine word_packet rfl rfl ?_ ?_
  · intro h
    rfl
  · intro h
    simp_all [Instr.wf]
theorem Laws.Encoding.pkLaunch (a : Packet) : Laws.Encoding.Statement (.pkLaunch a) := by
  refine word_packet rfl rfl ?_ ?_
  · intro h
    rfl
  · intro h
    simp_all [Instr.wf]
theorem Laws.Encoding.pkSeed (a : Packet) : Laws.Encoding.Statement (.pkSeed a) := by
  refine word_packet rfl rfl ?_ ?_
  · intro h
    rfl
  · intro h
    simp_all [Instr.wf]
theorem Laws.Encoding.pkIb (a : Packet) : Laws.Encoding.Statement (.pkIb a) := by
  refine word_packet rfl rfl ?_ ?_
  · intro h
    rfl
  · intro h
    simp_all [Instr.wf]
theorem Laws.Encoding.pkIbend (a : Packet) : Laws.Encoding.Statement (.pkIbend a) := by
  refine word_packet rfl rfl ?_ ?_
  · intro h
    rfl
  · intro h
    simp_all [Instr.wf]
theorem Laws.Encoding.pkPred (a : Packet) : Laws.Encoding.Statement (.pkPred a) := by
  refine word_packet rfl rfl ?_ ?_
  · intro h
    rfl
  · intro h
    simp_all [Instr.wf]
theorem Laws.Encoding.pkLoopOpen (a : Packet) : Laws.Encoding.Statement (.pkLoopOpen a) := by
  refine word_packet rfl rfl ?_ ?_
  · intro h
    simp_all [packetOf, Instr.wf]
  · intro h
    simp_all [Instr.wf]
theorem Laws.Encoding.pkLoopClose (a : Packet) : Laws.Encoding.Statement (.pkLoopClose a) := by
  refine word_packet rfl rfl ?_ ?_
  · intro h
    simp_all [packetOf, Instr.wf]
  · intro h
    simp_all [Instr.wf]
theorem Laws.Encoding.pkFfence (a : Packet) : Laws.Encoding.Statement (.pkFfence a) := by
  refine word_packet rfl rfl ?_ ?_
  · intro h
    rfl
  · intro h
    simp_all [Instr.wf]
theorem Laws.Encoding.pkWait (a : Packet) : Laws.Encoding.Statement (.pkWait a) := by
  refine word_packet rfl rfl ?_ ?_
  · intro h
    rfl
  · intro h
    simp_all [Instr.wf]
theorem Laws.Encoding.pkWrite (a : Packet) : Laws.Encoding.Statement (.pkWrite a) := by
  refine word_packet rfl rfl ?_ ?_
  · intro h
    rfl
  · intro h
    simp_all [Instr.wf]
theorem Laws.Encoding.pkSignal (a : Packet) : Laws.Encoding.Statement (.pkSignal a) := by
  refine word_packet rfl rfl ?_ ?_
  · intro h
    rfl
  · intro h
    simp_all [Instr.wf]
theorem Laws.Encoding.pkPri (a : Packet) : Laws.Encoding.Statement (.pkPri a) := by
  refine word_packet rfl rfl ?_ ?_
  · intro h
    rfl
  · intro h
    simp_all [Instr.wf]
theorem Laws.Encoding.pkColour (a : Packet) : Laws.Encoding.Statement (.pkColour a) := by
  refine word_packet rfl rfl ?_ ?_
  · intro h
    rfl
  · intro h
    simp_all [Instr.wf]
theorem Laws.Encoding.pkPin (a : Packet) : Laws.Encoding.Statement (.pkPin a) := by
  refine word_packet rfl rfl ?_ ?_
  · intro h
    rfl
  · intro h
    simp_all [Instr.wf]
theorem Laws.Encoding.pkUnpin (a : Packet) : Laws.Encoding.Statement (.pkUnpin a) := by
  refine word_packet rfl rfl ?_ ?_
  · intro h
    rfl
  · intro h
    simp_all [Instr.wf]
theorem Laws.Encoding.pkTeardown (a : Packet) : Laws.Encoding.Statement (.pkTeardown a) := by
  refine word_packet rfl rfl ?_ ?_
  · intro h
    rfl
  · intro h
    simp_all [Instr.wf]
theorem Laws.Encoding.tokenHop (a : BitVec 64) : Laws.Encoding.Statement (.tokenHop a) := no_word rfl rfl
theorem Laws.Encoding.configWave (a : Nat) (b : List Rec) : Laws.Encoding.Statement (.configWave a b) := no_word rfl rfl
theorem Laws.Encoding.partialReconfig (a : List Rec) : Laws.Encoding.Statement (.partialReconfig a) := no_word rfl rfl
theorem Laws.Encoding.qdoor (a : BitVec 12) : Laws.Encoding.Statement (.qdoor a) := no_word rfl rfl
theorem Laws.Encoding.qtabWrite (a : BitVec 64) : Laws.Encoding.Statement (.qtabWrite a) := no_word rfl rfl
theorem Laws.Encoding.mgmtRegisterWrite (a : MgmtReg) (b : BitVec 64) : Laws.Encoding.Statement (.mgmtRegisterWrite a b) := no_word rfl rfl
theorem Laws.Encoding.hostDataRead (a : Nat) (b : Nat) : Laws.Encoding.Statement (.hostDataRead a b) := no_word rfl rfl
theorem Laws.Encoding.hostDataWrite (a : Nat) (b : List Byte) : Laws.Encoding.Statement (.hostDataWrite a b) := no_word rfl rfl
theorem Laws.Encoding.hostCheckedWrite (a : Nat) (b : List Byte) : Laws.Encoding.Statement (.hostCheckedWrite a b) := no_word rfl rfl
theorem Laws.Encoding.hostPresenceRead (a : HostSpan) : Laws.Encoding.Statement (.hostPresenceRead a) := no_word rfl rfl
theorem Laws.Encoding.hostPresenceClear (a : PresenceWrite) : Laws.Encoding.Statement (.hostPresenceClear a) := no_word rfl rfl
theorem Laws.Encoding.hostPresenceSet (a : PresenceWrite) : Laws.Encoding.Statement (.hostPresenceSet a) := no_word rfl rfl
theorem Laws.Encoding.hostPublishWrite (a : Nat) (b : List Byte) : Laws.Encoding.Statement (.hostPublishWrite a b) := no_word rfl rfl
theorem Laws.Encoding.hbmScrub (a : Nat) : Laws.Encoding.Statement (.hbmScrub a) := no_word rfl rfl
theorem Laws.Encoding.powerLimit (a : Nat) : Laws.Encoding.Statement (.powerLimit a) := no_word rfl rfl
theorem Laws.Encoding.lltFlood (a : LltCopy) : Laws.Encoding.Statement (.lltFlood a) := no_word rfl rfl
theorem Laws.Encoding.lltAck (a : BitVec 12) (b : Nat) (c : List Byte) : Laws.Encoding.Statement (.lltAck a b c) := no_word rfl rfl
theorem Laws.Encoding.collMarkExchange (a : CollMsg) (b : MarkReport) : Laws.Encoding.Statement (.collMarkExchange a b) := no_word rfl rfl
theorem Laws.Encoding.collChunkUp (a : CollMsg) (b : BitVec 12) (c : List (List (Option Lane))) : Laws.Encoding.Statement (.collChunkUp a b c) := no_word rfl rfl
theorem Laws.Encoding.collChunkDown (a : CollMsg) (b : List (Option Lane)) : Laws.Encoding.Statement (.collChunkDown a b) := no_word rfl rfl
theorem Laws.Encoding.collDstAck (a : CollMsg) (b : BitVec 12) : Laws.Encoding.Statement (.collDstAck a b) := no_word rfl rfl
theorem Laws.Encoding.collAbortMessage (a : Colour) (b : BitVec 32) : Laws.Encoding.Statement (.collAbortMessage a b) := no_word rfl rfl
theorem Laws.Encoding.fbBarrierEvent (a : FbMsg) : Laws.Encoding.Statement (.fbBarrierEvent a) := no_word rfl rfl
theorem Laws.Encoding.linkUp (a : Nat) (b : BitVec 12) (c : BitVec 5) : Laws.Encoding.Statement (.linkUp a b c) := no_word rfl rfl
theorem Laws.Encoding.tokenArrive : Laws.Encoding.Statement (.tokenArrive) := no_word rfl rfl
theorem Laws.Encoding.channelTokenArrive : Laws.Encoding.Statement (.channelTokenArrive) := no_word rfl rfl
theorem Laws.Encoding.tokenReplay : Laws.Encoding.Statement (.tokenReplay) := no_word rfl rfl
theorem Laws.Encoding.eosToken : Laws.Encoding.Statement (.eosToken) := no_word rfl rfl
theorem Laws.Encoding.demandToken : Laws.Encoding.Statement (.demandToken) := no_word rfl rfl
theorem Laws.Encoding.wedgeToken : Laws.Encoding.Statement (.wedgeToken) := no_word rfl rfl
theorem Laws.Encoding.nodeWedgeFreeze : Laws.Encoding.Statement (.nodeWedgeFreeze) := no_word rfl rfl
theorem Laws.Encoding.windowAllocate : Laws.Encoding.Statement (.windowAllocate) := no_word rfl rfl
theorem Laws.Encoding.blockCommit : Laws.Encoding.Statement (.blockCommit) := no_word rfl rfl
theorem Laws.Encoding.waveWithdraw : Laws.Encoding.Statement (.waveWithdraw) := no_word rfl rfl
theorem Laws.Encoding.nodeEosSend : Laws.Encoding.Statement (.nodeEosSend) := no_word rfl rfl
theorem Laws.Encoding.spawnCreate : Laws.Encoding.Statement (.spawnCreate) := no_word rfl rfl
theorem Laws.Encoding.colourAdmit : Laws.Encoding.Statement (.colourAdmit) := no_word rfl rfl
theorem Laws.Encoding.colourEvict : Laws.Encoding.Statement (.colourEvict) := no_word rfl rfl
theorem Laws.Encoding.homeLoad : Laws.Encoding.Statement (.homeLoad) := no_word rfl rfl
theorem Laws.Encoding.loadReplay : Laws.Encoding.Statement (.loadReplay) := no_word rfl rfl
theorem Laws.Encoding.homeStore : Laws.Encoding.Statement (.homeStore) := no_word rfl rfl
theorem Laws.Encoding.homeClr : Laws.Encoding.Statement (.homeClr) := no_word rfl rfl
theorem Laws.Encoding.homeAtomic : Laws.Encoding.Statement (.homeAtomic) := no_word rfl rfl
theorem Laws.Encoding.homeReservation : Laws.Encoding.Statement (.homeReservation) := no_word rfl rfl
theorem Laws.Encoding.splitPieceIssue : Laws.Encoding.Statement (.splitPieceIssue) := no_word rfl rfl
theorem Laws.Encoding.rmwUpdate : Laws.Encoding.Statement (.rmwUpdate) := no_word rfl rfl
theorem Laws.Encoding.capsuleLand : Laws.Encoding.Statement (.capsuleLand) := no_word rfl rfl
theorem Laws.Encoding.capsuleBufferGrant : Laws.Encoding.Statement (.capsuleBufferGrant) := no_word rfl rfl
theorem Laws.Encoding.tilePortEvent : Laws.Encoding.Statement (.tilePortEvent) := no_word rfl rfl
theorem Laws.Encoding.tileFillComplete : Laws.Encoding.Statement (.tileFillComplete) := no_word rfl rfl
theorem Laws.Encoding.tileDrainComplete : Laws.Encoding.Statement (.tileDrainComplete) := no_word rfl rfl
theorem Laws.Encoding.tagUnitEvent : Laws.Encoding.Statement (.tagUnitEvent) := no_word rfl rfl
theorem Laws.Encoding.barrierEvent : Laws.Encoding.Statement (.barrierEvent) := no_word rfl rfl
theorem Laws.Encoding.islandRow : Laws.Encoding.Statement (.islandRow) := no_word rfl rfl
theorem Laws.Encoding.islandCommand : Laws.Encoding.Statement (.islandCommand) := no_word rfl rfl
theorem Laws.Encoding.mxrRelease : Laws.Encoding.Statement (.mxrRelease) := no_word rfl rfl
theorem Laws.Encoding.cturnToken : Laws.Encoding.Statement (.cturnToken) := no_word rfl rfl
theorem Laws.Encoding.reorderToken : Laws.Encoding.Statement (.reorderToken) := no_word rfl rfl
theorem Laws.Encoding.isectElement : Laws.Encoding.Statement (.isectElement) := no_word rfl rfl
theorem Laws.Encoding.unionElement : Laws.Encoding.Statement (.unionElement) := no_word rfl rfl
theorem Laws.Encoding.spaccElement : Laws.Encoding.Statement (.spaccElement) := no_word rfl rfl
theorem Laws.Encoding.dynControlRelease : Laws.Encoding.Statement (.dynControlRelease) := no_word rfl rfl
theorem Laws.Encoding.reductionMerge : Laws.Encoding.Statement (.reductionMerge) := no_word rfl rfl
theorem Laws.Encoding.configComplete : Laws.Encoding.Statement (.configComplete) := no_word rfl rfl
theorem Laws.Encoding.seedEnter : Laws.Encoding.Statement (.seedEnter) := no_word rfl rfl
theorem Laws.Encoding.exitPortToken : Laws.Encoding.Statement (.exitPortToken) := no_word rfl rfl
theorem Laws.Encoding.reinjectRequest : Laws.Encoding.Statement (.reinjectRequest) := no_word rfl rfl
theorem Laws.Encoding.walkComplete : Laws.Encoding.Statement (.walkComplete) := no_word rfl rfl
theorem Laws.Encoding.placeInvalidationComplete : Laws.Encoding.Statement (.placeInvalidationComplete) := no_word rfl rfl
theorem Laws.Encoding.xlateInvalidationComplete : Laws.Encoding.Statement (.xlateInvalidationComplete) := no_word rfl rfl
theorem Laws.Encoding.hoistRound : Laws.Encoding.Statement (.hoistRound) := no_word rfl rfl
theorem Laws.Encoding.queueUnblock : Laws.Encoding.Statement (.queueUnblock) := no_word rfl rfl
theorem Laws.Encoding.arbiterRound : Laws.Encoding.Statement (.arbiterRound) := no_word rfl rfl
theorem Laws.Encoding.gatingComplete : Laws.Encoding.Statement (.gatingComplete) := no_word rfl rfl
theorem Laws.Encoding.wedgingComplete : Laws.Encoding.Statement (.wedgingComplete) := no_word rfl rfl
theorem Laws.Encoding.hardFreeze : Laws.Encoding.Statement (.hardFreeze) := no_word rfl rfl
theorem Laws.Encoding.settlingComplete : Laws.Encoding.Statement (.settlingComplete) := no_word rfl rfl
theorem Laws.Encoding.savingComplete : Laws.Encoding.Statement (.savingComplete) := no_word rfl rfl
theorem Laws.Encoding.restoreComplete : Laws.Encoding.Statement (.restoreComplete) := no_word rfl rfl
theorem Laws.Encoding.streamerExecute : Laws.Encoding.Statement (.streamerExecute) := no_word rfl rfl
theorem Laws.Encoding.streamerComplete : Laws.Encoding.Statement (.streamerComplete) := no_word rfl rfl
theorem Laws.Encoding.powerOn : Laws.Encoding.Statement (.powerOn) := no_word rfl rfl
theorem Laws.Encoding.startCold : Laws.Encoding.Statement (.startCold) := no_word rfl rfl
theorem Laws.Encoding.startWarm : Laws.Encoding.Statement (.startWarm) := no_word rfl rfl
theorem Laws.Encoding.vdcmdBind : Laws.Encoding.Statement (.vdcmdBind) := no_word rfl rfl
theorem Laws.Encoding.vdcmdRelease : Laws.Encoding.Statement (.vdcmdRelease) := no_word rfl rfl
theorem Laws.Encoding.cxlLinkDown : Laws.Encoding.Statement (.cxlLinkDown) := no_word rfl rfl
theorem Laws.Encoding.sealElementToken : Laws.Encoding.Statement (.sealElementToken) := no_word rfl rfl
theorem Laws.Encoding.voterToken : Laws.Encoding.Statement (.voterToken) := no_word rfl rfl
theorem Laws.Encoding.voterTimeout : Laws.Encoding.Statement (.voterTimeout) := no_word rfl rfl
theorem Laws.Encoding.droopStretch : Laws.Encoding.Statement (.droopStretch) := no_word rfl rfl
theorem Laws.Encoding.thermalThrottle : Laws.Encoding.Statement (.thermalThrottle) := no_word rfl rfl
theorem Laws.Encoding.thermalStop : Laws.Encoding.Statement (.thermalStop) := no_word rfl rfl
theorem Laws.Encoding.laneFail : Laws.Encoding.Statement (.laneFail) := no_word rfl rfl
theorem Laws.Encoding.linkDown : Laws.Encoding.Statement (.linkDown) := no_word rfl rfl
theorem Laws.Encoding.seamDegraded : Laws.Encoding.Statement (.seamDegraded) := no_word rfl rfl
theorem Laws.Encoding.seamDown : Laws.Encoding.Statement (.seamDown) := no_word rfl rfl
theorem Laws.Encoding.collAdmit : Laws.Encoding.Statement (.collAdmit) := no_word rfl rfl
theorem Laws.Encoding.collChunkCommit (a : CollMsg) : Laws.Encoding.Statement (.collChunkCommit a) := no_word rfl rfl
theorem Laws.Encoding.collComplete : Laws.Encoding.Statement (.collComplete) := no_word rfl rfl
theorem Laws.Encoding.acknowledgement : Laws.Encoding.Statement (.acknowledgement) := no_word rfl rfl
theorem Laws.Encoding.seamTrained : Laws.Encoding.Statement (.seamTrained) := no_word rfl rfl
theorem Laws.Encoding.cxlLinkTrained : Laws.Encoding.Statement (.cxlLinkTrained) := no_word rfl rfl
theorem Laws.Encoding.supplyRecovered : Laws.Encoding.Statement (.supplyRecovered) := no_word rfl rfl
theorem Laws.Encoding.hostReceiverReady : Laws.Encoding.Statement (.hostReceiverReady) := no_word rfl rfl

end Sys2Proof
end

