-- ==== Sys2Proof/Tests/Slice0.lean ====
section
/-! SUPPORT. Tests. Expected results are the spec's own examples or hand calculation from its tables; a comment names the rule. A theorem
wit_… shows a state and operands that meet a statement's hypotheses. -/

namespace Sys2Proof.Tests

open Sys2Proof Sys2Proof.Machine

set_option Elab.async false

/-! ## Well-formedness: one ill-formed term for each check -/

def cc (t0 t1 : Target) : Common := ⟨.always, t0, t1⟩
def none2 : Common := cc .null .null
def toF5 : Common := cc (.frame 5) .null

/-- Body A with a type and a sub-operation. -/
def fas (c : Common) (ty sub : Nat) : FormA := ⟨c, BitVec.ofNat 4 ty, BitVec.ofNat 5 sub, false, 0⟩
def fa (ty : Nat) : FormA := fas toF5 ty 0
def fai (ty : Nat) (imm : Nat) : FormA := ⟨toF5, BitVec.ofNat 4 ty, 0, true, BitVec.ofNat 25 imm⟩
def fm (c : Common) (sp : Space) (sz : Size) : FormM := ⟨c, 0, 1, 2, sp, sz, false, 0⟩
def fx (c : Common) (var pbase flags : Nat) : FormX := ⟨c, 0, BitVec.ofNat 5 var, BitVec.ofNat 7 pbase, BitVec.ofNat 19 flags⟩
def fk (c : Common) (kvar ent kimm : Nat) : FormK := ⟨c, BitVec.ofNat 4 kvar, BitVec.ofNat 4 ent, BitVec.ofNat 27 kimm⟩
def fc (bt0 bt1 : Nat) : FormC := ⟨none2, BitVec.ofNat 6 bt0, BitVec.ofNat 6 bt1, 0, 0⟩
def pk (pflg : Nat) (ps : List (BitVec 32)) : Packet := ⟨BitVec.ofNat 8 ps.length, BitVec.ofNat 16 pflg, ps⟩

/-- R41: equal targets; T0 null while T1 is not. R106: a type, a sub-operation, an immediate that the row does not admit. -/
theorem test_wf_body_a : (Instr.add (fa 0)).wf = true ∧
    (Instr.add (fas (cc (.frame 5) (.frame 5)) 0 0)).wf = false ∧ (Instr.add (fas (cc .null (.frame 5)) 0 0)).wf = false ∧
    (Instr.add (fa 8)).wf = false ∧ (Instr.add (fas toF5 0 1)).wf = false ∧ (Instr.not (fai 0 1)).wf = false ∧
    (Instr.add { fa 0 with imm := 1 }).wf = false ∧ (Instr.cmp (fas toF5 0 6)).wf = false ∧ (Instr.stop (fas toF5 0 0)).wf = false ∧
    (Instr.dot4i (fas toF5 3 1)).wf = false ∧ (Instr.dec (fas toF5 0 0x0C)).wf = false ∧ (Instr.spacc (fas toF5 0 9)).wf = false := by decide

/-- R44: an immediate of 2^16 for 16-bit elements, one of 2^8 for 8-bit elements, one with low bits for bfloat16. -/
theorem test_wf_immediates : (Instr.add (fai 2 65536)).wf = false ∧ (Instr.add (fai 3 256)).wf = false ∧ (Instr.fadd (fai 9 1)).wf = false ∧
    (Instr.add (fai 2 65535)).wf = true := by decide

/-- R117, R178, R216, R188: a target that the row does not admit. -/
theorem test_wf_targets : (Instr.nop (fas toF5 0 0)).wf = false ∧ (Instr.ctxf (fas (cc (.window 3 .l) .null) 0 0)).wf = false ∧
    (Instr.pack (fa 0)).wf = false ∧ (Instr.send (fas (cc (.port .static 1) .null) 0 0)).wf = false ∧ (Instr.eos (fa 0)).wf = false ∧
    (Instr.bwait (fa 0)).wf = false ∧ (Instr.enc (fas toF5 0 0x0D)).wf = false ∧ (Instr.dec (fas toF5 0 0x0D)).wf = false ∧
    (Instr.spdr (fas toF5 0 1)).wf = false := by decide

/-- R46: two equal formats, a reserved code. -/
theorem test_wf_conversions : (Instr.cvt ⟨toF5, 0xF, 8, false, 9⟩).wf = true ∧ (Instr.cvt ⟨toF5, 0xF, 8, false, 8⟩).wf = false ∧
    (Instr.cvt ⟨toF5, 0xF, 7, false, 8⟩).wf = false ∧ (Instr.cvts ⟨toF5, 0xF, 8, false, 9⟩).wf = false := by decide

/-- R26, R178, R179: a chain position of 0 or 31, a chase of another size, a store of a block size. -/
theorem test_wf_body_m : (Instr.ld (fm toF5 .g .b32)).wf = true ∧ (Instr.ld { fm toF5 .g .b32 with sqo := 0 }).wf = false ∧
    (Instr.ld { fm toF5 .g .b32 with sqo := 31 }).wf = false ∧ (Instr.ld { fm toF5 .g .b32 with lnk := true }).wf = false ∧
    (Instr.ldLnk { fm toF5 .g .b32 with lnk := true }).wf = false ∧ (Instr.st (fm none2 .g .dsb8)).wf = false ∧
    (Instr.ldp (fm toF5 .g .b64)).wf = false ∧ (Instr.clr (fm none2 .g .b8)).wf = false ∧ (Instr.aadd (fm none2 .g .b8)).wf = false ∧
    (Instr.afadd (fm none2 .g .b64)).wf = false ∧ (Instr.fence (fm none2 .g .b8)).wf = false := by decide

/-- R49, R118: block targets out of order, a handle of a branch. -/
theorem test_wf_body_c : (Instr.bri (fc 2 1)).wf = false ∧ (Instr.bro (fc 1 1)).wf = false ∧ (Instr.brp { fc 0 1 with handle := 1 }).wf = false ∧
    (Instr.spawn (fc 1 0)).wf = false ∧ (Instr.ret (fc 1 0)).wf = false ∧ (Instr.retire (fc 0 1)).wf = false := by decide

/-- R50, R287, R364: a parameter block beyond slot 127, flags, a variant, a reduction of bits on floats. -/
theorem test_wf_body_x : (Instr.mxb (fx none2 0 126 0)).wf = false ∧ (Instr.mxb (fx none2 0 4 1)).wf = false ∧ (Instr.mxz (fx none2 1 0 0)).wf = false ∧
    (Instr.mxz (fx none2 0 1 0)).wf = false ∧ (Instr.cpy (fx none2 1 4 0)).wf = false ∧ (Instr.gath (fx none2 0 4 5)).wf = false ∧
    (Instr.tfill (fx none2 0 4 0)).wf = false ∧ (Instr.tdrain (fx none2 0 4 0)).wf = false ∧ (Instr.collAllReduce (fx none2 3 4 8)).wf = false ∧
    (Instr.collAllGather (fx none2 1 4 0)).wf = false ∧ (Instr.lnkr (fx none2 0 4 1)).wf = false := by decide

/-- R51, R142: an entry of 15, an immediate that the row does not take, a variant of no row. -/
theorem test_wf_body_k : (Instr.capgo (fk none2 0 0 1)).wf = false ∧ (Instr.capdel (fk none2 0 15 0)).wf = false ∧
    (Instr.capnNew (fk toF5 0 0 512)).wf = false ∧ (Instr.capnAdopt (fk toF5 0 0 0)).wf = false ∧ (Instr.capnxIndex (fk none2 0 15 0)).wf = false ∧
    (Instr.capnxOperand (fk none2 0 0 0)).wf = false ∧ (Instr.caprepPlace (fk none2 0 3 0)).wf = false ∧ (Instr.capjoin (fk toF5 0 0 16)).wf = false ∧
    (Instr.cappark (fk none2 0 0 256)).wf = false ∧ (Instr.caphdWord (fk toF5 0 0 8)).wf = false ∧ (Instr.caphdEntry (fk toF5 2 15 0)).wf = false ∧
    (Instr.caphdArg (fk toF5 0 0 0)).wf = false ∧ (Instr.capld (fk toF5 1 0 0)).wf = false := by decide

/-- R297, R296: a register that does not exist, one that is written, a trap without an immediate; an `xfence` of no class. -/
theorem test_wf_body_s : (Instr.sysr ⟨toF5, 0x00B, 0⟩).wf = false ∧ (Instr.sysr ⟨toF5, 0x102, 0⟩).wf = false ∧
    (Instr.syswPinv ⟨none2, 0x103, 0⟩).wf = false ∧ (Instr.syswXinv ⟨none2, 0x103, 1⟩).wf = false ∧ (Instr.syswPreempt ⟨none2, 0x102, 0⟩).wf = false ∧
    (Instr.trap (fas none2 0 0)).wf = false ∧ (Instr.xfence (fa 0)).wf = false ∧ (Instr.imm ⟨toF5, 4, 0⟩).wf = false := by decide

/-- R348, R351: packets with a wrong length, a reserved flag, an unaligned or too high address. -/
theorem test_wf_packets : (Instr.pkNop ⟨1, 0, []⟩).wf = false ∧ (Instr.pkNop (pk 1 [])).wf = false ∧ (Instr.pkLink (pk 0 [4, 0])).wf = false ∧
    (Instr.pkCfg (pk 4096 [0, 0])).wf = false ∧ (Instr.pkLaunch (pk 0 [0])).wf = false ∧ (Instr.pkSeed (pk 0 [1, 0, 0])).wf = false ∧
    (Instr.pkIb (pk 0 [0, 65536])).wf = false ∧ (Instr.pkIbend (pk 1 [])).wf = false ∧ (Instr.pkPred (pk 0 [0, 0, 0])).wf = false ∧
    (Instr.pkLoopOpen (pk 0 [])).wf = false ∧ (Instr.pkLoopClose (pk 1 [])).wf = false ∧ (Instr.pkFfence (pk 1 [])).wf = false ∧
    (Instr.pkWait (pk 6 [0, 0, 0])).wf = false ∧ (Instr.pkWrite (pk 4096 [4, 0, 0, 0])).wf = false ∧ (Instr.pkSignal (pk 256 [])).wf = false ∧
    (Instr.pkPri (pk 8 [])).wf = false ∧ (Instr.pkColour (pk 1 [])).wf = false ∧ (Instr.pkPin (pk 1 [0, 0, 0])).wf = false ∧
    (Instr.pkUnpin (pk 1 [1, 0, 1])).wf = false ∧ (Instr.pkTeardown (pk 8192 [])).wf = false := by decide

/-! ## Decoding: words written out from R37 to R52 (opcode [63:55], PM [54:53], T0 [52:44], T1 [43:35], the body below) -/

theorem test_decode_a : decodeWord 0x3000C41000000000 = .ok (.add ⟨cc (.window 3 .l) (.frame 2), 0, 0, false, 0⟩) := rfl
theorem test_decode_a_imm : decodeWord 0x328108080FFFFFFE = .ok (.mad ⟨cc (.window 4 .l) (.port .static 1), 0, 3, true, 0x1FFFFFE⟩) := rfl
theorem test_decode_float : decodeWord 0x64140C040A7F0000 = .ok (.fcmp ⟨cc (.port .control 0) .null, 8, 2, true, 0x7F0000⟩) := rfl
theorem test_decode_flow : decodeWord 0x1190180000000000 = .ok (.steer ⟨cc (.port .static 1) (.port .static 0), 0, 0, false, 0⟩) := rfl
theorem test_decode_c : decodeWord 0x00980C0020000000 = .ok (.bro ⟨none2, 1, 0, 0, 0⟩) := rfl
theorem test_decode_m : decodeWord 0x900108080229C001 = .ok (.ldLnk ⟨cc (.window 4 .l) (.port .static 1), 0, 1, 2, .g, .b64, true, 1⟩) := rfl
theorem test_decode_channel : decodeWord 0x97980C0004000000 = .ok (.vcset (fas none2 0 1)) := rfl
theorem test_decode_cluster : decodeWord 0xB5810C0022000003 = .ok (.spacc ⟨cc (.window 4 .l) .null, 0, 8, true, 3⟩) ∧
    decodeWord 0xB8000C0004000000 = .ok (.bwait (fas (cc (.window 0 .l) .null) 0 1)) := ⟨rfl, rfl⟩
theorem test_decode_x : decodeWord 0xC0180C0050000000 = .ok (.cpy (fx none2 20 0 0)) := rfl
theorem test_decode_die : decodeWord 0xC2980C000C000000 = .ok (.xfence (fas none2 0 3)) ∧
    decodeWord 0xC3380C0002000007 = .ok (.trap ⟨⟨.onTrue, .null, .null⟩, 0, 0, true, 7⟩) := ⟨rfl, rfl⟩
theorem test_decode_package : decodeWord 0xD000CC0000100000 = .ok (.sealo ⟨cc (.window 3 .l) .null, 0, 0, 2, 0⟩) := rfl
theorem test_decode_fabric : decodeWord 0xD8008C0000000028 = .ok (.collAllReduce (fx (cc (.window 2 .l) .null) 0 0 0x28)) ∧
    decodeWord 0xD8804C0000180000 = .ok (.lnkr (fx (cc (.window 1 .l) .null) 0 3 0)) := ⟨rfl, rfl⟩
/-- 0x100 in [63:55] is `capn`, 0x102 `capnx`: KVAR [34:31], ENT [30:27] (R51). -/
theorem test_decode_k : decodeWord 0x81180C0018000000 = .ok (.capnxIndex (fk none2 0 3 0)) := rfl
/-- 0x188 in [63:55] is `sysw`, SREG [34:23] (R52). -/
theorem test_decode_s : decodeWord 0xC4180C0081800000 = .ok (.syswXinv ⟨none2, 0x103, 0⟩) := rfl
/-- A header with POP [31:24], PLEN [23:16] and PFLG [15:0] (R60), and its payload. -/
theorem test_decode_packet : decodePacket [0x06000000, 7] = .ok (.pkIbend (pk 0 [])) ∧
    decodePacket [0x0D000005] = .ok (.pkPri (pk 5 [])) := ⟨rfl, rfl⟩
/-- The bits of a packet as the opcode table numbers them: the header first. -/
theorem test_table_word : decodeTableWord 64 0x3000C41000000000 = some (.add ⟨cc (.window 3 .l) (.frame 2), 0, 0, false, 0⟩) := rfl

/-! ## Small states -/

def tk (k : Kind) (ls : List Lane) : Token := mkTok 1 k 9 ls
def dt (ls : List Lane) : Token := tk .data ls

/-- A slot with the operands given. -/
def sl (l r p : Option Token) : Slot := ⟨l, r, p, l.isSome, r.isSome, p.isSome, false⟩
def sl1 (ls : List Lane) : Slot := sl (some (dt ls)) none none
def sl2 (ls rs : List Lane) : Slot := sl (some (dt ls)) (some (dt rs)) none
def slp (ls : List Lane) (p : Token) : Slot := sl (some (dt ls)) none (some p)

/-- A block with one instruction, eight outputs and four stores to be counted. -/
def oneBlock (i : Instr) : Block := ⟨BitVec.ofNat 64 (8 * 2 ^ 47 + 4 * 2 ^ 42), 0, [(encodeWord i).getD 0]⟩

def outPorts : List OutPort :=
  [⟨.static, 1, [.exit 7 0], false, 0⟩, ⟨.dynamic, 2, [.chan 5 0 3], false, 0⟩, ⟨.control, 3, [.exit 7 1], false, 0⟩]

def nodeOf (w : Nat) (i : Instr) : NodeState :=
  let n := bareNode 7 0
  { n with info := { n.info with width := w, outs := outPorts }, blocks := [(0, oneBlock i)] }

def actOf (w : Nat) (x : Slot) (fs : Tab Token) (h : Option Held) : Activation :=
  { bareAct 7 0 with
    colour := 1, width := w, kind := if h.isSome then .capsule else .default, slots := fs, seq := 3, held := h, waves := [{ bareWave 0 with slots := [x] }] }

/-- Core 0 with a node of width w, whose only wave has an instruction in slot 0 with the given operands. -/
def placedH (w : Nat) (i : Instr) (x : Slot) (fs : Tab Token) (h : Option Held) : State :=
  { State.reset with m := { State.reset.m with
      cur := ⟨0, 0, 0, 0, 0⟩
      cores := [(0, { CoreState.zero with nodes := [(0, nodeOf w i)], acts := [(0, actOf w x fs h)], occupants := [1], nextUid := 1 })] } }

def placed (w : Nat) (i : Instr) (x : Slot) (fs : Tab Token) : State := placedH w i x fs none

/-- The state after an instruction. -/
def after (i : Instr) (s : State) : State :=
  match exec i s with
  | .next t => t
  | _ => s

/-- The only wave. -/
def wave0 (s : State) : Option Wave := (s.m.act? 0 0).bind fun a => a.wave? 0

/-- What the wave's only instruction has recorded for its commit. -/
def recorded (i : Instr) (s : State) : List CAct := ((wave0 (after i s)).map fun v => v.acts.map Prod.snd).getD []

/-- The kind and the lanes of the first token for frame slot 5. -/
def toFrame (i : Instr) (s : State) : Option (Kind × List Lane) :=
  match recorded i s with
  | .frame 5 t :: _ => some (t.kind, t.lanes)
  | _ => none

def one (i : Instr) (l : List Lane) : Option (Kind × List Lane) := toFrame i (placed l.length i (sl1 l) [])
def two (i : Instr) (l r : List Lane) : Option (Kind × List Lane) := toFrame i (placed l.length i (sl2 l r) [])
def three (i : Instr) (l r c : List Lane) : Option (Kind × List Lane) := toFrame i (placed l.length i (sl2 l r) [(3, dt c)])

def data (ls : List Lane) : Option (Kind × List Lane) := some (.data, ls)
def error (c : Nat) (w : Nat) : Option (Kind × List Lane) := some (.error, BitVec.ofNat 32 c :: List.replicate (w - 1) 0)

/-! ## Arithmetic (05 R103 to R112) -/

theorem test_add_wraps : two (.add (fa 0)) [0xFFFFFFFF, 1] [2, 3] = data [1, 4] := by decide +kernel
/-- Two 16-bit elements in a lane; no carry between them. -/
theorem test_sub_halves : two (.sub (fa 2)) [0x00010000] [0x00000001] = data [0x0001FFFF] := by decide +kernel
theorem test_mul : two (.mul (fa 1)) [0xFFFFFFFF, 0] [2, 0] = data [0xFFFFFFFE, 1] := by decide +kernel
theorem test_mulhi : two (.mulhi (fa 0)) [0xFFFFFFFF] [2] = data [0xFFFFFFFF] := by decide +kernel
theorem test_mulhn : two (.mulhn (fa 4)) [0xFFFFFFFF] [2] = data [1] := by decide +kernel
theorem test_mad : three (.mad (fas toF5 0 3)) [3] [4] [5] = data [17] := by decide +kernel
theorem test_div : two (.div (fa 0)) [0xFFFFFFF9] [2] = data [0xFFFFFFFD] := by decide +kernel
theorem test_div_zero : two (.div (fa 0)) [1, 2] [1, 0] = error 0x02 2 := by decide +kernel
theorem test_divn : two (.divn (fa 4)) [0xFFFFFFF9] [2] = data [0x7FFFFFFC] := by decide +kernel
theorem test_rem : two (.rem (fa 0)) [0xFFFFFFF9] [2] = data [0xFFFFFFFF] := by decide +kernel
theorem test_remn : two (.remn (fa 4)) [0xFFFFFFF9] [2] = data [1] := by decide +kernel
theorem test_and : two (.and (fa 0)) [0xC] [0xA] = data [8] := by decide +kernel
theorem test_or : two (.or (fa 0)) [0xC] [0xA] = data [0xE] := by decide +kernel
theorem test_xor : two (.xor (fa 0)) [0xC] [0xA] = data [6] := by decide +kernel
theorem test_andn : two (.andn (fa 0)) [0xC] [0xA] = data [4] := by decide +kernel
theorem test_not : one (.not (fa 0)) [0xC] = data [0xFFFFFFF3] := by decide +kernel
/-- The amount is taken modulo the element's bits. -/
theorem test_shl : two (.shl (fa 0)) [3] [33] = data [6] := by decide +kernel
theorem test_shr : two (.shr (fa 0)) [0x80000000] [4] = data [0x08000000] := by decide +kernel
theorem test_sar : two (.sar (fa 0)) [0x80000000] [4] = data [0xF8000000] := by decide +kernel
theorem test_rol : two (.rol (fa 0)) [0x80000001] [4] = data [0x18] := by decide +kernel
theorem test_ror : two (.ror (fa 0)) [0x18] [4] = data [0x80000001] := by decide +kernel
theorem test_min_max : two (.min (fa 0)) [0xFFFFFFFF] [1] = data [0xFFFFFFFF] ∧ two (.max (fa 0)) [0xFFFFFFFF] [1] = data [1] := by decide +kernel
theorem test_minn_maxn : two (.minn (fa 4)) [0xFFFFFFFF] [1] = data [1] ∧ two (.maxn (fa 4)) [0xFFFFFFFF] [1] = data [0xFFFFFFFF] := by
  decide +kernel
theorem test_abs : one (.abs (fa 0)) [0x80000000, 0xFFFFFFFF] = data [0x80000000, 1] := by decide +kernel
theorem test_neg : one (.neg (fa 0)) [1] = data [0xFFFFFFFF] := by decide +kernel
theorem test_counts : one (.clz (fa 4)) [1] = data [31] ∧ one (.ctz (fa 4)) [0] = data [32] ∧ one (.popc (fa 4)) [0xF0F] = data [8] := by decide +kernel
/-- Position 4, width 8: the field 0xFF of 0xFF0 sign-extends. -/
theorem test_bfx : two (.bfx (fa 0)) [0xFF0] [0x804] = data [0xFFFFFFFF] ∧ two (.bfx (fa 4)) [0xFF0] [0x804] = data [0xFF] := by decide +kernel
theorem test_bfi : three (.bfi (fas toF5 0 3)) [0xAB] [0x804] [0xFFFFFFFF] = data [0xFFFFFABF] := by decide +kernel
theorem test_sel : three (.sel (fas toF5 0 3)) [0, 1] [7, 7] [9, 9] = data [9, 7] := by decide +kernel
theorem test_cmp : two (.cmp (fas toF5 0 2)) [0xFFFFFFFF] [1] = data [1] ∧ two (.cmp (fas toF5 4 2)) [0xFFFFFFFF] [1] = data [0] := by decide +kernel
theorem test_imm : recorded (.imm ⟨toF5, 2, 0xFFFFFFFE⟩) (placed 2 (.imm ⟨toF5, 2, 0xFFFFFFFE⟩) (sl none none none) []) =
    [.frame 5 (mkTok 1 .data 3 [0xFFFFFFFE, 0xFFFFFFFF])] := by decide +kernel
theorem test_lea : two (.lea (fas toF5 4 2)) [0x100] [3] = data [0x10C] := by decide +kernel
theorem test_sadd : two (.sadd (fa 3)) [0x7F] [1] = data [0x7F] := by decide +kernel
theorem test_ssub : two (.ssub (fa 4)) [1] [2] = data [0] := by decide +kernel
/-- 3 × 5 + 4 × 6 of 16-bit elements. -/
theorem test_dot2i : two (.dot2i (fa 2)) [0x00040003] [0x00060005] = data [39] := by decide +kernel
theorem test_dot4i : two (.dot4i (fa 3)) [0xFF020304] [0x01010101] = data [8] := by decide +kernel

/-! ## Floats (05 R112 to R115): 1.0 is 0x3F800000, 2.0 is 0x40000000 -/

theorem test_fadd : two (.fadd (fa 8)) [0x3F800000] [0x40000000] = data [0x40400000] := by decide +kernel
theorem test_fsub : two (.fsub (fa 8)) [0x3F800000] [0x40000000] = data [0xBF800000] := by decide +kernel
theorem test_fmul : two (.fmul (fa 8)) [0x40000000] [0x40400000] = data [0x40C00000] := by decide +kernel
theorem test_ffma : three (.ffma (fas toF5 8 3)) [0x40000000] [0x40400000] [0x3F800000] = data [0x40E00000] := by decide +kernel
theorem test_fmin_zero : two (.fmin (fa 8)) [0x00000000] [0x80000000] = data [0x80000000] ∧
    two (.fmax (fa 8)) [0x80000000] [0x00000000] = data [0x00000000] := by decide +kernel
theorem test_fabs_fneg : one (.fabs (fa 8)) [0xBF800000] = data [0x3F800000] ∧ one (.fneg (fa 8)) [0x3F800000] = data [0xBF800000] := by
  decide +kernel
theorem test_fcmp : two (.fcmp (fas toF5 8 0)) [0x00000000] [0x80000000] = data [1] := by decide +kernel
/-- The smallest subnormal is class bit 5 (the table's own row). -/
theorem test_fclass : one (.fclass (fa 8)) [0x00000001] = data [0x20] := by decide +kernel
theorem test_frcp : one (.frcp (fa 8)) [0x40000000] = data [0x3F000000] := by decide +kernel
theorem test_fsqrt : one (.fsqrt (fa 8)) [0x40800000] = data [0x40000000] := by decide +kernel
theorem test_frsq : one (.frsq (fa 8)) [0x40800000] = data [0x3F000000] := by decide +kernel
theorem test_exact_functions : one (.fexp2 (fa 8)) [0x40400000] = data [0x41000000] ∧ one (.flog2 (fa 8)) [0x41000000] = data [0x40400000] ∧
    one (.fsin (fa 8)) [0] = data [0] ∧ one (.fcos (fa 8)) [0] = data [0x3F800000] := by decide +kernel
theorem test_zero_functions : one (.ftanh (fa 8)) [0] = data [0] ∧ one (.fsig (fa 8)) [0] = data [0x3F000000] ∧ one (.ferf (fa 8)) [0] = data [0] := by
  decide +kernel
/-- 2.5 to the nearest even. -/
theorem test_fround : one (.fround (fa 8)) [0x40200000] = data [0x40000000] := by decide +kernel
theorem test_fdot2 : two (.fdot2 (fa 10)) [0x3C004000] [0x3C003C00] = data [0x40400000] := by decide +kernel

/-! ## Flow, lanes, conversions (06 R119 to R127, 03 R63 to R82) -/

/-- The example of R127. -/
theorem test_scanadd : one (.scanadd (fa 2)) [0x00020001, 0xFFFF0003] = data [0x00020001, 0x00010004] := by decide +kernel
theorem test_redadd : one (.redadd (fa 0)) [1, 2, 3, 4] = data [10, 0, 0, 0] ∧ one (.redadd (fas toF5 0 1)) [1, 2] = data [3, 3] := by decide +kernel
theorem test_redmax : one (.redmax (fa 0)) [0xFFFFFFFF, 2] = data [2, 0] ∧ one (.redmin (fa 4)) [0xFFFFFFFF, 2] = data [2, 0] := by decide +kernel
theorem test_bcast : one (.bcast (fas toF5 0 1)) [7, 8] = data [8, 8] := by decide +kernel
theorem test_shuf : two (.shuf (fa 0)) [7, 8] [1, 2] = data [8, 0] := by decide +kernel
theorem test_lrot : one (.lrot (fas toF5 0 1)) [7, 8, 9] = data [8, 9, 7] := by decide +kernel
theorem test_lidx : toFrame (.lidx (fa 0)) (placed 3 (.lidx (fa 0)) (sl none none none) []) = data [0, 1, 2] := by decide +kernel
theorem test_lmask : one (.lmask (fa 0)) [7, 0, 9] = data [5, 0, 0] := by decide +kernel
theorem test_lcomp : recorded (.lcomp (fas (cc (.frame 5) (.frame 6)) 0 0)) (placed 3 (.lcomp (fas (cc (.frame 5) (.frame 6)) 0 0))
    (sl2 [7, 8, 9] [1, 0, 1]) []) = [.frame 5 (dt [7, 9, 0]), .frame 6 (dt [2, 0, 0])] := by decide +kernel
theorem test_mov : one (.mov (fa 0)) [7] = data [7] := by decide +kernel
theorem test_ldf : toFrame (.ldf (fas toF5 1 2)) (placed 1 (.ldf (fas toF5 1 2)) (sl none none none) [(34, dt [77])]) = data [77] := by decide +kernel
theorem test_steer : recorded (.steer (fas (cc (.frame 5) (.frame 6)) 0 0)) (placed 1 (.steer (fas (cc (.frame 5) (.frame 6)) 0 0))
    (sl2 [7] [2]) []) = [.frame 6 (dt [7])] := by decide +kernel
theorem test_merge : two (.merge (fa 0)) [7] [0] = data [7] := by decide +kernel
theorem test_gate : two (.gate (fa 0)) [7] [1] = data [7] ∧ two (.gate (fa 0)) [7] [0] = none := by decide +kernel
theorem test_drop : recorded (.drop (fas none2 0 0)) (placed 1 (.drop (fas none2 0 0)) (sl1 [7]) []) = [.drop] := by decide +kernel
theorem test_send : recorded (.send (fas (cc (.port .dynamic 2) .null) 0 0)) (placed 1 (.send (fas (cc (.port .dynamic 2) .null) 0 0))
    (sl2 [7] [0x00050003]) []) = [.send .dynamic 2 3 0x00050003 (dt [7])] := by decide +kernel
theorem test_unpack : recorded (.unpack (fas (cc (.port .static 1) (.port .dynamic 2)) 0 0)) (placed 2
    (.unpack (fas (cc (.port .static 1) (.port .dynamic 2)) 0 0)) (sl1 [7, 8]) []) = [.out .static 1 (dt [7]), .out .dynamic 2 (dt [8])] := by
  decide +kernel
theorem test_pack : recorded (.pack (fas (cc (.port .static 1) .null) 0 0)) (placed 1 (.pack (fas (cc (.port .static 1) .null) 0 0))
    (sl2 [7] [8]) []) = [.out .static 1 (dt [7, 8])] := by decide +kernel
theorem test_eos : recorded (.eos (fas (cc (.port .static 1) .null) 0 0)) (placed 1 (.eos (fas (cc (.port .static 1) .null) 0 0))
    (sl1 [7]) []) = [.eos .static 1 9 1] := by decide +kernel
theorem test_stop : one (.stop (fas toF5 0 4)) [7, 7] = some (.stop, [4, 0]) := by decide +kernel
theorem test_stopc : one (.stopc (fa 0)) [0x12] = some (.stop, [2]) ∧ one (.stopc (fa 0)) [0x10] = none := by decide +kernel
theorem test_dmd : recorded (.dmd (fas (cc (.port .dynamic 2) .null) 0 3)) (placed 1 (.dmd (fas (cc (.port .dynamic 2) .null) 0 3))
    (sl2 [7] [5]) []) = [.demand .dynamic 2 3 5 9] := by decide +kernel
theorem test_cvt : one (.cvt ⟨toF5, 0xF, 8, false, 10⟩) [0x40003C00, 0] ≠ none := by decide +kernel
theorem test_brp : ((wave0 (after (.brp (fc 1 2)) (placed 1 (.brp (fc 1 2)) (sl1 [2]) []))).map Wave.exit) = some (some (.block 2)) := by decide +kernel
theorem test_bri : ((wave0 (after (.bri (fc 1 3)) (placed 1 (.bri (fc 1 3)) (sl1 [1]) []))).map Wave.exit) = some (some (.block 2)) := by decide +kernel
theorem test_bro : ((wave0 (after (.bro (fc 4 0)) (placed 1 (.bro (fc 4 0)) (sl none none none) []))).map Wave.exit) = some (some (.block 4)) := by
  decide +kernel
theorem test_retire : ((wave0 (after (.retire (fc 0 0)) (placed 1 (.retire (fc 0 0)) (sl none none none) []))).map Wave.exit) = some (some .retire) := by
  decide +kernel
/-- `ret` in a default activation is RET_DEFAULT (0x09). -/
theorem test_ret_default : ((after (.ret (fc 0 0)) (placed 1 (.ret (fc 0 0)) (sl1 [1]) [])).m.act? 0 0).bind Activation.fault = some 0x09 := by
  decide +kernel
theorem test_ctxq : one (.ctxq (fa 0)) [0] = data [1] := by decide +kernel
theorem test_ctxf : recorded (.ctxf (fas (cc (.frame 5) .null) 0 0)) (placed 1 (.ctxf (fas (cc (.frame 5) .null) 0 0)) (sl1 [3]) []) =
    [.ctxf 3 (dt [0]) (.frame 5) .null] := by decide +kernel
/-- A false predicate: nothing leaves, the output is counted. -/
theorem test_predicate : toFrame (.mov ⟨⟨.onTrue, .frame 5, .null⟩, 0, 0, false, 0⟩) (placed 1 (.mov ⟨⟨.onTrue, .frame 5, .null⟩, 0, 0, false, 0⟩)
    (slp [7] (dt [2])) []) = none ∧ ((wave0 (after (.mov ⟨⟨.onTrue, .frame 5, .null⟩, 0, 0, false, 0⟩) (placed 1
      (.mov ⟨⟨.onTrue, .frame 5, .null⟩, 0, 0, false, 0⟩) (slp [7] (dt [2])) []))).map Wave.outputs) = some 1 := by decide +kernel
/-- R21: poison before error before stop; two stops give the greater level. -/
theorem test_operand_rules : toFrame (.add (fa 0)) (placed 1 (.add (fa 0)) (sl (some (tk .error [3])) (some (tk .poison [0])) none) []) =
      some (.poison, [0]) ∧
    toFrame (.add (fa 0)) (placed 1 (.add (fa 0)) (sl (some (tk .stop [2])) (some (tk .stop [4])) none) []) = some (.stop, [4]) := by decide +kernel

/-! ## Memory, capsules, clusters, the die -/

/-- The first operator that waits in the wave. -/
def pending (i : Instr) (s : State) : Option Pend := (wave0 (after i s)).bind fun v => v.pend.head?

/-- A load of the bank of its own core. -/
theorem test_ld : ((pending (.ld (fm toF5 .k .b32)) (placed 2 (.ld (fm toF5 .k .b32)) (sl1 [0x40, 0]) [])).map fun p => (p.base, p.stage)) =
    some (0x40, .home) := by decide +kernel
theorem test_ld_request : ((after (.ld (fm toF5 .k .b32)) (placed 2 (.ld (fm toF5 .k .b32)) (sl1 [0x40, 0]) [])).m.net.map Msg.dst) = [0] := by
  decide +kernel
/-- An atomic that is not aligned to its size is MISALIGN. -/
theorem test_misalign : ((after (.aadd (fm none2 .k .b32)) (placed 2 (.aadd (fm none2 .k .b32)) (sl2 [0x41, 0] [1, 0]) [])).m.act? 0 0).bind
    Activation.fault = some Code.misalign := by decide +kernel
theorem test_vcset : recorded (.vcset (fas none2 0 1)) (placed 1 (.vcset (fas none2 0 1)) (sl1 [0x10D]) []) = [.vcset 1 0x10D] := by decide +kernel
theorem test_capgo : recorded (.capgo (fk none2 0 0 0)) (placed 1 (.capgo (fk none2 0 0 0)) (sl none none none) []) = [.cap .go] := by decide +kernel
theorem test_caphd_none : ((after (.caphdWord (fk toF5 0 0 0)) (placed 1 (.caphdWord (fk toF5 0 0 0)) (sl none none none) [])).m.act? 0 0).bind
    Activation.fault = some Code.capNone := by decide +kernel
/-- The example of R226. -/
theorem test_isect : recorded (.isect (fas (cc (.frame 5) (.frame 6)) 4 0)) (placed 4 (.isect (fas (cc (.frame 5) (.frame 6)) 4 0))
    (sl2 [1, 4, 7, 0xFFFFFFFF] [4, 5, 7, 9]) []) = [.frame 5 (dt [0xFFFFFFFF, 0, 2, 0xFFFFFFFF]), .frame 6 (dt [2, 0, 0, 0])] := by decide +kernel
theorem test_union : recorded (.union (fas (cc (.frame 5) (.frame 6)) 4 0)) (placed 4 (.union (fas (cc (.frame 5) (.frame 6)) 4 0))
    (sl2 [1, 4, 7, 0xFFFFFFFF] [4, 5, 7, 9]) []) = [.frame 5 (dt [1, 4, 5, 7]), .frame 6 (dt [9, 0xFFFFFFFF, 0xFFFFFFFF, 0xFFFFFFFF])] := by
  decide +kernel
theorem test_tlook_addr : ((after (.tlook (fa 0)) (placed 2 (.tlook (fa 0)) (sl1 [0, 0x10000]) [])).m.act? 0 0).bind Activation.fault =
    some Code.tagAddr := by decide +kernel
theorem test_tset_range : ((after (.tsetReady (fas none2 0 1)) (placed 2 (.tsetReady (fas none2 0 1)) (sl1 [3, 0x000107FF]) [])).m.act? 0 0).bind
    Activation.fault = some Code.tileRange := by decide +kernel
theorem test_binit_zero : ((after (.binit (fas none2 0 0)) (placed 1 (.binit (fas none2 0 0)) (sl2 [3] [0]) [])).m.act? 0 0).bind
    Activation.fault = some Code.barRange := by decide +kernel
theorem test_cpy : ((recorded (.cpy (fx none2 20 4 0)) (placed 2 (.cpy (fx none2 20 4 0)) (sl1 [0, 0])
    [(4, dt [0x100, 0]), (5, dt [0x200, 0]), (6, dt [64, 0])])).map fun a => match a with
      | .cmd c => some c.kind
      | _ => none) = [some (.cpy .g .g 0x100 0x200 64)] := by decide +kernel
theorem test_trap : ((after (.trap ⟨none2, 0, 0, true, 7⟩) (placed 1 (.trap ⟨none2, 0, 0, true, 7⟩) (sl1 [0]) [])).m.act? 0 0).bind Activation.fault =
    some Code.trap := by decide +kernel
theorem test_lnkr_param : ((after (.lnkr (fx none2 0 4 0)) (placed 1 (.lnkr (fx none2 0 4 0)) (sl1 [0]) [(4, dt [34])])).m.act? 0 0).bind
    Activation.fault = some Code.lnkParam := by decide +kernel

/-! ## Witnesses: states and operands that meet the hypotheses of the statements -/

/-- The instruction fires in s with the given fields at the given width. -/
def fits (i : Instr) (s : State) (v : Slot) (w : Nat) : Bool :=
  match firing i s with
  | some x => decide (x.fields = v) && x.width == w
  | none => false

theorem fits_some {i : Instr} {s : State} {v : Slot} {w : Nat} (h : fits i s v w = true) :
    ∃ x, firing i s = some x ∧ x.fields = v ∧ x.width = w := by
  unfold fits at h
  split at h
  · rename_i x hx
    simp only [Bool.and_eq_true, decide_eq_true_eq, beq_iff_eq] at h
    exact ⟨x, hx, h.1, h.2⟩
  · cases h

theorem meets_data {i : Instr} {s : State} {a : List Lane} (h : fits i s (sl1 a) a.length = true) :
    ∃ x, firing i s = some x ∧ x.dataL a := by
  obtain ⟨x, hx, hf, hw⟩ := fits_some h
  exact ⟨x, hx, dt a, by rw [hf]; rfl, rfl, rfl, hw.symm⟩

theorem meets_pair {i : Instr} {s : State} {a b : List Lane} (hab : b.length = a.length) (h : fits i s (sl2 a b) a.length = true) :
    ∃ x, firing i s = some x ∧ x.dataL a ∧ x.dataR b := by
  obtain ⟨x, hx, hf, hw⟩ := fits_some h
  exact ⟨x, hx, ⟨dt a, by rw [hf]; rfl, rfl, rfl, hw.symm⟩, ⟨dt b, by rw [hf]; rfl, rfl, rfl, hab.trans hw.symm⟩⟩

/-- An instruction of two data operands, or of one and an immediate, well formed and firing. -/
def pairFits (i : FormA → Instr) (f : FormA) : Bool :=
  let v := if f.immf then sl1 [7, 8] else sl2 [7, 8] [2, 3]
  (i f).wf && fits (i f) (placed 2 (i f) v [(3, dt [5, 6])]) v 2

def singleFits (i : FormA → Instr) (f : FormA) : Bool :=
  (i f).wf && fits (i f) (placed 2 (i f) (sl1 [7, 8]) []) (sl1 [7, 8]) 2

/-- IntegerPairsCompute, DivisionComputes, CompareScaleAndClampCompute, FieldsAndFrameOperandsCompute, FloatArithmeticComputes and
FloatSelectionComputes: field R. -/
theorem wit_pairs : ∀ i ∈ pairOps, pairFits i (fa 0) = true ∨ pairFits i (fa 4) = true ∨ pairFits i (fa 8) = true ∨ pairFits i (fa 3) = true := by
  decide +kernel
/-- The same with an immediate: `x.dataB f (immLanes …)`. -/
theorem wit_pairs_imm : ∀ p ∈ ([(.add, fai 0 5), (.mulhi, fai 0 5), (.divn, fai 4 5), (.cmp, fai 0 5), (.bfx, fai 0 0x804), (.fadd, fai 8 0),
    (.shuf, fai 0 1)] : List ((FormA → Instr) × FormA)), pairFits p.1 p.2 = true := by decide +kernel
theorem wit_add : ∃ x, firing (.add (fa 0)) (placed 2 (.add (fa 0)) (sl2 [7, 8] [2, 3]) []) = some x ∧ x.dataL [7, 8] ∧ x.dataR [2, 3] :=
  meets_pair rfl (by decide +kernel)
/-- DivisionComputes: an element of b that is 0; no element that is. -/
theorem wit_division : (bvElems 0 [1, 0]).map BitVec.toNat = [1, 0] ∧ (bvElems 0 [2, 3]).map BitVec.toNat = [2, 3] := by decide +kernel
/-- IntegerSinglesCompute, FloatSelectionComputes, SpecialFunctionsCompute, LanesCompute, ReductionsCompute (an integer and a float type). -/
theorem wit_singles : (∀ i ∈ singleOps, singleFits i (fa 0) = true ∨ singleFits i (fa 4) = true ∨ singleFits i (fa 8) = true) ∧
    singleFits .redadd (fa 8) = true ∧ singleFits .redmax (fa 8) = true ∧ singleFits .redmin (fa 8) = true ∧ singleFits .scanadd (fa 8) = true := by
  decide +kernel
theorem wit_not : ∃ x, firing (.not (fa 0)) (placed 2 (.not (fa 0)) (sl1 [7, 8]) []) = some x ∧ x.dataL [7, 8] := meets_data (by decide +kernel)
/-- An element pair at an even width (`oddPair`), for the 64-bit types. -/
theorem wit_wide : pairFits .add (fa 1) = true ∧ oddPair 1 2 = false ∧ singleFits .neg (fa 1) = true := by decide +kernel
/-- FieldsAndFrameOperandsCompute, FloatArithmeticComputes: `x.dataC 3 [5, 6]`. -/
theorem wit_triples : (∀ i ∈ tripleOps, pairFits i (fas toF5 0 3) = true ∨ pairFits i (fas toF5 8 3) = true) ∧
    ((firing (.mad (fas toF5 0 3)) (placed 2 (.mad (fas toF5 0 3)) (sl2 [7, 8] [2, 3]) [(3, dt [5, 6])])).map fun x => x.a.slotTok 3) =
      some (dt [5, 6]) := by decide +kernel
/-- DotProductsCompute: without and with the lane of a frame slot. -/
theorem wit_dots : pairFits .dot2i (fa 2) = true ∧ pairFits .dot4i (fa 3) = true ∧ pairFits .fdot2 (fa 9) = true ∧ pairFits .fdot4 (fa 11) = true ∧
    pairFits .dot2i (fas toF5 2 19) = true ∧ pairFits .fdot4 (fas toF5 11 19) = true := by decide +kernel

/-- ImmediateTokenIsFilled: each kind, at an even and at an odd width; the words of the first and the third clause. -/
theorem wit_imm : ∀ k ∈ [0, 1, 2, 3], ∀ w ∈ [1, 2], fits (.imm ⟨toF5, BitVec.ofNat 3 k, 9⟩)
    (placed w (.imm ⟨toF5, BitVec.ofNat 3 k, 9⟩) (sl none none none) []) (sl none none none) w = true := by decide +kernel
theorem wit_imm_words : decodeWord 0x40885C0300000009 = .ok (.imm ⟨toF5, 3, 9⟩) ∧ (0x40885C0400000009 : Word).extractLsb' 55 9 = 0x081 ∧
    4 ≤ ((0x40885C0400000009 : Word).extractLsb' 32 3).toNat := ⟨rfl, rfl, by decide⟩

/-- OperandsDecideBeforeExecution: the kinds of L and R, and a data token of another width. -/
def kindFits (i : Instr) (l : Token) (r : Option Token) : Bool := fits i (placed 2 i (sl (some l) r none) []) (sl (some l) r none) 2
def kindToks : List Token := [tk .poison [0, 0], tk .error [3, 0], tk .stop [2, 0], dt [7, 8], dt [7]]

theorem wit_kinds : (∀ l ∈ kindToks, ∀ r ∈ kindToks, kindFits (.add (fa 0)) l (some r) = true) ∧
    (∀ l ∈ kindToks, kindFits (.not (fa 0)) l none = true) := by decide +kernel

def goes (w : Nat) (i : Instr) (v : Slot) : Bool := fits i (placed w i v []) v w

/-- The context in which the instruction fires meets p, which may also look at the state. -/
def sees (i : Instr) (s : State) (p : Ctx → State → Bool) : Bool :=
  match firing i s with
  | some x => p x s
  | none => false

/-- A latched slot that meets p, whether it may fire or not. -/
def latched (s : State) (p : Ctx → State → Bool) : Bool :=
  match ctx? s with
  | some x => p x s
  | none => false

def ready? (i : Instr) (x : Ctx) (s : State) : Bool :=
  match i.opForm with
  | some (o, f) => x.ready s o.toNat f && x.gate s o.toNat f
  | none => false

def anyW : FormA → FormA := fun f => { f with c := { f.c with pm := .onTrue } }
def movP : Instr := .mov (anyW (fa 0))
def stP : Instr := .st { fm none2 .k .b32 with c := { none2 with pm := .onTrue } }
def twaitP : Instr := .twait (anyW (fas none2 0 2))
def brpP : Instr := .brp { fc 1 2 with c := { none2 with pm := .onFalse } }

/-- UnreadySlotChangesNothing: no slot latched; an operand missing; a gate that holds (`ctxa` behind an earlier wave). -/
theorem wit_unready : (ctx? State.reset).isNone = true ∧
    latched (placed 1 (.add (fa 0)) (sl1 [1]) []) (fun x s => !ready? (.add (fa 0)) x s) = true ∧
    latched (placed 1 (.st { fm none2 .k .b32 with sqp := 9 }) (sl2 [0] [1]) [])
      (fun x s => !ready? (.st { fm none2 .k .b32 with sqp := 9 }) x s) = true := by decide +kernel
/-- FalsePredicateNullifies and BadPredicatePasses: an exit, a memory operator, a tile wait and another. -/
theorem wit_predicates : ∀ i ∈ [movP, stP, twaitP], ∀ p ∈ [dt [2], tk .error [3], tk .poison [0]],
    latched (placed 1 i (sl (some (dt [0])) (some (dt [1])) (some p)) [])
      (fun x s => ready? i x s && decide (x.w.skip ≠ some x.slot) && decide (x.fields.p = some p)) = true := by decide +kernel
theorem wit_predicates_exit : latched (placed 1 brpP (sl (some (dt [0])) none (some (dt [1]))) [])
    (fun x s => ready? brpP x s && decide (x.fields.p = some (dt [1]))) = true := by decide +kernel

/-- TokenIntoAWindowField: a slot with its instruction; a field unused, not yet seen, seen. -/
theorem wit_window : latched (placed 1 (.mov (fa 0)) (sl1 [7]) []) (fun x _ => match blockIns x.b 0 with
    | some (o, f) => !usesField o f .r && usesField o f .l && x.fields.seen .l
    | none => false) = true ∧
  latched (placed 1 (.mov (fa 0)) (sl none none none) []) (fun x _ => match blockIns x.b 0 with
    | some (o, f) => usesField o f .l && !x.fields.seen .l
    | none => false) = true := by decide +kernel
/-- TargetsTakeTheirTokens: a first output and a ninth (the header counts eight outputs and four stores), with and without a reply. -/
theorem wit_targets : latched (placed 1 (.mov (fa 0)) (sl1 [7]) []) (fun x s => match x.again s with
    | some y => !y.w.fault && decide (y.w.outputs < blockNout x.b) && decide (y.w.stores < blockNst x.b) && x.a.reply.isNone
    | none => false) = true ∧
  latched ((modWave 0 0 0 fun w => { w with outputs := 8, stores := 4 }).run (placed 1 (.mov (fa 0)) (sl1 [7]) [])) (fun x s =>
    match x.again s with
    | some y => decide (blockNout x.b ≤ y.w.outputs) && decide (blockNst x.b ≤ y.w.stores)
    | none => false) = true ∧
  latched ((modAct 0 0 fun a => { a with reply := some ⟨0, 1, 0, 0, 0, 0, .l⟩ }).run (placed 1 (.mov (fa 0)) (sl1 [7]) []))
    (fun x _ => x.a.reply.isSome) = true := by decide +kernel

/-- LanesCompute, RoutingCompletes, ControlTokensComplete: the instructions that no group lists. -/
def portC (p : Nat) : Common := cc (.port .dynamic (BitVec.ofNat 5 p)) .null

theorem wit_routing : ∀ y ∈ ([(1, .lidx (fa 0), sl none none none), (1, .lcomp (fa 0), sl2 [7] [1]), (1, .mov (fa 0), sl1 [7]),
    (1, .ldf (fas toF5 3 31), sl none none none), (1, .drop (fas none2 0 0), sl1 [7]),
    (1, .drop (fas none2 0 0), sl (some (tk .error [3])) none none), (1, .steer (fa 0), sl (some (tk .stop [2])) (some (dt [1])) none),
    (1, .merge (fa 0), sl (some (tk .stop [2])) (some (dt [1])) none), (1, .gate (fa 0), sl (some (tk .stop [2])) (some (dt [1])) none),
    (1, .send (fas (portC 2) 0 0), sl (some (dt [7])) (some (tk .error [3])) none), (1, .send (fas (portC 2) 0 0), sl (some (dt [7])) (some (tk .poison [0])) none),
    (1, .send (fas (portC 2) 0 0), sl (some (dt [7])) (some (tk .stop [2])) none), (2, .unpack (fa 0), sl1 [7, 8]),
    (1, .pack (fas (portC 2) 0 0), sl2 [7] [8]), (1, .send (fas (portC 2) 0 0), sl2 [7] [0x50003]), (1, .steer (fa 0), sl2 [7] [1]),
    (1, .steer (fa 0), sl2 [7] [0]), (1, .merge (fa 0), sl2 [7] [1]), (1, .gate (fa 0), sl2 [7] [1]), (1, .gate (fa 0), sl2 [7] [0]),
    (1, .eos (fas (portC 2) 0 0), sl1 [7]), (1, .eos (fas (cc (.port .static 1) (.port .dynamic 2)) 0 0), sl1 [7]),
    (1, .stop (fas toF5 0 4), sl1 [7]), (1, .stopc (fa 0), sl1 [0x12]), (1, .stopc (fa 0), sl1 [0x10]),
    (1, .dmd (fas (portC 2) 0 3), sl2 [7] [5]), (1, .dmd (fas (portC 2) 0 3), sl2 [7] [0x10000]), (1, .nop (fas none2 0 0), sl none none none)] :
    List (Nat × Instr × Slot)), goes y.1 y.2.1 y.2.2 = true := by decide +kernel
theorem wit_frame_slot : goes 1 (.ldf (fas toF5 1 2)) (sl none none none) = true ∧ (Instr.ldf (fas toF5 1 2)).wf = true := by decide +kernel
/-- ConversionsComplete: a conversion with a result and one with an error (a signalling pattern), a block format, `dec`, `enc`. -/
theorem wit_conversions : ∀ y ∈ ([(1, .cvt ⟨toF5, 0xF, 8, false, 10⟩, sl1 [0x3C00]), (1, .cvt ⟨toF5, 0xF, 8, false, 10⟩, sl1 [0x7E00]),
    (4, .cvt ⟨toF5, 0xF, 0x0D, false, 8⟩, sl1 [0, 0, 0, 0]), (4, .cvts ⟨toF5, 0xF, 0x0D, false, 8⟩, sl1 [0, 0, 0, 0]),
    (4, .dec (fas toF5 0 0x0D), sl2 [0, 0, 0, 0] [1, 0, 0, 0]), (4, .enc (fas (cc (.frame 5) (.frame 6)) 0 0x0D), sl1 [0, 0, 0, 0])] :
    List (Nat × Instr × Slot)), goes y.1 y.2.1 y.2.2 = true := by decide +kernel

/-- ExitsComplete: each kind of L; a sum at BT1 and above it; `ret` outside a default activation; a first and a second exit. -/
theorem wit_exits : (∀ l ∈ [dt [1], dt [0], tk .stop [1], tk .error [3], tk .poison [0]], ∀ i ∈ [Instr.brp (fc 1 2), .bri (fc 1 2), .ret (fc 0 0)],
      goes 1 i (sl (some l) none none) = true) ∧
    goes 1 (.bri (fc 1 3)) (sl1 [2]) = true ∧ goes 1 (.bri (fc 1 3)) (sl1 [3]) = true ∧ goes 1 (.bro (fc 4 0)) (sl none none none) = true ∧
    goes 1 (.retire (fc 0 0)) (sl none none none) = true := by decide +kernel
theorem wit_exits_again : sees (.ret (fc 0 0)) ((modAct 0 0 fun a => { a with kind := .explicit }).run (placed 1 (.ret (fc 0 0)) (sl1 [1]) []))
      (fun x _ => decide (x.a.kind ≠ .default)) = true ∧
    sees (.bro (fc 4 0)) (placed 1 (.bro (fc 4 0)) (sl none none none) []) (fun x s => match x.again s with
      | some y => y.w.exit.isNone
      | none => false) = true ∧
    latched (after (.bro (fc 4 0)) (placed 1 (.bro (fc 4 0)) (sl none none none) [])) (fun x s => match x.again s with
      | some y => y.w.exit.isSome
      | none => false) = true := by decide +kernel
/-- ContextInstructionsComplete: a frame is free and the lines are granted; no width is granted. -/
theorem wit_contexts : goes 1 (.spawn (fc 0 0)) (sl1 [7]) = true ∧ goes 1 (.ctxf (fas (cc (.frame 5) .null) 0 0)) (sl1 [3]) = true ∧
    goes 1 (.ctxq (fa 0)) (sl1 [0]) = true ∧
    sees (.ctxa (fas toF5 0 3)) (placed 1 (.ctxa (fas toF5 0 3)) (sl1 [7]) []) (fun x s =>
      let u := x.consume.run s
      (u.m.core x.core).freeFrame.isSome &&
        ((ctxWidths 6 4).find? fun g => (u.m.core x.core).grants x.colour (frameLines x.n.info.frame g + windowLines g)).isSome) = true ∧
    sees (.ctxa (fas toF5 0 31)) ((modCore 0 fun k => { k with waiting := [9] }).run
      ((modNode 0 0 fun n => { n with info := { n.info with frame := 127 } }).run (placed 1 (.ctxa (fas toF5 0 31)) (sl1 [7]) []))) (fun x s =>
      let u := x.consume.run s
      (u.m.core x.core).freeFrame.isNone ||
        ((ctxWidths 6 32).find? fun g => (u.m.core x.core).grants x.colour (frameLines x.n.info.frame g + windowLines g)).isNone) = true := by
  decide +kernel

/-! ### Memory, capsules, clusters, the die -/

/-- The firing of a memory operator whose access begins. -/
def reaches (i : Instr) (v : Slot) (sp : Space) (z : Size) (align : Nat) : Bool :=
  sees i (placed 2 i v []) (fun x _ => decide (x.fields = v) && x.width == 2 &&
    (rangeFault sp (addrIn sp x.lanesL 0) x.disp (sizeBytes z x.width)).isNone && x.va sp % align == 0)

/-- AccessesBegin: the last byte of each space, one byte beyond it, an address that is not aligned. -/
theorem wit_access : ∀ y ∈ ([(.k, 2 ^ 16 - 4, true), (.k, 2 ^ 16 - 3, false), (.p, 2 ^ 16 - 4, true), (.p, 2 ^ 16 - 3, false), (.s, 2 ^ 22 - 4, true),
    (.s, 2 ^ 22 - 3, false)] : List (Space × Nat × Bool)), sees (.ld (fm toF5 y.1 .b32)) (placed 2 (.ld (fm toF5 y.1 .b32))
      (sl1 [BitVec.ofNat 32 y.2.1, 0]) []) (fun x _ => (rangeFault y.1 (addrIn y.1 x.lanesL 0) x.disp 4).isNone == y.2.2) = true := by decide +kernel
theorem wit_access_g : (rangeFault .g (2 ^ 48 - 1) 0 4).isNone = true ∧ (rangeFault .g (2 ^ 48) 0 4).isSome = true ∧
    sees (.ld (fm toF5 .k .b32)) (placed 2 (.ld (fm toF5 .k .b32)) (sl1 [0x41, 0]) []) (fun x _ => decide (x.va .k % 4 ≠ 0)) = true := by
  decide +kernel

def lnk : FormM := { fm toF5 .g .b64 with lnk := true }

/-- LoadsComplete: a scalar, a line, dual-scale blocks of both sizes, a chase of pointers, `ldp`. -/
theorem wit_loads : reaches (.ld (fm toF5 .k .b32)) (sl1 [0x41, 0]) .k .b32 1 = true ∧ reaches (.ld (fm toF5 .k .ln)) (sl1 [0x40, 0]) .k .ln 4 = true ∧
    goes 2 (.ld (fm toF5 .k .dsb8)) (sl1 [0x40, 0]) = true ∧ goes 2 (.ld (fm toF5 .k .dsb4)) (sl1 [0x40, 0]) = true ∧
    goes 2 (.ldLnk lnk) (sl2 [0x1000, 0] [3, 0]) = true ∧ reaches (.ldp (fm toF5 .g .b32)) (sl1 [0x40, 0]) .g .b32 4 = true := by decide +kernel

def atomicOps : List (FormM → Instr) := [.aadd, .amin, .amax, .aminn, .amaxn, .aand, .aor, .axor, .aswp, .acas, .afadd]

/-- StoresAndAtomicsComplete: R data, error, stop, poison; L not data; `clr`; the atomics; a line at an aligned address. -/
theorem wit_stores : reaches (.st (fm none2 .k .b16)) (sl2 [0x41, 0] [1, 0]) .k .b16 1 = true ∧
    reaches (.st (fm none2 .k .ln)) (sl2 [0x40, 0] [1, 0]) .k .ln 4 = true ∧
    (∀ r ∈ kindToks, reaches (.st (fm none2 .k .b16)) (sl (some (dt [0x41, 0])) (some r) none) .k .b16 1 = true) ∧
    (∀ l ∈ [tk .stop [1, 0], tk .error [3, 0], tk .poison [0, 0]], goes 2 (.st (fm none2 .k .b16)) (sl (some l) (some (dt [1, 0])) none) = true ∧
      goes 2 (.clr (fm none2 .k .b32)) (sl (some l) none none) = true) ∧
    reaches (.clr (fm none2 .k .b32)) (sl1 [0x40, 0]) .k .b32 1 = true ∧
    (∀ i ∈ atomicOps, reaches (i (fm none2 .k .b32)) (sl2 [0x40, 0] [1, 0]) .k .b32 4 = true) := by decide +kernel

/-- ChannelTableAndFenceComplete: a legal and an illegal control word, a locked entry, both types of `vcget`, a `fence`. -/
def fenceF : FormM := fm none2 .k .b8
theorem wit_channels : (∀ ls ∈ [[0x10D], [7]], goes 1 (.vcset (fas none2 0 1)) (sl1 ls) = true) ∧ vcValueOk 0x10D = true ∧ vcValueOk 7 = false ∧
    sees (.vcset (fas none2 0 1)) ((modCore 0 fun k => { k with vc := [(1, ⟨0, 0, true⟩)] }).run (placed 1 (.vcset (fas none2 0 1)) (sl1 [0x10D]) []))
      (fun x s => (Ctx.entry (x.consume.run s) x 1).locked) = true ∧
    sees (.vcset (fas none2 0 1)) (placed 1 (.vcset (fas none2 0 1)) (sl1 [0x10D]) []) (fun x s => !(Ctx.entry (x.consume.run s) x 1).locked) = true ∧
    goes 1 (.sclset (fas none2 0 1)) (sl1 [1]) = true ∧ goes 4 (.vcget (fas toF5 0 1)) (sl none none none) = true ∧
    goes 4 (.vcget (fas toF5 1 1)) (sl none none none) = true ∧
    sees (.fence fenceF) (placed 1 (.fence fenceF) (sl none none none) []) (fun x _ => decide (x.ins = some (0x134, .m fenceF))) = true := by
  decide +kernel

def cap0 : Capsule := ⟨[BitVec.ofNat 64 (2 ^ 56), BitVec.ofNat 64 (2 ^ 52 + 2 ^ 48 + 2 ^ 59), BitVec.ofNat 64 (15 * 2 ^ 48), BitVec.ofNat 64 (2 ^ 28), 0, 0, 0, 0],
  [0x123], List.replicate 128 7, []⟩
def held0 : Held := ⟨cap0, 0, true, [cap0.set 3 24 4 1]⟩

def capGoes (i : Instr) (v : Slot) : Bool := fits i (placedH 2 i v [] (some held0)) v 2

def capIn : List Instr := [.capnxOperand (fk none2 1 0 0), .cappush (fk none2 0 0 0), .capins (fk none2 0 1 0), .caprepWhole (fk none2 0 0 0),
  .caprepPlace (fk none2 1 0 0)]

/-- CapsuleChangesAreRecorded: without L; data, an error, a poison and a stop in L; `capst` with a chunk. -/
theorem wit_capsule_changes : (∀ i ∈ [Instr.capgo (fk none2 0 0 0), .cappark (fk none2 0 0 3), .capdel (fk none2 0 0 0), .capfork (fk none2 0 0 0),
      .capnxIndex (fk none2 0 0 0)], capGoes i (sl none none none) = true) ∧
    (∀ l ∈ [dt [1, 0], tk .error [3, 0], tk .poison [0, 0], tk .stop [1, 0]],
      (∀ i ∈ capIn, capGoes i (sl (some l) none none) = true) ∧
      capGoes (.capst (fk none2 0 0 0)) (sl (some l) (some (dt [1, 2])) none) = true) := by decide +kernel

/-- CapsuleReadsComplete: with a capsule and without one; chunks below and at the count; a completed join's parts 0 and 1; buffers. -/
theorem wit_capsule_reads : (∀ i ∈ [Instr.caphdWord (fk toF5 0 0 0), .caphdEntry (fk toF5 2 0 0), .caphdArg (fk toF5 4 0 0)],
      capGoes i (sl none none none) = true ∧ goes 2 i (sl none none none) = true) ∧
    (∀ i ∈ [Instr.capld (fk toF5 0 0 0), .capjoin (fk toF5 0 0 0), .capjoin (fk toF5 0 0 1)], ∀ k ∈ [0, 15, 16],
      capGoes i (sl1 [BitVec.ofNat 32 k, 0]) = true ∧ goes 2 i (sl1 [BitVec.ofNat 32 k, 0]) = true) ∧
    cap0.chunks 2 = 16 ∧ held0.joined = true ∧ cap0.pidx = 0 ∧ 1 ≤ cap0.parts ∧ (held0.parts.find? fun c => c.pidx == 1).isSome = true := by
  decide +kernel
theorem wit_capsule_new : (∀ i ∈ [Instr.capnNew (fk toF5 0 0 3), .capnAdopt (fk toF5 1 0 0)],
      sees i (placed 2 i (sl1 [5, 0]) []) (fun x s => x.a.held.isNone && !x.w.buffer && decide (((x.consume.run s).m.core x.core).bufReqs = []) &&
        decide (((x.consume.run s).m.core x.core).buffers.length < 2) && x.fields.r.isNone) = true) ∧
    goes 2 (.capnNew (fk toF5 0 0 256)) (sl2 [5, 0] [9, 0]) = true ∧ capGoes (.capnAdopt (fk toF5 1 0 0)) (sl1 [5, 0]) = true ∧
    sees (.capnAdopt (fk toF5 1 0 0)) ((Act.pkg fun p => { p with parked := [⟨5, 1, some 0, cap0⟩] }).run (placed 2 (.capnAdopt (fk toF5 1 0 0)) (sl1 [5, 0]) []))
      (fun x s => (((x.consume.run s).m.pkg.parked.find? fun p => p.handle == 5).map Parked.colour) == some x.colour) = true := by decide +kernel
/-- CapsuleSlotsAreChunks: chunks whole, and one with a word beyond correction. -/
def struck0 : Capsule := { cap0 with hurt := [15] }
theorem wit_capsule_slots : ({ bareAct 7 0 with kind := .capsule, held := some held0, width := 2 } : Activation).held = some held0 ∧
    cap0.tile.length = cap0.get 1 52 7 * 128 ∧ 15 < cap0.chunks 2 ∧ cap0.chunkHurt 2 15 = false ∧
    struck0.chunkHurt 2 15 = true ∧ struck0.chunkHurt 2 14 = false := by decide +kernel

/-- IntersectionMatches and UnionMerges: ascending lists with and without PAD. -/
theorem wit_fibres : goes 4 (.isect (fas (cc (.frame 5) (.frame 6)) 4 0)) (sl2 [1, 4, 7, 0xFFFFFFFF] [4, 5, 7, 9]) = true ∧
    goes 4 (.union (fas (cc (.frame 5) (.frame 6)) 4 0)) (sl2 [1, 4, 7, 0xFFFFFFFF] [4, 5, 7, 9]) = true ∧
    (coords [1, 4, 7, 0xFFFFFFFF]).Pairwise (fun p q => p.toNat < q.toNat) ∧ (coords [4, 5, 7, 9]).Pairwise (fun p q => p.toNat < q.toNat) := by
  decide +kernel

def tile0 (e : Nat) (i : Instr) (v : Slot) : State := (modCluster 0 fun k => { k with
  tiles := [(3, BitVec.ofNat 32 e)], copies := [(3, BitVec.ofNat 32 e)] }).run (placed 2 i v [])

/-- TagsAndTilesComplete: an address below 2^48 and one at it; a tile in one site and one across two; a free tile, the colour's own
(tile 3, READY, colour 1), another colour's, one that overlaps. -/
theorem wit_tags : (∀ i ∈ [Instr.tlook (fa 0), .tinv (fas none2 0 0)], ∀ ls ∈ [[0xFFFFFFFF, 0xFFFF], [0, 0x10000]], goes 2 i (sl1 ls) = true) ∧
    (∀ ls ∈ [[0xFFFFFFFF, 0xFFFF], [0, 0x10000]], goes 2 (.tins (fas none2 0 0)) (sl2 ls [5, 0]) = true) := by decide +kernel
def mineT (k : ClusterState) (x : Ctx) : Bool := decide (x.colour ≠ 0) && (decide (tileCol (k.copyOf 3) = 0) || decide (tileCol (k.copyOf 3) = x.colour))
def tsets : List Instr := [.tsetEmpty (fas none2 0 0), .tsetReady (fas none2 0 1), .tsetBind (fas none2 0 2), .tsetFree (fas none2 0 3)]
theorem wit_tiles : (∀ i ∈ tsets, sees i (placed 2 i (sl1 [3, 0x00010000]) []) (fun x s =>
      tileInSite 0x00010000 && mineT ((x.consume.run s).m.cluster 0) x && !((x.consume.run s).m.cluster 0).overlaps 3 0x00010000) = true) ∧
    tileInSite 0x000107FF = false ∧
    (∀ i ∈ Instr.twait (fas none2 0 2) :: tsets, sees i (tile0 (tileWord 2 2 1 0).toNat i (sl1 [3, 0x00010000])) (fun x s =>
      !mineT ((x.consume.run s).m.cluster 0) x) = true) ∧
    sees (.twait (fas none2 0 2)) (tile0 (tileWord 2 1 1 0).toNat (.twait (fas none2 0 2)) (sl1 [3, 0])) (fun x s =>
      decide (tileCol (((x.consume.run s).m.cluster 0).copyOf 3) = x.colour)) = true ∧
    sees (.tsetReady (fas none2 0 1)) (tile0 (tileWord 2 1 1 0).toNat (.tsetReady (fas none2 0 1)) (sl1 [4, 0x00010000])) (fun x s =>
      ((x.consume.run s).m.cluster 0).overlaps 4 0x00010000) = true := by decide +kernel

/-- SparseAndBarriersComplete: an index below the entries and one at them; a count of 0; enrolments. -/
theorem wit_barriers : barEntries 0 = 8 ∧ (∀ ls ∈ [[7], [8]], (∀ i ∈ [Instr.bjoin (fas none2 0 0), .barv (fas none2 0 0), .bwait (fas none2 0 0),
      .bleave (fas none2 0 0)], goes 1 i (sl1 ls) = true) ∧ (∀ n ∈ [[0], [4]], goes 1 (.binit (fas none2 0 0)) (sl2 ls n) = true)) ∧
    goes 2 (.spacc (fas toF5 0 8)) (sl2 [5, 6] [3, 0]) = true ∧ goes 2 (.spdr (fas (portC 2) 0 1)) (sl2 [5, 6] [3, 0]) = true ∧
    (∀ e ∈ [[], [⟨0, 7⟩], [⟨0, 1⟩, ⟨0, 2⟩, ⟨0, 3⟩, ⟨0, 4⟩]], sees (.bjoin (fas none2 0 0)) ((modAct 0 0 fun a => { a with enrol := e }).run
      (placed 1 (.bjoin (fas none2 0 0)) (sl1 [7]) [])) (fun x _ => decide (x.a.enrol = e)) = true) := by decide +kernel
/-- A wave whose one commit effect is a `bjoin`: free, enrolled in its entry, enrolled in four. -/
theorem wit_joins : ∀ e ∈ ([([], none), ([⟨0, 7⟩], some (0, Code.barRejoin)), ([⟨0, 1⟩, ⟨0, 2⟩, ⟨0, 3⟩, ⟨0, 4⟩], some (0, Code.barLimit))] :
      List (List Enrolment × Option (Nat × Nat))),
    sees (.bjoin (fas none2 0 0)) ((modAct 0 0 fun a => { a with enrol := e.1 }).run (placed 1 (.bjoin (fas none2 0 0)) (sl1 [7]) [])) (fun x s =>
      let y : Ctx := { x with w := { x.w with acts := [(0, x.barEv 0 7 .join (dt [7]) none)] } }
      decide (y.w.acts = [(0, y.barEv 0 7 .join (dt [7]) none)]) && decide (y.a.kind ≠ .capsule) && decide (y.commitFault s = e.2)) = true := by decide +kernel

/-- A command fires with its parameters from frame slot 4 on. -/
def cmdGoes (i : Instr) (ps : List (List Lane)) (p : List (List Lane) → Bool) : Bool :=
  sees i (placed 2 i (sl1 [0, 0]) ((upFrom ps.length 4).zipWith (fun n l => (n, dt l)) ps)) (fun x _ =>
    (upFrom ps.length 4).all (fun k => !(x.a.slotTok k).isBad && decide ((x.a.slotTok k).kind ≠ .stop)) &&
      p ((upFrom ps.length 4).map fun k => (x.a.slotTok k).lanes))

def xf (var flags : Nat) : FormX := fx none2 var 4 flags
def copyOk (f : FormX) (ps : List (List Lane)) : Bool :=
  let n := param ps 2 0
  !(spaceBreach (srcSpace f) (paramAddr (srcSpace f) ps 0) n).1 && !(spaceBreach (dstSpace f) (paramAddr (dstSpace f) ps 1) n).1

/-- CommandsAreRecorded: copies in each pair of spaces at their ends, gathers and scatters of each element size, tiles, islands. -/
theorem wit_copies : cmdGoes (.cpy (xf 20 0)) [[0x100, 0], [0x200, 0], [64, 0]] (copyOk (xf 20 0)) = true ∧
    cmdGoes (.cpy (xf 10 0)) [[0x3FFFF0, 0], [0x3FFFE0, 0], [16, 0]] (copyOk (xf 10 0)) = true ∧
    cmdGoes (.cpy (xf 0 0)) [[0x100, 0], [0, 0], [64, 0]] (fun ps => copyOk (xf 0 0) ps && decide (paramAddr .k ps 1 ≤ paramAddr .k ps 0)) = true := by
  decide +kernel
theorem wit_gathers : (∀ z ∈ [0, 1, 2, 3, 4], ∀ i ∈ ([.gath, .scat] : List (FormX → Instr)),
    cmdGoes (i (xf 10 (8 + z))) [[0x1000, 0], [0x2000, 0], [0x3000, 0], [3, 0]] (fun ps =>
      bits (param ps 3 0) 24 8 == 0 && !(spaceBreach .s 0x3000 12).1 && !(spaceBreach .s 0x2000 (3 * elemSize z)).1 &&
        !meets 0x2000 (3 * elemSize z) 0x3000 12) = true) := by decide +kernel
theorem wit_commands : cmdGoes (.tfill (xf 16 0)) [[0x80, 0], [3, 0]] (fun ps => paramAddr .g ps 0 % 128 == 0) = true ∧
    cmdGoes (.tdrain (xf 4 32)) [[0x80, 0], [3, 0]] (fun ps => paramAddr .g ps 0 % 128 == 0 && bits (param ps 1 0) 8 24 == 0) = true ∧
    cmdGoes (.mxb (xf 0 0)) [[1, 0], [2, 0], [3, 0]] (fun _ => true) = true ∧ goes 1 (.mxz (fx none2 0 0 0)) (sl1 [0]) = true ∧
    cmdGoes (.mxr (xf 1 0)) [[4, 0]] (fun _ => true) = true ∧ goes 1 (.mxck (fx none2 1 0 0)) (sl1 [0]) = true ∧
    (∀ a ∈ [[0x80, 0], [0x81, 0]], cmdGoes (.sealo (xf 0 0)) [a, [0, 0]] (fun _ => true) = true) ∧
    cmdGoes (.sealc (xf 0 0)) [[0, 0]] (fun _ => true) = true ∧ cmdGoes (.seals (xf 0 0)) [[0, 0]] (fun _ => true) = true := by decide +kernel
theorem wit_fabric_commands : (∀ p ∈ ([(.collAllReduce, 0), (.collReduceScatter, 0), (.collAllGather, 0), (.collBroadcast, 0)] : List ((FormX → Instr) × Nat)),
      ∀ b ∈ [[0x40, 0], [0x41, 0]], cmdGoes (p.1 (xf 0 0)) [[1, 0], [0x100, 0], b, [0x80, 0], [8, 0], [0, 0]] (fun _ => true) = true) ∧
    (∀ v ∈ [33, 34], cmdGoes (.lnkr (xf 0 0)) [[BitVec.ofNat 32 v, 0]] (fun _ => true) = true) ∧
    (∀ v ∈ [15, 16], cmdGoes (.trgen (xf 0 0)) [[BitVec.ofNat 32 v, 0]] (fun _ => true) = true) ∧
    cmdGoes (.collab (xf 1 0)) [[5, 0]] (fun _ => true) = true := by decide +kernel
/-- A parameter that is an error, at the first slot of the block. -/
theorem wit_bad_param : ∀ i ∈ [Instr.mxr (xf 0 0), .sealc (xf 0 0), .seals (xf 0 0), .lnkr (xf 0 0), .trgen (xf 0 0), .collab (xf 0 0)],
    sees i (placed 2 i (sl1 [0, 0]) [(4, tk .error [3, 0])]) (fun x _ => (x.a.slotTok 4).isBad) = true := by decide +kernel

/-- A colour 1 whose area holds two records, and a colour 0 whose area is on the management page. -/
def withAreas (s : State) : State := (Act.pkg fun p => { p with
  colours := [(1, BitVec.ofNat 256 (2 ^ 63 + 2 ^ 64 * (0x1000 + 0))), (2, BitVec.ofNat 256 (2 ^ 63))]
  mgmt := { p.mgmt with c0farea := 0x4000, c0nrec := 2 } }).run s

/-- DieInstructionsComplete. -/
theorem wit_die : goes 1 (.xfence (fas none2 0 3)) (sl1 [0]) = true ∧ goes 1 (.yield (fas none2 0 1)) (sl none none none) = true ∧
    goes 1 (.trap ⟨none2, 0, 0, true, 7⟩) (sl1 [0]) = true ∧ goes 2 (.plook (fa 0)) (sl1 [0x8000, 0]) = true ∧
    goes 1 (.sysr ⟨toF5, 0x009, 0⟩) (sl none none none) = true ∧ goes 1 (.sysr ⟨toF5, 0x002, 0⟩) (sl none none none) = true ∧
    (∀ i ∈ [Instr.syswPinv ⟨none2, 0x102, 0⟩, .syswXinv ⟨none2, 0x103, 0⟩, .syswPreempt ⟨none2, 0x104, 0⟩], ∀ v ∈ [[1, 0], [0xFFFFFFFF, 0]],
      goes 2 i (sl1 v) = true) ∧ syswOk 0x102 [1, 0] = true ∧ syswOk 0x104 [1, 0] = true ∧ syswOk 0x103 [0xFFFFFFFF, 0] = true ∧ syswOk 0x102 [0x210000, 0] = false := by decide +kernel
theorem wit_die_records : (∀ c ∈ [0, 1], sees (.fltr (fas toF5 0 0)) ((modAct 0 0 fun a => { a with colour := BitVec.ofNat 8 c }).run
      (withAreas (placed 2 (.fltr (fas toF5 0 0)) (sl1 [0, 1]) []))) (fun x s => decide (x.colour = 0) == (c == 0) && s.bound 0 &&
        decide (s.recordAddr 0 1 = some (0x4000))) = true) ∧
    (∀ ls ∈ [[0x00410100, 0], [0x00410200, 0]], goes 8 (.resume (fas none2 0 0)) (sl1 (ls ++ [0, 0, 0, 0, 0, 0])) = true) ∧
    goes 8 (.resume (fas none2 0 1)) (sl1 [0x00470100, 0, 0, 0, 0, 0, 0, 0]) = true := by decide +kernel
theorem wit_die_places : sees (.plook (fa 0)) (placed 2 (.plook (fa 0)) (sl1 [0x8000, 0]) []) (fun x s =>
      match s.place (clusterOf x.core) x.colour x.a.cfg 0x8000 with
      | .error _ => true
      | .ok _ => false) = true ∧
    sees (.cntr (fas toF5 0 0)) (placed 2 (.cntr (fas toF5 0 0)) (sl1 [64, 0]) []) (fun x s => (s.cntrIdx x.colour false 64).isNone) = true ∧
    (∀ sub ∈ [0, 2], sees (.cntr (fas toF5 0 sub)) (placed 2 (.cntr (fas toF5 0 sub)) (sl1 [63, 0]) []) (fun x s =>
      (s.cntrIdx x.colour false 63).isSome) = true) := by decide +kernel

/-! ### Queues, packets, the step -/

/-- Colour 0's tables map the first GiB of addresses to HBM; the value v lies at 0x3000, an image header at 0x4000. -/
def paged (v : Nat) : State := (Act.seq [writeBytes 0x1000 (leBytes 8 0x2001), writeBytes 0x2000 (leBytes 8 (0x3F * 2 ^ 58 + 2 ^ 56 + 3)),
  writeBytes 0x3000 (leBytes 4 v), writeBytes 0x4000 (leBytes 8 (0x5A434946 * 2 ^ 32 + 2 ^ 16) ++ leBytes 8 0 ++ leBytes 8 128),
  .pkg fun p => { p with mgmt := { p.mgmt with c0root := 0x1000 } }]).run State.reset

/-- Queue 5, mapped, of colour c, with g of its state. -/
def queued (v : Nat) (c : Colour) (g : QState → QState) : State :=
  let s := paged v
  { s with m := { s.m with
      cur := ⟨0, 0, 0, 0, 5⟩
      pkg := { s.m.pkg with queues := [(5, g { QState.fresh ⟨c, 0, 0, 0x100, 0, qMapped, 0, [0, 0, 0, 0], 0, 0⟩ 0 with mapped := true })] } } }

def depth (n loop : Nat) (x : QState) : QState := { x with desc := { x.desc with ibd := n, lpcnt := loop } }

/-- The packet is well formed and its queue, in s, is mapped and meets p. -/
def packetOn (i : Instr) (s : State) (p : QState → Bool) : Bool :=
  i.wf && (match s.queue? s.m.cur.queue with
    | some x => x.mapped && p x
    | none => false)

def wordIs (r : HoistRead) (v : Lane) : Bool :=
  match r with
  | .word w => w == v
  | _ => false
def isBadRead (r : HoistRead) : Bool :=
  match r with
  | .bad => true
  | _ => false

/-- PacketsOfFlowComplete: segments, depths 0, 1, 3 and 4, loops of 0, 1 and 2, a condition that holds and one that fails, an ERR word. -/
theorem wit_flow_packets : (∀ n ∈ [0, 1, 3, 4], packetOn (.pkIb (pk 0 [0x3000, 0])) (queued 0 0 (depth n 0)) (fun x => x.desc.ibd == n) = true ∧
      packetOn (.pkIbend (pk 0 [])) (queued 0 0 (depth n 0)) (fun _ => true) = true) ∧
    (∀ n ∈ [0, 1, 2], packetOn (.pkLoopOpen (pk 2 [])) (queued 0 0 (depth 0 n)) (fun x => x.desc.lpcnt == n) = true ∧
      packetOn (.pkLoopClose (pk 0 [])) (queued 0 0 (depth 0 n)) (fun _ => true) = true) ∧
    packetOn (.pkNop (pk 0 [])) (queued 0 0 id) (fun _ => true) = true ∧ packetOn (.pkFfence (pk 0 [])) (queued 0 0 id) (fun _ => true) = true ∧
    segmentOk 0x80000001 = true ∧ segmentOk 1 = false := by decide +kernel
theorem wit_read_packets : (∀ v ∈ [(0x80000001 : Nat), 1], packetOn (.pkLink (pk 0 [0x3000, 0])) (queued v 0 id) (fun x =>
      wordIs (hoistRead (queued v 0 id) 5 x 0x3000 true) (BitVec.ofNat 32 v)) = true) ∧
    (∀ v ∈ [7, 8], ∀ df ∈ [0, 8], ∀ i ∈ [Instr.pkPred (pk (256 + df) [0x3000, 0, 7]), .pkWait (pk df [0x3000, 0, 7])],
      packetOn i (queued v 0 id) (fun x => wordIs (hoistRead (queued v 0 id) 5 x 0x3000 (df == 8)) (BitVec.ofNat 32 v) &&
        packetHolds (pk df [0x3000, 0, 7]) (BitVec.ofNat 32 v) == (v == 7) && decide (x.polled ≠ some 0)) = true) ∧
    (∀ i ∈ [Instr.pkPred (pk 256 [0x3000, 0, 7]), .pkWait (pk 0 [0x3000, 0, 7])], packetOn i (queued 7 0 fun x => { x with answer := some (.err 3) })
      (fun x => isBadRead (hoistRead (queued 7 0 id) 5 x 0x3000 false)) = true) := by decide +kernel

def maskAll : BitVec 256 := BitVec.allOnes 256
def entry0 (quota : Nat) : EntryState := ⟨⟨0, .dynamic, .chan 0 0 0, maskAll, (upFrom 4 0).map fun i => (i, quota), false, 0⟩, [], false⟩
def conf0 (ph : CfgPhase) : ConfState := { ConfState.bid (QState.fresh ⟨0, 0, 0, 0, 0, 0, 0, [], 0, 0⟩ 0) 5 0x4000 0 (List.replicate 16 0) with
  phase := ph, nent := 1, entries := [entry0 1], waitsCfg := false, launched := true, slabs := [0] }

/-- Queue 5 with configuration f under handle 7. -/
def confQ (f : ConfState) (g : QState → QState) : State := (Act.pkg fun p => { p with confs := [(32 * 4096 + 7, f)] }).run (queued 0 0 g)
def confOn (i : Instr) (f : ConfState) (g : QState → QState) (c : State → Bool) : Bool :=
  packetOn i (confQ f g) (fun x => decide ((confQ f g).conf? (x.cfgNo (pk 7 [])) = some f)) && c (confQ f g)

def seedP (w0 : Nat) : Packet := pk 7 [BitVec.ofNat 32 w0, 9]
def fateIs (e : EntryState) (p : Packet) (s : State) (n : Nat) : Bool :=
  match s.seedFate e (seedTok p 0) with
  | .enters => n == 0
  | .waits => n == 1
  | .fault _ => n == 2

/-- No home that the packets need is out of reach; one of the other package is, while its seam is down. -/
theorem wit_reach : (queued 0 0 id).vaAway (QState.fresh ⟨0, 0, 0, 0x100, 0, qMapped, 0, [0, 0, 0, 0], 0, 0⟩ 0) 0x4000
      ((queued 0 0 id).imageSpan 0 0x4000) = false ∧ (queued 0 0 id).away 0 0x3000 = false ∧
    ((Act.pkg fun p => { p with seams := upFrom 10 0 }).run (queued 0 0 id)).away 0 (bankAddr 7000 0) = true := by decide +kernel
/-- PacketsOfConfigurationsComplete: a free handle and an image that passes its checks or fails them; a load that goes on and one that
has ended; launched or not; a seed that enters, waits and faults. -/
theorem wit_cfg_packets : packetOn (.pkCfg (pk 7 [0x4000, 0])) (queued 0 0 id) (fun x => ((queued 0 0 id).conf? (x.cfgNo (pk 7 []))).isNone &&
      (match (queued 0 0 id).cfgCheck 5 x 0x4000 with
        | .ok _ => true
        | .error _ => false)) = true ∧
    packetOn (.pkCfg (pk 7 [0x5000, 0])) (queued 0 0 id) (fun x => match (queued 0 0 id).cfgCheck 5 x 0x5000 with
        | .ok _ => false
        | .error c => c == Code.cfgBadop) = true ∧
    (∀ ph ∈ [CfgPhase.bidding, .loading, .resident], confOn (.pkCfg (pk 7 [0x4000, 0])) { conf0 ph with waitsCfg := true } id (fun _ => true) = true) ∧
    (∀ b ∈ [true, false], confOn (.pkLaunch (pk 7 [])) { conf0 .resident with launched := b } id (fun _ => true) = true) ∧
    (∀ fl ∈ [7, 0x1007], confOn (.pkTeardown (pk fl [])) (conf0 .resident) id (fun _ => true) = true) := by decide +kernel
theorem wit_seeds : (∀ p ∈ ([(1, 1, 0), (0, 1, 1)] : List (Nat × Nat × Nat)),
      confOn (.pkSeed (seedP p.2.1)) { conf0 .resident with entries := [entry0 p.1] } id (fun s => fateIs (entry0 p.1) (seedP p.2.1) s p.2.2) = true) ∧
    (Instr.pkSeed (seedP 1)).wf = true ∧ seedKindOk (seedKind (seedP 1)) = true ∧ seedPort (seedP 1) = 0 ∧
    fateIs { entry0 1 with rcd := { (entry0 1).rcd with mask := 0 } } (seedP 1) (confQ (conf0 .resident) id) 2 = true := by decide +kernel
/-- `pk.write`, `pk.signal`, `pk.pri`, `pk.colour`, `pk.pin` and `pk.unpin`. -/
theorem wit_setting_packets : packetOn (.pkWrite (pk 0 [0x3000, 0, 9])) (queued 0 0 id) (fun x => match (queued 0 0 id).xlate x.desc.col classH true 0x3000 with
        | .ok (h, m) => ((queued 0 0 id).engineRefusal h 4 m).isNone
        | .error _ => false) = true ∧
    packetOn (.pkSignal (pk 3 [1])) (queued 0 0 id) (fun _ => true) = true ∧
    packetOn (.pkSignal (pk 3 [1])) ((Act.pkg fun p => { p with hostReady := false }).run (queued 0 0 id)) (fun _ => true) = true ∧
    packetOn (.pkPri (pk 7 [])) (queued 0 0 id) (fun _ => true) = true ∧
    (∀ c ∈ [0, 1], packetOn (.pkColour (pk 1 [0, 0, 0, 0, 0, 0, 0, 0])) (queued 0 c id) (fun x => decide (x.desc.col = c)) = true) ∧
    colourEntryOk (entryWords (pk 1 [0, 0, 0, 0, 0, 0, 0, 0])) = true ∧ (queued 0 0 id).colourUsed 1 = false ∧
    ((Act.pkg fun p => { p with colours := [(1, 2 ^ 63)], parked := [⟨1, 1, some 0, cap0⟩] }).run (queued 0 0 id)).colourUsed 1 = true := by decide +kernel
theorem wit_pins : packetOn (.pkPin (pk 0 [0, 0, 1])) (queued 0 0 id) (fun _ => match leaves_ (queued 0 0 id) 0 true [0] with
      | .ok _ => true
      | .error _ => false) = true ∧
    packetOn (.pkUnpin (pk 0 [0, 0, 1])) ((writeBytes 0x2000 (leBytes 8 (0x3F * 2 ^ 58 + 2 ^ 56 + 2 ^ 55 + 3))).run (queued 0 0 id))
      (fun _ => match leaves_ ((writeBytes 0x2000 (leBytes 8 (0x3F * 2 ^ 58 + 2 ^ 56 + 2 ^ 55 + 3))).run (queued 0 0 id)) 0 false [0] with
        | .ok _ => true
        | .error _ => false) = true := by decide +kernel
/-- DrainedConfigurations: drained and not; `pk.write` with DRAIN, a teardown of this queue's that has begun. -/
theorem wit_drained : (conf0 .resident).drained = true ∧ { conf0 .resident with entered := [1] }.drained = false ∧
    (∀ f ∈ [conf0 .resident, { conf0 .resident with entered := [1] }], confOn (.pkWrite (pk 0x2007 [0x3000, 0, 9])) f id (fun _ => true) = true ∧
      confOn (.pkTeardown (pk 7 [])) { f with tearer := some (5, false) } id (fun _ => true) = true) ∧
    confOn (.pkTeardown (pk 7 [])) { conf0 .saved with tearer := some (5, false) } id (fun _ => true) = true := by decide +kernel

/-- StepRunsTheInstruction and StepAnswersANextState: an issue, an event, a packet, an empty agenda, an item that names no event. -/
theorem wit_step_issue : (match (State.reset.withFetchWord 64 0x3000C41000000000).m.agenda with
    | [.issue c m] => match pick { State.reset.withFetchWord 64 0x3000C41000000000 with m := { (State.reset.withFetchWord 64 0x3000C41000000000).m with agenda := [] } } c m with
      | some r => decide ((issued (State.reset.withFetchWord 64 0x3000C41000000000) c m r).fetchWord = some 0x3000C41000000000)
      | none => false
    | _ => false) = true := by decide +kernel
theorem wit_step_packet : (match (State.reset.withFetchWord 32 0x0D000005).m.agenda with
    | [.packet q] => match (State.reset.withFetchWord 32 0x0D000005).queue? q with
      | some x => x.mapped && decide ((State.reset.withFetchWord 32 0x0D000005).turn x.desc.die = some q) && decide (x.passOver = none) &&
          (match x.packetAt with
            | .ready ws => ws == [0x0D000005]
            | _ => false)
      | none => false
    | _ => false) = true := by decide +kernel
/-- A packet that a `pk.pred` steps over, whose words lie within the segment; a word to fetch ahead. -/
theorem wit_step_over : (let x : QState := { QState.fresh ⟨0, 0, 0, 0x100, 0, qMapped, 0, [0, 0, 0, 0], 0, 0⟩ 0 with
      mapped := true, segEnd := 0x200, passOver := some (2, 0x104), fetched := [(0x104, 0x0D000005)] }
    let s : State := (Act.pkg fun p => { p with queues := [(5, x)] }).run (paged 0)
    s.queue? 5 = some x ∧ s.turn x.desc.die = some 5 ∧ fetchedWord x.fetched 0x104 = some 0x0D000005 ∧ x.beyond 0x104 = false ∧
      x.beyond (0x104 + 4 * bits 0x0D000005 16 8) = false ∧ x.ahead = some 0x100) := by decide +kernel
/-- A slot whose word, or whose block's header, is damaged: corrected, and beyond correction. -/
theorem wit_step_ecc : ∀ h ∈ [(0, 0, false), (0, 32, true)], latched ((modNode 0 0 fun n => { n with hurt := [h] }).run
    (placed 1 (.mov (fa 0)) (sl1 [7]) [])) (fun x s => decide (x.codeErrors = [h.2.2]) && s.fetchWord.isSome) = true := by decide +kernel
theorem wit_step_stopped : (let s : State := (Act.pkg fun p => { p with stopped := [0] }).run (queued 0 0 id)
    (s.queue? 5).map fun x => s.m.pkg.stopped.contains x.desc.die) = some true := by decide +kernel
theorem wit_step_event : isEvent .powerOn = true ∧ isEvent (.add (fa 0)) = false ∧ State.reset.m.agenda = [] := by decide +kernel
/-- StepKeepsTheTables and WrittenBytesAreRead: a state with bytes and presence bits in canonical form. -/
theorem wit_tables : Memory.wf (queued 0 0 id).mem = true ∧ Tab.wf Pres.full ((clearWords 0x3000 8).run (queued 0 0 id)).pres = true ∧
    ((clearWords 0x3000 8).run (queued 0 0 id)).pres ≠ [] := by decide +kernel
/-- BlockInstructionsWriteNoMemory: a store that fires and numbers no record. -/
theorem wit_no_memory : (after (.st (fm none2 .k .b32)) (placed 2 (.st (fm none2 .k .b32)) (sl2 [0x40, 0] [1, 0]) [])).m.pkg.faultNum = [] ∧
    (Instr.st (fm none2 .k .b32)).opForm.isSome = true := by decide +kernel

/-! ### Events at homes, of tokens and of waves -/

theorem wit_die_place_ok : sees (.plook (fa 0)) ((Act.pkg fun p => { p with confs := [(7, conf0 .resident)] }).run (placed 2 (.plook (fa 0)) (sl1 [0x8000, 0]) []))
    (fun x s => match s.place (clusterOf x.core) x.colour x.a.cfg 0x8000 with
      | .ok _ => true
      | .error _ => false) = true := by decide +kernel

/-- Messages in flight, on their way to unit u. -/
def mail (u : Nat) (bs : List Body) (s : State) : State := { s with m := { s.m with net := bs.map fun b => ⟨0, u, .q0, b, none⟩ } }

/-- Message 0 is there and s meets p once it is taken. -/
def taken (s : State) (p : State → Bool) : Bool := (s.m.msg? 0).isSome && p ((takeMsg 0).run s)

def w0 : Who := ⟨3, 0, 0, 0, 0, 1, 0⟩
def req (a n : Nat) (m : PageMode) (k : ReqKind) : Req := ⟨.task w0, 1, 0, a, n, m, k, [], false, 7, false, .g, a, false⟩

/-- A request of that kind at its home, in a state that g makes. -/
def atHome (r : Req) (g : Act) (p : State → Bool) : Bool :=
  let u := unitOf r.addr
  let s := mail u [.req r] (g.run State.reset)
  Memory.wf s.mem && Tab.wf Pres.full s.pres && !(isCxlUnit u && s.m.pkg.cxlDown.contains (u - 41000)) &&
    taken s fun t => (!isSliceUnit u || (((t.m.cluster ((u - 20000) / 16)).blocker r).isNone && !(t.m.cluster ((u - 20000) / 16)).behind u r.who.unit &&
      !t.refusedBehind u (some r.who.unit))) && p t

def emptyAt (a n : Nat) : Act := clearWords a n
/-- A word damaged beyond correction. -/
def hurtAt (a : Nat) : Act := .pkg fun p => { p with damage := [(a / 4, true)] }
def fullPool (u : Nat) : Act := setPool u ((upFrom (poolSize u) 0).map fun i => ⟨i, req 0 4 .wo .load, 0⟩)
def B0 : Nat := bankAddr 0 0x100

/-- HomeEventsComplete, loads: a page that keeps no presence, a region, a write-once page with and without a value, a full pool. -/
theorem wit_home_loads : atHome (req 0x3000 8 .plain .load) .quiet (fun t => t.presenceOf 0x3000 .plain == .none) = true ∧
    atHome (req B0 8 .region .load) .quiet (fun t => t.presenceOf B0 .region == .plain) = true ∧
    atHome (req (sliceAddr 0 0x100) 8 .region .load) .quiet (fun t => t.presenceOf (sliceAddr 0 0x100) .region == .plain) = true ∧
    atHome (req 0x3000 8 .wo .load) .quiet (fun t => t.presenceOf 0x3000 .wo == .wo && (t.missing 0x3000 8).isNone) = true ∧
    atHome (req B0 8 .wo .load) (emptyAt B0 8) (fun t => (t.missing B0 8).isSome && (freeEntry (t.pool 0) (poolSize 0)).isSome) = true ∧
    atHome (req B0 8 .wo .load) ((emptyAt B0 8).andThen (fullPool 0)) (fun t => (t.missing B0 8).isSome && (freeEntry (t.pool 0) (poolSize 0)).isNone) = true ∧
    atHome (req B0 4 .region .ldp) .quiet (fun _ => true) = true ∧
    (∀ m ∈ [PageMode.region, .wo], atHome (req B0 8 m .load) (hurtAt B0) (fun t => t.damaged B0 8) = true) ∧
    atHome { req B0 8 .wo .load with who := .streamer 3 } (hurtAt B0) (fun t => t.damaged B0 8 && (Party.streamer 3).byWord) = true := by decide +kernel
/-- Stores, clears, atomics: plain, write-once and refused, write-once and not; an ERR word. -/
theorem wit_home_stores : atHome (req B0 4 .region (.store (.bytes [1, 2, 3, 4]))) .quiet (fun t => t.presenceOf B0 .region != .wo) = true ∧
    atHome (req B0 4 .wo (.store (.bytes [1, 2, 3, 4]))) .quiet (fun t => (t.woRefuses B0 4).isSome) = true ∧
    atHome (req B0 4 .wo (.store (.bytes [1, 2, 3, 4]))) (emptyAt B0 4) (fun t => (t.woRefuses B0 4).isNone) = true ∧
    atHome (req B0 4 .region (.store (.err 3))) .quiet (fun _ => true) = true ∧ atHome (req B0 4 .region .clr) .quiet (fun _ => true) = true := by decide +kernel
theorem wit_home_atomics : atHome (req 0x3000 4 .plain (.atomic .add [1])) .quiet (fun t => t.presenceOf 0x3000 .plain == .none) = true ∧
    atHome (req B0 4 .region (.atomic .add [1])) .quiet (fun t => t.presenceOf B0 .region == .plain && (t.errWord B0 4).isNone) = true ∧
    atHome (req B0 4 .region (.atomic .add [1])) (setPres [B0 / 4] .err) (fun t => (t.errWord B0 4).isSome) = true ∧
    atHome (req B0 4 .region (.atomic .add [1])) (hurtAt B0) (fun t => t.damaged B0 4) = true ∧
    atHome (req B0 4 .wo (.atomic .add [1])) .quiet (fun _ => true) = true := by decide +kernel
/-- Reservations granted and refused, the replay of a refused load, two packets that merge. -/
theorem wit_home_rest : atHome (req B0 4 .wo (.reserve .store)) (emptyAt B0 4) (fun t => (t.woRefuses B0 4).isNone && !t.reserved [B0 / 4]) = true ∧
    atHome (req B0 4 .wo (.reserve .store)) .quiet (fun t => (t.woRefuses B0 4).isSome) = true ∧
    atHome (req B0 4 .wo (.reserve .atomic)) (emptyAt B0 4) (fun _ => true) = true ∧
    (∀ h ∈ [PortHeld.req (req B0 4 .wo .load) none, .tile ⟨w0, 0, 3, .setEmpty⟩], let s := (Act.pkg fun p => { p with refused := [(0, h)] }).run State.reset
     (s.m.pkg.refused.find? fun x => x.1 = s.m.at_.k) = some (0, h) ∧ (h.pools == decide (h ≠ .tile ⟨w0, 0, 3, .setEmpty⟩)) = true ∧ (freeEntry (s.pool 0) (poolSize 0)).isSome = true ∧
       (s.m.cluster ((0 - 20000) / 16)).holding 0 < 64) ∧
    (merged (req (sliceAddr 0 0) 4 .region (.atomic .add [1])) (req (sliceAddr 0 0) 4 .region (.atomic .add [2]))).isSome = true ∧
    remoteHome 0 (sliceAddr 0 0) = true := by decide +kernel
theorem wit_merge : (let r := req (sliceAddr 0 0) 4 .region (.atomic .add [1])
    let s := mail 20000 [.req r, .req r] State.reset
    { s with m := { s.m with at_ := { s.m.at_ with k := 1 } } }.m.at_.j < 1 ∧ (s.m.net[0]?).isSome = true ∧
      (s.m.net[1]?).any (fun y => s.m.joins 0 1 y) = true) ∧
    (let s := mail 0 [.req (req B0 4 .region .load)] State.reset; s.mayHear 0 (req B0 4 .region .load)) = true := by decide +kernel

/-- A node 0 of core 0 with an input channel 5 (entry port 2), no waves, and its default activation in frame 0. -/
def nodeN (g : NodeState → NodeState) : Act := .mod fun m =>
  let n := nodeOf 1 (.mov (fa 0))
  { m with cores := [(0, { CoreState.zero with
      nodes := [(0, g { n with info := { n.info with ins := [⟨5, 2, .dynamic, false⟩] } })]
      acts := [(0, { actOf 1 (sl none none none) [] none with waves := [], next := .block 0 })], occupants := [1], nextUid := 1 })] }

def chanTok (k : Kind) (ahead : Option Nat) : Body := .tok (.chan 0 0 5) (tk k [7]) ahead
def noded (g : NodeState → NodeState) (bs : List Body) : State := mail 0 bs ((nodeN g).run State.reset)

/-- TokenEventsComplete: a data token at an open channel with its lines granted, at a closed one, behind a spilled one; tags, replies
and sends; EOS and wedge in order and early; demands. -/
theorem wit_tokens : taken (noded id [chanTok .data none]) (fun t => match t.m.node? 0 0, (t.m.core 0).defaultOf 0 1 with
      | some n, some _ => t.takes 0 && !n.past (t.m.core 0) 0 1 && !(n.chan 5 1).closed && !inlineScale (t.m.core 0) 2 && !(t.m.core 0).spilt (.chan 0 5 (dt [7]) none) &&
          (t.m.core 0).grants 1 1 && !(t.m.core 0).bindsNow n 0 5 1
      | _, _ => false) = true ∧
    taken (noded (fun n => n.setChan 5 1 { ChanState.zero with closed := true }) [chanTok .data none]) (fun t => match t.m.node? 0 0 with
      | some n => (n.chan 5 1).closed && !n.past (t.m.core 0) 0 1
      | none => false) = true ∧
    taken ((modCore 0 fun k => { k with spill := [.chan 0 5 (dt [8]) none] }).run (noded id [chanTok .data none])) (fun t =>
      (t.m.core 0).spilt (.chan 0 5 (dt [7]) none)) = true ∧
    (∀ k ∈ [Kind.eos, .wedge], ∀ a ∈ [none, some 0, some 1], taken (noded id [chanTok k a]) (fun t => match t.m.node? 0 0 with
      | some n => (n.chan 5 1).arrived == 0
      | none => false) = true) := by decide +kernel
theorem wit_other_tokens : ∀ b ∈ [Body.tag 0 (dt [7]), .reply ⟨0, 1, 0, 0, 0, 0, .l⟩ (dt [7]), .sent 0 0 (dt [7]), .demand 0 0 2 1 5, .demandEntry 7 0 1 5],
    taken (noded id [b]) (fun t => t.takes 0 && !t.savedReply ⟨0, 1, 0, 0, 0, 0, .l⟩) = true := by decide +kernel
/-- A held wedge and a held EOS, due and early; a node whose colours are wedged; spilled items whose lines are granted. -/
theorem wit_held_tokens : (∀ k ∈ [Kind.eos, .wedge], ∀ a ∈ [0, 1],
      let s := { (noded (fun n => n.setChan 5 1 { ChanState.zero with held := [(tk k [0], a)] }) []) with }
      let t : State := { s with m := { s.m with at_ := { s.m.at_ with k := 5 * 256 + 1 } } }
      ((t.m.node? 0 0).map fun n => (n.chan 5 1).held) = some [(tk k [0], a)]) ∧
    (let s := (Act.pkg fun p => { p with confs := [(7, { conf0 .wedging with vdev := 0 })] }).run (noded (fun n => { n with wedges := [0], info := { n.info with ins := [] } }) [])
     ((s.m.node? 0 0).map fun n => !n.frozen && (s.confColours n.cfg).all n.wedgedIn) = some true ∧
       (tget? s.m.pkg.confs 7).map ConfState.phase = some .wedging ∧ s.nodeIdle 0 0 = true) ∧
    (∀ i ∈ [Spilled.tag (dt [7]), .reply ⟨0, 1, 0, 0, 0, 0, .l⟩ (dt [7]), .sent 0 (dt [7]), .chan 0 5 (dt [7]) none, .answer ⟨0, 0, 0, 0, 0, 1, 0⟩ 0 .ack],
      let s := (modCore 0 fun k => { k with spill := [i] }).run (noded id [])
      s.m.at_.k = 0 ∧ ((s.m.core 0).defaultOf 0 1).isSome = true ∧       (s.m.core 0).evicted = [] ∧ ((s.m.core 0).occupy i.colour).grants i.colour 1 = true) := by decide +kernel

/-! ### Waves, units, elements -/

def atK (f : At → At) (s : State) : State := { s with m := { s.m with at_ := f s.m.at_ } }

/-- The wave of a `bro` that has fired, its block's header counting n outputs. -/
def fired (n : Nat) (acts : List (Nat × CAct)) : State :=
  (modWave 0 0 0 fun w => { w with acts := acts }).run (after (.bro (fc 4 0)) ((modNode 0 0 fun x => { x with
    blocks := [(0, ⟨BitVec.ofNat 64 (n * 2 ^ 47), 0, [(encodeWord (.bro (fc 4 0))).getD 0]⟩)] }).run (placed 1 (.bro (fc 4 0)) (sl none none none) [])))

/-- WaveEventsComplete: a window may be allocated; a wave that commits without a breach and with one; a wave to withdraw; a piece to
issue; a node that closes; a creation with and without a frame's room; the head of the admission order, an eviction; answers. -/
theorem wit_windows : (let s := noded id [];
    (s.m.act? 0 0).map fun a => mayAllocate s 0 a && decide (a.next = .block 0)) = some true := by decide +kernel
theorem wit_commits : latched (fired 0 []) (fun x s => x.commits s && (x.commitFault s).isNone) = true ∧
    latched (fired 0 [(0, .cap .go)]) (fun x s => x.commits s && (x.commitFault s).isSome) = true ∧
    ((fired 0 []).m.act? 0 0).map (fun a => a.waves.map Wave.idx) = some [0] := by decide +kernel
def idle : State := (modNode 0 0 fun n => ({ n with info := { n.info with ins := [⟨5, 2, .dynamic, false⟩] } }).setChan 5 1
  { ChanState.zero with closed := true }).run ((modWave 0 0 0 fun w => { w with outside := false }).run (placed 1 (.mov (fa 0)) (sl none none none) []))
theorem wit_withdraw : (match idle.m.act? 0 0, idle.m.node? 0 0 with
    | some a, some n => match a.waves with
      | w :: _ => n.info.ins != [] && n.channelsClosed a.colour && w.framed && a.unacked == 0 && a.answers == [] &&
          !w.outside && !w.fault && w.pend == [] && tgetD 0 a.owed w.idx == 0
      | [] => false
    | _, _ => false) = true ∧
    (let s := (modWave 0 0 0 fun w => { w with outside := true }).run ((modNode 0 0 fun n => ({ n with info := { n.info with ins := [⟨5, 2, .dynamic, false⟩] } }).setChan 5 1
        { ChanState.zero with closed := true }).run (placed 1 (.steer (fa 0)) (sl1 [7]) []))
     match s.m.act? 0 0, s.m.node? 0 0, ctxAt s 0 0 0 0 with
     | some a, some n, some x => n.info.ins != [] && n.channelsClosed a.colour && a.waves.head?.any (fun w => w.framed && a.holds w) && a.unacked == 0 && a.answers == [] &&
         (Ctx.leftover s x).isSome
     | _, _, _ => false) = true ∧
    ((pendAt ((modWave 0 0 0 fun w => { w with pend := [⟨0, .ldp, dt [7], .k, 0, [(0, 4)], [], [], [], none, .issue⟩] }).run
      (placed 1 (.ldp (fm toF5 .k .b32)) (sl none none none) [])) ⟨0, 0, 0, 0, 0, 1, 0⟩).map fun y => y.2.stage) = some .issue := by decide +kernel
theorem wit_eos : (let s := atK (fun a => { a with colour := 1 }) ((Act.mod fun m => { m with cores := m.cores.map fun (i, k) => (i, { k with
      acts := k.acts.map fun (f, a) => (f, { a with next := .ended }) }) }).run (noded (fun n => n.setChan 5 1 { ChanState.zero with closed := true }) []));
    (s.m.node? 0 0).map fun n => !n.eosDone.getLsbD 1 && !n.frozen && n.info.colours.getLsbD 1 && s.issues n.cfg && s.closed 0 0 n 1) = some true := by
  decide +kernel
def spawn0 : Creation := ⟨0, 0, 0, 1, dt [7], 9, none⟩
theorem wit_spawn : taken (noded id [.spawn spawn0]) (fun t => let k := (t.m.core 0).occupy 1;
      decide ((t.m.core 0).creations = []) && (k.nodes.find? fun (_, n) => n.info.handle.toNat == 0).isSome && k.freeFrame.isSome &&
        k.grants 1 (frameLines 128 1)) = true ∧
    taken ((modCore 0 fun k => { k with waiting := [9] }).run (noded id [.spawn spawn0])) (fun t =>
      !((t.m.core 0).occupy 1).grants 1 (frameLines 128 1)) = true := by decide +kernel
theorem wit_admission : (let k := ((modCore 0 fun k => { k with waiting := [9] }).run (noded id [])).m.core 0;
      k.waiting = [9] ∧ k.admits 9 = true) ∧
    (let k := ((modCore 0 fun k => { k with waiting := [9] }).run ((modAct 0 0 fun a => { a with tagged := List.replicate 2048 (none, dt [7]) }).run
        (noded (fun n => { n with info := { n.info with width := 32 } }) []))).m.core 0;
      k.admits 9 = false ∧ k.present = [1]) := by decide +kernel
theorem wit_answers : (∀ p ∈ [Party.task ⟨0, 0, 0, 0, 0, 1, 0⟩, .streamer 3, .island 2], taken (noded id [.ans ⟨p, 0, .ack⟩]) (fun _ => true) = true) ∧
    taken (noded id [.ans ⟨.task ⟨0, 0, 0, 0, 0, 1, 0⟩, 0, .ack⟩]) (fun t => match t.m.actOf? ⟨0, 0, 0, 0, 0, 1, 0⟩ with
      | some a => (a.wave? 0).isNone && a.answers == []
      | none => false) = true := by decide +kernel

def tileE (op : TileOp) : TileEv := ⟨⟨0, 0, 0, 0, 0, 1, 0⟩, 0, 3, op⟩
def tiled (st : Nat) (bs : List Body) : State := mail 20000 bs ((modCluster 0 fun k => { k with
  tiles := [(3, tileWord st 1 1 0)], copies := [(3, tileWord st 1 1 0)] }).run State.reset)

/-- UnitEventsComplete: capsules, tile events that apply and do not, the tag unit with a hit in way 2. -/
theorem wit_tile_events : (∀ p ∈ ([(.resident, false), (.settling, true)] : List (CfgPhase × Bool)), taken (mail 0 [.capsule 0 7 cap0]
      ((Act.pkg fun p' => { p' with confs := [(7, conf0 p.1)] }).run State.reset)) (fun t => t.takes 0 && (t.keepsCapsules 0 == p.2)) = true) ∧
    (∀ op ∈ [TileOp.spacc false [1, 2], .setEmpty, .drain 0], taken (tiled 2 [.tile (tileE op)]) (fun t =>
      op.applies (tileSt ((t.m.cluster 0).tile 3)) && ((t.m.cluster 0).held == [])) = true) ∧
    (∀ op ∈ [TileOp.setFree, .fill 0, .setBind 0x10000], taken (tiled 2 [.tile (tileE op)]) (fun t =>
      !op.applies (tileSt ((t.m.cluster 0).tile 3))) = true) := by decide +kernel
/-- A fill by the tile's own colour and by another, of a streamer that there is; a port that holds 64 accesses. -/
theorem wit_tile_fills : (∀ c ∈ [1, 2], let e : TileEv := ⟨⟨0, 0, 0, 0, 0, BitVec.ofNat 8 c, 0⟩, 0, 3, .fill 4⟩
    let y : StreamCmd := ⟨4, ⟨e.who, 7, 1, dt [7], none, .tfill .g 0 3⟩, 0, 1, 0, 0, [], [], 0, 2, true, true, false, none, false, false, false⟩
    taken ((Act.pkg fun p => { p with streams := [y] }).run (tiled 0 [.tile e])) (fun t => (e.ofStreamer.bind t.stream?).isSome && decide (e.who.colour ≠ 0) &&
      (decide (tileCol ((t.m.cluster 0).tile 3) = e.who.colour) == (c == 1)) && e.op.applies (tileSt ((t.m.cluster 0).tile 3)) &&
      decide ((PortHeld.tile e).issuer = none)) = true) ∧
    taken ((modCluster 0 fun k => { k with held := List.replicate 64 (20000, .tile (tileE .setEmpty)) }).run (tiled 2 [.tile (tileE .setFree)])) (fun t =>
      decide (64 ≤ (t.m.cluster 0).holding 20000) && !(tileE .setFree).op.applies (tileSt ((t.m.cluster 0).tile 3))) = true ∧
    taken ((Act.pkg fun p => { p with refused := [(20000, .tile (tileE .setEmpty))] }).run (tiled 2 [.tile (tileE .setFree)])) (fun t =>
      t.refusedBehind 20000 (PortHeld.tile (tileE .setFree)).issuer) = true := by decide +kernel
def tagged : State := mail (tagUnit 0) [.tagEv ⟨⟨0, 0, 0, 0, 0, 1, 0⟩, 0, .look 0x80, false⟩] ((modCluster 0 fun k => { k with
  tags := [(tagSet 1 0x80 * 4 + 2, BitVec.ofNat 64 (2 ^ 63 + 2 ^ 55 + glnOf 0x80 * 2 ^ 14 + 5))] }).run State.reset)
theorem wit_tag_event : taken tagged (fun t => let k := t.m.cluster 0; let s := tagSet 1 0x80
    tagV (k.way s 2) && decide (tagCol (k.way s 2) = 1) && tagGln (k.way s 2) == glnOf 0x80 && !tagV (k.way s 0) && !tagV (k.way s 1) && decide (k.tagHurt = [])) = true := by
  decide +kernel

def isl0 (g : IslandState → IslandState) : Act := .pkg fun p => { p with islands := [(2, g (IslandState.zero 7 (0, 0) [] 4 0x0A))] }
def islanded (g : IslandState → IslandState) (bs : List Body) : State := mail (islandUnit 2) bs ((isl0 g).run State.reset)
def mxCmd (k : CmdKind) : Cmd := ⟨⟨0, 0, 0, 0, 0, 1, 0⟩, 7, 1, dt [7], none, k⟩
theorem wit_islands : (∀ k ∈ [Kind.data, .stop, .eos], taken (islanded (fun i => { i with owner := some 1 }) [.tok (.island 2 0) (tk k [7]) none]) (fun t =>
      match t.island? 2 with
      | some i => !i.frozen && t.issues i.cfg && decide (i.owner = some 1) && decide (i.held = []) && !isBlockFmt i.fmt.toNat && decide (i.inbox = []) &&
          !i.stuck && decide (i.waiting = none) && decide (i.waitingOn 0 < 4) && !t.halted i.node.1
      | none => false) = true) ∧
    (∀ k ∈ [CmdKind.mxz, .mxck false, .mxr true 0], let s := atK (fun a => { a with id := 2 }) (islanded (fun i => { i with owner := some 1, inbox := [.cmd (mxCmd k)] }) []);
      s.m.net = [] ∧ (s.island? 2).map (fun i => !i.frozen && !i.stuck && decide (i.waiting = none) && s.issues i.cfg && !s.halted i.node.1 && decide (i.owner = some 1) && decide (0 ≤ i.rowCount)) = some true) := by
  decide +kernel

def landed : Held := ⟨cap0, 7, false, []⟩
/-- A free buffer for a capsule that landed, and for a `capn` that waits. -/
theorem wit_buffers : (let k := ((modCore 0 fun k => { k with bufReqs := [.land landed] }).run (noded id [])).m.core 0;
      nextBufReq k = some (.land landed) ∧ k.buffers.length < 2 ∧ k.freeFrame.isSome = true ∧
        (k.nodes.find? fun (_, n) => n.info.handle.toNat == entryHandle (landed.cap.entry landed.cap.cur)).isSome = true) := by decide +kernel
theorem wit_buffer_fire : (let i := Instr.capnNew (fk toF5 0 0 3)
    let s := (modCore 0 fun k => { k with bufReqs := [.fire 0 0 0 0 1] }).run ((modWave 0 0 0 fun w => { w with
      pend := [⟨0, .buffer, dt [7], .k, 0, [], [], [], [], none, .home⟩] }).run (placed 1 i (sl none none none) []));
    nextBufReq (s.m.core 0) = some (.fire 0 0 0 0 1) ∧ (s.m.core 0).buffers.length < 2 ∧
      ((pendAt s ⟨0, 0, 0, 0, 0, 1, 0⟩).bind fun y => y.1.ins) = some (0x100, .k (fk toF5 0 0 3)) ∧
      ((pendAt s ⟨0, 0, 0, 0, 0, 1, 0⟩).map fun y => y.1.a.held.isNone && !y.1.w.buffer) = some true) := by decide +kernel

def str0 (k : CmdKind) (g : StreamCmd → StreamCmd) : StreamCmd := g ⟨4, mxCmd k, 0, 1, 0, 0, [], [], 0, 2, true, true, false, none, false, false, false⟩
def streamed (st : Nat) (y : StreamCmd) : State := atK (fun a => { a with id := 4, tile := 3 }) ((Act.pkg fun p => { p with streams := [y] }).run (tiled st []))
theorem wit_streams : (let y := str0 (.tfill .g 0 3) fun c => { c with written := true };
      (streamed 1 y).streamOn 0 3 = some y ∧ tileSt (((streamed 1 y).m.cluster 0).tile 3) = 1) ∧
    (let y := str0 (.tdrain .g 0 3 true) fun c => { c with reads := 256 };
      (streamed 3 y).streamOn 0 3 = some y ∧ tileSt (((streamed 3 y).m.cluster 0).tile 3) = 3 ∧ y.extent ≠ 0 ∧ 128 * y.extent ≤ y.reads) ∧
    (let y := str0 (.cpy .g .g 0x3000 0x4000 8) id;
      (streamed 0 y).streamPick (islandOf y.cmd.who.core) = some y ∧ y.tile? = none ∧ (streamed 0 y).stream? 4 = some y) ∧
    (let y := str0 (.cpy .g .g 0x3000 0x4000 8) fun c => { c with written := true };
      (streamed 0 y).streamHead y = true ∧ (y.tile? = none ∨ y.tileDone = true) ∧ (streamed 0 y).halted y.cmd.who.core = false) := by decide +kernel

/-- Link tables of two packages joined by one link. -/
def copy0 (g id : Nat) (peer : Nat) : LltCopy := ⟨g, BitVec.ofNat 12 id, lltEntry 2 4 peer 0 :: List.replicate 33 0⟩
def twoPkgs : Tab LltCopy := [(1, copy0 3 1 2), (2, copy0 3 2 1)]
def barEv0 (scope : Nat) (op : BarOp) : BarEv := ⟨⟨0, 0, 0, 0, 0, 1, 0⟩, scope, 3, op, dt [7], none⟩
def bar0 (exp arr pnd : Nat) : BarState := ⟨1, 1, exp, 2, pnd, arr, 0, [(0, 0, 0), (1, 0, 1)], [], [], [], [], []⟩
def barred (b : BarState) (e : BarEv) : State := mail 0 [.bar e] ((Act.pkg fun p => { p with bars := [(barKey e.scope e.who.core e.idx, b)] }).run State.reset)
theorem wit_barrier_events : (∀ b ∈ [bar0 2 1 1, bar0 2 0 2], taken (barred b (barEv0 0 .arrive)) (fun t =>
      let c := t.barrier (barKey 0 0 3);
      decide (c = b) && decide (c.colour = 1) && c.units.contains (0, 0, 0) && decide (c.exp ≤ c.enr) && decide (0 < c.pnd) && decide (c.exp ≤ c.arr + c.pnd)) = true) ∧
    taken (barred (bar0 2 1 1) (barEv0 4 .arrive)) (fun t => t.fbReady) = true ∧
    (∀ k ∈ [1, 2], taken ((Act.fab fun f => { f with pkg := BitVec.ofNat 12 k, agreed := some (3, twoPkgs) }).run (barred (bar0 2 1 1) (barEv0 4 .arrive)))
      (fun t => !t.fbReady) = true) := by decide +kernel

/-- ElementTokensComplete. -/
def elem0 (k : ElemKind) (g : ElemState → ElemState) : ElemState := g (ElemState.zero 7 ⟨6, 0, k, [], none, []⟩)
def elemS (e : ElemState) (bs : List Body) : State := atK (fun a => { a with id := 6 }) (mail (elemUnit 6) bs
  ((Act.pkg fun p => { p with elems := [(6, e)] }).run (tiled 2 [])))
def elemTaken (e : ElemState) (u : Token) (p : State → Bool) : Bool :=
  let s := elemS e [.tok (.elem 6 0) u none]
  taken s p && (match s.m.net[0]?, s.elem? 6 with
    | some x, some y => decide (y = e) && !y.frozen && s.issues y.cfg && s.m.inOrder 0 x && !s.halted y.rcd.core
    | _, _ => false)
/-- A word of an `rmw` that adds 32-bit naturals to a table of words from offset 0 up to index 3. -/
def rmwW : BitVec 64 := BitVec.ofNat 64 (4 * 2 ^ 55 + 3 * 2 ^ 27)
theorem wit_elements : elemTaken (elem0 (.rmw rmwW) id) (dt [3, 1]) (fun t => !t.damaged (bankAddr 0 12) 4 && (t.presAt (bankAddr 0 12) != .err) &&
      (match rmwNew (bits rmwW.toNat 60 4) (bits rmwW.toNat 55 5) (BitVec.ofNat 32 (t.nat (bankAddr 0 12) 4)) 1 with
        | .ok _ => decide ((3 : Nat) ≤ bits rmwW.toNat 27 14)
        | .error _ => false)) = true ∧
    ((hurtAt (bankAddr 0 12)).run State.reset).damaged (bankAddr 0 12) 4 = true ∧
    (∀ q ∈ [[], [(0, dt [1, 2])]], elemTaken (elem0 (.cturn (BitVec.ofNat 32 (2 ^ 27 + 2 ^ 22))) fun e => { e with queue := q }) (dt [3, 4]) (fun _ => true) = true) ∧
    (∀ q ∈ [[], [(0, dt [1])]], elemTaken (elem0 (.reorder (BitVec.ofNat 64 (2 ^ 58))) fun e => { e with queue := q }) (dt [3]) (fun _ => true) = true) ∧
    elemTaken (elem0 (.spacc (BitVec.ofNat 32 (3 * 2 ^ 24))) id) (dt [1, 2]) (fun t => tileSt ((t.m.cluster 0).tile 3) == 2 &&
      decide (tileCol ((t.m.cluster 0).copyOf 3) = 1) &&
      !t.refusedBehind 20000 (some (elemUnit 6)) && !(t.m.cluster 0).behind 20000 (elemUnit 6)) = true := by decide +kernel
theorem wit_voters : (∀ q ∈ [[], [(1, dt [3])]], elemTaken (elem0 .voter fun e => { e with queue := q }) (dt [3]) (fun _ => true) = true) ∧
    (let e := elem0 .voter fun e => { e with queue := [(0, dt [3]), (1, dt [4])] };
     (elemS e []).elem? 6 = some e ∧ (elemS e []).halted e.rcd.core = false ∧ (e.queue.find? fun x => 2 ≤ (e.queue.filter fun y => y.2.colour == x.2.colour && y.2.seq == x.2.seq).length) =
       some (0, dt [3])) := by decide +kernel
theorem wit_seal_element : (let y : Session := ⟨0, 0, 0, 7, 6, 1, 0, false, 0, 0, [], 0, 0, 0, false, 0, 0, .opened, [], [], [], ⟨0, 0, 0, 0, 0, 1, 0⟩, 0⟩;
    taken ((Act.pkg fun p => { p with sessions := [y] }).run (elemS (elem0 (.seal 0) id) [.tok (.elem 6 0) (dt [7]) none])) (fun t => t.session? 6 1 == some y)) =
      true := by decide +kernel
/-- Two fibres with equal heads, with the lower on the left, on the right. -/
def fibreOk (k : ElemKind) (c d : Lane) : Bool :=
  let e := elem0 k fun e => { e with queue := [(0, dt [c, 9]), (1, dt [d, 8])] }
  match ((elemAbsorb 6 64).run (elemS e [])).elem? 6 with
  | some f => decide (f = e) && (f.queue.find? fun x => fibreReady f x.2.colour) == some (0, dt [c, 9]) && f.of 0 1 == [dt [c, 9]] && f.of 1 1 == [dt [d, 8]]
  | none => false
theorem wit_fibre_elements : (fibreOk .isect 4 4 && fibreOk .isect 4 5 && fibreOk .isect 5 4 && fibreOk .union 4 4 && fibreOk .union 4 5 &&
    fibreOk .union 5 4) = true := by decide +kernel

/-! ### Configurations, the package, the fabric -/

/-- Configuration 7 in s, with its image at 0x4000 of colour 0's space, and g of everything else. -/
def confS (f : ConfState) (g : Act) (bs : List Body) : State :=
  mail 0 bs (g.run ((Act.pkg fun p => { p with confs := [(7, f)] }).run (queued 0 0 id)))

def retireBlock : Block := ⟨BitVec.ofNat 64 0, 0, [(encodeWord (.retire (fc 0 0))).getD 0]⟩
def nodeRec0 : NodeRec := ⟨0, 1, 4, 1, BitVec.allOnes 256, none, [], [], none, false, none⟩
def goodRecs : List Rec := [.node 0 nodeRec0, .block 0 0 retireBlock]
def badRecs : List Rec := [.node 0 nodeRec0, .block 0 0 { retireBlock with words := [(encodeWord (.mov (fa 0))).getD 0] }]

def netRecs : List Rec := [.node 0 { nodeRec0 with outs := [⟨.dynamic, 0, [.exit 0 3], false, 0⟩] }, .block 0 0 retireBlock]

/-- The bytes of a section with one node and one block at site 0: their records' headers and words, and the end. -/
def sectionBytes (b : Block) : List Byte := leBytes 4 (2 ^ 26 + 8) ++ List.replicate 32 0xFF ++ leBytes 4 (2 * 2 ^ 26 + 4) ++ wordBytes [b.h0, b.h1] ++ leBytes 4 (3 * 2 ^ 26 + 2) ++
  wordBytes b.words ++ leBytes 4 0
def imaged (bs : List Byte) : Act := writeBytes 0x5000 bs
def loading0 : ConfState := { conf0 .loading with imageLen := 0x1048 }
def afterWave (f : ConfState) (g : Act) (recs : List Rec) : State := (Act.seq [plainSites 0, Act.each recs (install 7 (sitesOf f.slabs) (f.place 0) 0),
  modConf 7 fun f => { f with image := f.image ++ [(0, recs)] }]).run (confS f g [])

/-- The section of slab 0 reads with p. -/
def readsAs (f : ConfState) (g : Act) (p : Except ImageEnd (List RawRec) → Bool) : Bool :=
  let s := confS f g []
  !s.rejected 7 && !s.halted (slabSite 0 0) && !((s.queue? f.queue).any fun x => s.vaAway { x with desc := { x.desc with col := s.confColour f } } f.imageVa f.imageLen) &&
    decide (f.feeder (f.place 0) = none) && !f.image.any (fun x => x.1 == 0) && p (s.confSection (s.confColour f) f (f.place 0))
def agrees (recs : List Rec) : Except ImageEnd (List RawRec) → Bool
  | .ok raw => recsAgree raw recs
  | .error _ => false
def endsAs (e : ImageEnd) : Except ImageEnd (List RawRec) → Bool
  | .ok _ => false
  | .error x => x == e

/-- ConfigurationEventsComplete: a section that has no translation, one that passes the image's end, records that are not its bytes. -/
theorem wit_config_read : readsAs { loading0 with imageVa := 2 ^ 40 } .quiet (endsAs .xlate) = true ∧
    readsAs { loading0 with imageLen := 4 } .quiet (endsAs .past) = true := by decide +kernel
theorem wit_config_read_other : readsAs loading0 (imaged (sectionBytes retireBlock)) (fun r => !agrees [] r && (match r with
      | .ok raw => rawBad raw == none
      | .error _ => false)) = true := by decide +kernel
theorem wit_config_read_bad : readsAs loading0 (imaged (leBytes 4 (3 * 2 ^ 26 + 2) ++ wordBytes retireBlock.words ++ leBytes 4 0)) (fun r => match r with
      | .ok raw => rawBad raw == some 0
      | .error _ => false) = true := by decide +kernel
def lastRecs : List (Bool × Bool × List Rec) := [(true, true, goodRecs), (true, false, netRecs), (false, false, badRecs)]
def blockOf (recs : List Rec) : Block := (blocksAt recs 0).headD retireBlock
/-- The section of one slab, which is the last of its image, reads as its records, which break no rule of a section. -/
def readsRight (f : ConfState) (recs : List Rec) : Bool := readsAs f (imaged (sectionBytes (blockOf recs))) (agrees recs)
theorem wit_config_wave : ∀ y ∈ lastRecs, (confS loading0 .quiet []).sectionBad loading0 0 y.2.2 = none := by decide +kernel
theorem wit_config_wave_good : readsRight loading0 goodRecs = true := by decide +kernel
theorem wit_config_wave_net : readsRight loading0 netRecs = true := by decide +kernel
theorem wit_config_wave_bad : readsRight loading0 badRecs = true := by decide +kernel
/-- An image that breaks no rule, one with an edge to an exit that there is not, one whose block breaks a rule of its slab. -/
theorem wit_config_wave_ends : ∀ y ∈ lastRecs, let t := afterWave loading0 .quiet y.2.2
    (t.conf? 7).map ConfState.configured = some true ∧ (t.slabBad 7 0).isNone = y.1 ∧ (t.cfgBad 7).isNone = y.2.1 ∧ t.elemsOk 7 = true := by decide +kernel
/-- A section that is not the last of its image; one with a record of no kind. -/
theorem wit_config_wave_more : (let f : ConfState := { loading0 with slabs := [0, 1], w := 2 }
    readsRight f goodRecs = true ∧ ((afterWave f .quiet goodRecs).conf? 7).map ConfState.configured = some false ∧
      ((afterWave f .quiet goodRecs).slabBad 7 0).isNone = true) := by decide +kernel
theorem wit_config_wave_kind : readsAs loading0 (imaged (leBytes 4 (0x3F * 2 ^ 26) ++ leBytes 4 0)) (agrees [.other 0x3F 0]) = true ∧
    ((confS loading0 .quiet []).sectionBad loading0 0 [.other 0x3F 0]).isSome = true := by decide +kernel
theorem wit_partial : (let s := (Act.pkg fun p => { p with confs := [(7, conf0 .resident)] }).run (noded (fun n => { n with admitting := false }) []);
    let recs : List Rec := [.block 0 0 retireBlock];
    match s.m.node? 0 0, s.conf? 7 with
    | some n, some f =>
      let m := n.rewritten (sitesOf f.slabs) recs
      let e : Env := ⟨s.withNode 0 0 m recs, n.cfg, 0, m, false⟩
      n.cfg == 7 && !n.admitting && (s.m.core 0).acts.all (fun y => y.2.node != 0 || y.2.frozen || y.2.waves.all fun w => w.restarts n) && (partialBad f 0 n recs).isNone &&
        (s.m.core 0).holdsBlocks 0 m && e.bad.isNone
    | _, _ => false) = true ∧ ((noded (fun n => { n with admitting := true }) []).m.node? 0 0).map NodeState.admitting = some true := by decide +kernel
theorem wit_seed_enter : (let s := atK (fun a => { a with queue := 5 }) (confQ (conf0 .resident) fun x => { x with fetched := [(0x100, 0x04020007), (0x104, 1), (0x108, 9)] })
    match s.nextPacket 5 with
    | .ok (.pkSeed p, _) => p == seedP 1
    | _ => false) = true := by decide +kernel

def withExit (f : ConfState) : ConfState := { f with exits := [⟨⟨3, 0, .dynamic, [], some 0⟩, [], []⟩] }
/-- Tokens at an exit port: data, EOS and poison; a seed asked for again. -/
theorem wit_exits_of_conf : (∀ k ∈ [Kind.data, .eos, .poison], let s := confS (withExit (conf0 .resident)) .quiet [.tok (.exit 7 3) (tk k [7]) none]
      taken s (fun _ => (s.conf? 7).map (fun f => (f.exits.find? fun z => z.rcd.port == 3).map fun y => y.rcd.credited) == some (some (some 0))) = true) ∧
    (let e : EntryState := { entry0 4 with colours := [(1, ⟨1, 1, 0, false, [⟨9, dt [7], 1⟩], [], 1⟩)] }
     taken (confS { conf0 .resident with entries := [e] } .quiet [.reinject 7 0 1 9]) (fun t => match (t.conf? 7).bind fun f => f.entry? 0 with
       | some e => !e.gated && !e.rcd.gated && ((e.colour 1).kept.find? fun z => z.seq == 9 && z.again < 2).isSome
       | none => false)) = true := by decide +kernel
/-- A walk; the invalidations, pinned, forced, and with no old access; a queue's answer, mapped and blocked. -/
theorem wit_walks : (let s := (Act.pkg fun p => { p with walks := [⟨0, 0, 3, []⟩] }).run State.reset;
      (s.walking s.m.at_.die)[s.m.at_.k]? = some ⟨0, 0, 3, []⟩) ∧
    (let s := (Act.pkg fun p => { p with sysPending := [(0x102, [0x200000, 0], dt [0], none, 0)] }).run State.reset;
      s.sysAt 0 0x102 = some ([0x200000, 0], dt [0], none, 0) ∧ s.placed 32 (fun p => p < 2 ^ 15) = false) := by decide +kernel
def pinS (pin : Nat) : State := (Act.pkg fun p => { p with sysPending := [(0x103, [0, 3, 1], dt [0], none, 0)] }).run
  ((writeBytes 0x2000 (leBytes 8 (0x3F * 2 ^ 58 + 2 ^ 56 + pin * 2 ^ 55 + 3))).run (paged 0))
/-- The request names all pages from 3 on, and asks that none be pinned, or does not (bit 8). -/
theorem wit_pinned : ((0 : Nat).testBit 8 = false ∧ (256 : Nat).testBit 8 = true) ∧ ((pinS 0).sysAt 0 0x103 == some ([0, 3, 1], dt [0], none, 0) && !(pinS 0).translated 0 (fun p => p == 3) && !(pinS 0).pinnedIn 0 3 1 && (pinS 1).pinnedIn 0 3 1) = true := by
  decide +kernel
theorem wit_unblock : (∀ b ∈ [true, false], let s := atK (fun a => { a with queue := 5 }) (mail 50005 [.ans ⟨.queue 5, 0, .ack⟩]
      ((writeBytes (64 * 5 + 8) (leBytes 8 (3 * 2 ^ 58))).run (queued 0 0 fun x => { x with parked := true, mapped := b, blocked := !b })))
    taken s (fun t => (s.queue? 5).map (fun x => x.parked && x.mapped == b && x.blocked == !b) == some true && (t.readDesc 5).st != qIdle) = true) := by
  decide +kernel

def saved0 (ph : CfgPhase) : ConfState := { conf0 ph with save := some (Save.blank (conf0 ph)), imageLen := 4, image := [(0, goodRecs)] }
/-- Each phase with what its event asks for. -/
theorem wit_phases : (∀ ph ∈ [CfgPhase.loading, .restoring], ((confS (saved0 ph) .quiet []).conf? 7).map ConfState.configured = some true ∧
      (match (confS (saved0 ph) .quiet []).vaBytes ((confS (saved0 ph) .quiet []).confColour (saved0 ph)) 0x4000 4 with
        | .ok _ => true
        | .error _ => false) = true) ∧
    (∀ k ∈ [0, 1], let f : ConfState := { saved0 .loading with slabs := [0, 1], w := 2, image := [(0, goodRecs), (1, [])], done := if k = 0 then [1] else [] }
      f.streaming = true ∧ f.configured = true ∧ (confS f .quiet []).rejected 7 = false ∧ f.slabs.contains k = true ∧ f.done.contains k = false ∧ f.place k = k ∧
        (∀ i < f.slabs.length, f.feeder i = some k → f.done.contains (f.slabs.getD i 0) = true) ∧ (f.feeder 1 = some 0)) ∧
    ({ conf0 .gating with entries := [{ entry0 1 with gated := true }] }.entries.all fun e => e.gated) = true ∧
    (confS (conf0 .wedging) .quiet []).allFrozen 7 = true ∧ (confS (saved0 .settling) .quiet []).settled 7 (saved0 .settling) = true ∧
    ((((withdraw 7).run (confS (saved0 .settling) .quiet [])).conf? 7).bind ConfState.save).isSome = true ∧
    (saved0 .restored).save.isSome = true := by decide +kernel

/-- PackageEventsComplete: READY and not; forms of 4 and 128 bytes and of 3; words reserved, empty, full and deferring. -/
def readyS (g : Act) : State := g.run ((Act.pkg fun p => { p with mgmt := { p.mgmt with phase := 1 } }).run State.reset)
theorem wit_host : hostForm hbmSize 0 4 = true ∧ hostForm hbmSize (hbmSize - 128) 128 = true ∧ hostForm hbmSize (hbmSize - 64) 128 = false ∧
    hostForm (2 ^ 34) 0 4 = true ∧ hostForm hbmSize 0 3 = false ∧ (readyS .quiet).m.pkg.mgmt.phase = 1 ∧ State.reset.m.pkg.mgmt.phase = 0 ∧
    (readyS .quiet).reserved (wordsOf 0x3000 4) = false ∧
    (readyS (.pkg fun p => { p with resvs := [⟨.task w0, 0xC00, 1⟩] })).reserved (wordsOf 0x3000 4) = true ∧
    (readyS (setPres [0xC00] .defer)).presAt 0x3000 = .defer ∧ (readyS (setPres [0xC00] .empty)).presAt 0x3000 = .empty := by decide +kernel
theorem wit_management : (∀ b ∈ [true, false], (queued 0 0 fun x => { x with mapped := b, blocked := false }).m.pkg.queues.any (fun y => y.2.mapped || y.2.blocked) = b) ∧
    (let s := (writeBytes (0x8000 + 64 * 9 + 8) (leBytes 8 (2 ^ 58))).run (readyS (.pkg fun p => { p with mgmt := { p.mgmt with qtab := 0x8000 } }));
      s.m.pkg.mgmt.qtab ≠ 0 ∧ s.queue? 9 = none ∧ (s.readDesc 9).st = qWaiting) ∧
    (State.reset.m.pkg.mgmt.qtab = 0) ∧ (readyS .quiet).vdevInUse 0 = false ∧
    (readyS (.pkg fun p => { p with confs := [(7, { conf0 .resident with vdev := 0 })] })).vdevInUse 0 = true := by decide +kernel
theorem wit_vdev : (let s := readyS (.pkg fun p => { p with mgmt := { p.mgmt with vdent := [2 ^ 63, 0, 0x9000, 0] }, savedBanks := [0x9000] });
      s.m.at_.j = 0 ∧ s.m.pkg.mgmt.vdcmd ≠ 1 ∧ (s.m.pkg.mgmt.vdent.getD 0 0).getLsbD 63 = true ∧ s.m.pkg.savedBanks.contains 0x9000 = true ∧ bits (s.vdevWord 0 0) 63 1 = 0) ∧
    (let s := readyS (.pkg fun p => { p with vdevs := [(0, 2 ^ 63)] });
      bits (s.vdevWord 0 0) 63 1 = 1 ∧ s.m.pkg.savedBanks.contains 0 = false) := by decide +kernel
theorem wit_links : (readyS .quiet).m.pkg.cxlDown.contains 0 = false ∧ (readyS .quiet).m.pkg.stopped.contains 0 = false := by decide +kernel

/-- A beat with the given trip behind two others that lie at the end of the same track. -/
def onTrack (t : Trip) : State := { State.reset with m := { State.reset.m with
  net := ([⟨3, some (8, 0), []⟩, ⟨4, some (8, 0), []⟩, t] : List Trip).map fun u => ⟨0, 0, .st, .tag 0 (dt [7]), some u⟩ } }
theorem wit_hops : (∀ p ∈ ([(⟨5, none, [(9, 0)]⟩, true), (⟨5, none, [(8, 0)]⟩, false)] : List (Trip × Bool)),
    ((onTrack p.1).m.net[2]?.map fun x => (onTrack p.1).m.mayHop 2 x) = some p.2) := by decide +kernel
/-- HopChecksTheTag: a token whose check bits hold; flips of one bit of each part. -/
theorem wit_hop : (let s := mail 0 [.tag 0 (dt [7])] State.reset
    let bad (f : BitVec 64) : Bool × Bool := tagChecks ((dt [7]).tag ^^^ f).toNat
    (s.m.net[s.m.at_.k]?.bind fun x => x.body.token?) = some (dt [7]) ∧ s.m.net.all (fun x => s.m.mayHop 0 x) = true ∧ bad 0 = (true, true) ∧ bad 4 = (true, false) ∧ bad (2 ^ 40) = (false, true)) := by
  decide +kernel

/-- FabricEventsComplete: copies older, as new and absent; acknowledgements; a collective in each state; two packages and one. -/
def coll0 (g : Coll → Coll) : Coll := g ⟨0, mxCmd (.coll 0 0 0 false [[0x3000, 0], [0x4000, 0], [0x5000, 0], [0x6000, 0], [8], [5]]), 1, 5, true, true, true, true, false,
  true, false, false, false, 3, [1], 1, [], [], [], [(0, 0)], [0], [], [], [], 0, 0, none⟩
def fabS (self : Nat) (t : Option (Nat × Tab LltCopy)) (cs : List Coll) : State := (Act.fab fun f => { f with
  pkg := BitVec.ofNat 12 self, agreed := t, gen := 3, copies := twoPkgs, colls := cs }).run State.reset
def msg0 (g : Nat) : CollMsg := ⟨1, 5, g, 0, 0, false, 0, 0, [1, 2], 0, 8⟩
theorem wit_tables_of_links : (∀ g ∈ [4, 3], (tget? (fabS 1 none []).m.fab.copies 2).map (fun x => decide (x.gen < g)) = some (g == 4)) ∧
    (fabS 1 (some (3, twoPkgs)) []).agreedTable.1 = 3 ∧ (fabS 1 (some (3, twoPkgs)) []).fabRoot = 1 ∧ (fabS 2 (some (3, twoPkgs)) []).fabRoot ≠ (fabS 2 (some (3, twoPkgs)) []).fabSelf ∧
    ((fabS 1 (some (3, twoPkgs)) []).fabTrees[0]?.map Tree.root) = some 1 ∧ (fabS 1 none []).m.fab.gen = 3 := by decide +kernel
theorem wit_collectives : (let s := fabS 1 (some (3, twoPkgs)) [coll0 id];
      s.collKey 1 5 = some (coll0 id) ∧ (msg0 3).gen = s.agreedTable.1 ∧ (coll0 id).deal.contains (0, 0) = true ∧ (coll0 id).sent.contains 0 = true ∧
        (coll0 id).wrote.contains 0 = false ∧ (coll0 id).marked 0 = false ∧ s.collHas (msg0 3) = some (coll0 id) ∧
        s.fabSelf ∈ (msg0 3).group ∧ (∀ g ∈ [2, 4], (msg0 g).gen ≠ s.fabGen)) ∧
    (let c := coll0 fun c => { c with wrote := [0], acks := [(0, 1)] };
     c.wrote.contains 0 = true ∧ c.acks.contains (0, c.group.getD 0 0) = true) ∧ (coll0 fun c => { c with dealt := false }).started = true := by decide +kernel
/-- A child's report at a participant that has not reported, the root's at one that has; a result whose homes are at hand. -/
theorem wit_collective_reports : (let c := coll0 fun c => { c with reported := false };
      (fabS 1 (some (3, twoPkgs)) [c]).m.fab.colls.find? (fun c => c.of (msg0 3) && c.gen == (msg0 3).gen && c.takesPart && !c.reported &&
        !c.reports.any fun x => x.1 == 2) = some c) ∧
    (let c := coll0 fun c => { c with dealt := false };
      (fabS 1 (some (3, twoPkgs)) [c]).m.fab.colls.find? (fun c => c.of (msg0 3) && c.gen == (msg0 3).gen && c.takesPart && c.reported && !c.dealt) = some c ∧
        (fabS 1 (some (3, twoPkgs)) [c]).startFar c c.group.length = false) := by decide +kernel
def colourless (c : Coll) : Coll := { c with cmd := { c.cmd with who := { c.cmd.who with colour := 0 } } }
theorem wit_collective_results : (let s := (Act.fab fun f => { f with pkg := 1, agreed := some (3, twoPkgs), gen := 3, copies := twoPkgs, colls := [coll0 colourless] }).run (paged 0);
      s.collHas { msg0 3 with colour := 0 } = some (coll0 colourless) ∧ (match collHomes s (coll0 colourless).cmd 0x4000 8 true with
        | .ok _ => true
        | .error _ => false) = true ∧ s.collFar (coll0 colourless).cmd 0x4000 8 true = false ∧
      (match engineHome s (coll0 colourless).cmd classC .g 0x6000 4 true with
        | .ok (h, m) => !s.away (siteDie 0) h && (s.engineRefusal h 4 m).isNone
        | .error _ => false) = true) ∧
    (let s := fabS 1 (some (3, twoPkgs)) [coll0 fun c => { c with wrote := [0], acks := [(0, 1), (0, 2)] }];
      (s.fabTrees[0]?.map Tree.root) = some s.fabSelf ∧ s.allAcked (msg0 3) = true) ∧
    (fabS 1 (some (3, twoPkgs)) [coll0 id]).allAcked (msg0 3) = false := by decide +kernel
/-- Barrier events of an earlier, the agreed and a later generation, at the root, ready, and elsewhere. -/
theorem wit_fabric_barriers : (fabS 1 (some (3, twoPkgs)) []).fabGen = 3 ∧ (fabS 2 (some (3, twoPkgs)) []).fabRoot ≠ 2 ∧
    ((Act.fab fun f => { f with figures := [2] }).run (fabS 1 (some (3, twoPkgs)) [])).fbReady = true ∧
    (fabS 1 (some (3, twoPkgs)) []).m.fab.pkg ≠ 2 := by decide +kernel
theorem wit_aborts : (fabS 1 (some (3, twoPkgs)) [coll0 fun c => { c with admitted := false }]).collKey 1 5 = some (coll0 fun c => { c with admitted := false }) := by
  decide +kernel
theorem wit_collective_ends : (let c := coll0 fun c => { c with admitted := false };
      (fabS 1 none [c]).collNext = some c) ∧
    (let c := coll0 fun c => { c with full := [(0, 0)] };
      (fabS 1 none [c]).coll? 0 = some c ∧ c.finished = false ∧ (fabS 1 none [c]).presents 7 = true ∧ c.begun = true ∧ (∀ i < c.chunks, c.marked i = true)) ∧
    (coll0 fun c => { c with status := some 3 }).status = some 3 := by decide +kernel
theorem wit_fabric_links : (∀ b ∈ [4, 2, 1], let s := (Act.fab fun f => { f with entries := [(0, lltEntry 1 b 2 0)] }).run State.reset;
      lltSt (s.lltLocal 0) ≠ 0 ∧ lltBw (s.lltLocal 0) = b) ∧
    (let s := (Act.fab fun f => { f with entries := [(24, lltEntry 2 7 0 0)] }).run State.reset;
      lltSt (s.lltLocal 24) ≠ 0 ∧ s.m.pkg.seams.contains 0 = false) := by decide +kernel

end Sys2Proof.Tests
end

section
/-! PROOF of O5. The nine bits of a target, said once per kind (02 R39, R40). -/

namespace Sys2Proof

/-! ## Targets by their kind -/

theorem Target.ofBits_window {b : BitVec 9} (h : b.extractLsb' 7 2 = 0) :
    Target.ofBits b = (Field.ofBits (b.extractLsb' 0 2)).map (Target.window (b.extractLsb' 2 5)) := by
  simp [ofBits, h]

theorem Target.ofBits_frame {b : BitVec 9} (h : b.extractLsb' 7 2 = 1) :
    Target.ofBits b = .ok (.frame (b.extractLsb' 0 7)) := by
  simp [ofBits, h]

theorem Target.ofBits_port {b : BitVec 9} (h : b.extractLsb' 7 2 = 2) :
    Target.ofBits b = .ok (.port (Net.ofBits (b.extractLsb' 5 2)) (b.extractLsb' 0 5)) := by
  simp [ofBits, h]

/-- Kind 3 has three codes (R40), one for each special target. -/
theorem Target.ofBits_special {b : BitVec 9} {t : Target} (hk : b.extractLsb' 7 2 = 3) (h : Target.ofBits b = .ok t) :
    (b = 0x180 ∧ t = .null) ∨ (b = 0x181 ∧ t = .reply) ∨ (b = 0x182 ∧ t = .sink) := by
  by_cases hnull : b = 0x180
  · subst hnull; exact .inl ⟨rfl, (Except.ok.inj h).symm⟩
  by_cases hreply : b = 0x181
  · subst hreply; exact .inr (.inl ⟨rfl, (Except.ok.inj h).symm⟩)
  by_cases hsink : b = 0x182
  · subst hsink; exact .inr (.inr ⟨rfl, (Except.ok.inj h).symm⟩)
  · simp only [ofBits, hk, hnull, hreply, hsink, BitVec.reduceEq, if_false, reduceCtorEq] at h

/-- Settles O5, kind by kind; within a kind, the field and the network are read by evaluation of their two bits. -/
theorem targetBitsDecode : Obligations.TargetBitsDecode := by
  unfold Obligations.TargetBitsDecode
  intro b
  refine ⟨fun hk => ?window, Target.ofBits_frame, fun hk => ?port, fun hk t ht => ?special⟩
  case window =>
    rw [Target.ofBits_window hk]
    exact ⟨fun h => by rw [h]; rfl, fun h => by rw [h]; rfl, fun h => by rw [h]; rfl, fun h => by rw [h]; exact ⟨_, rfl⟩⟩
  case port =>
    rw [Target.ofBits_port hk]
    exact ⟨fun h => by rw [h]; rfl, fun h => by rw [h]; rfl, fun h => by rw [h]; rfl, fun h => by rw [h]; rfl⟩
  case special =>
    exact (Target.ofBits_special hk ht).imp And.right (Or.imp And.right And.right)

end Sys2Proof
end

section
/-! PROOF of O22. What a word that decodes has passed, and what `imm` decodes to and delivers (02 R47, 05 R110). -/

namespace Sys2Proof

/-! ## Decoding -/

theorem checked_ok_iff {i j : Instr} : checked i = .ok j ↔ i = j ∧ j.wf = true := by
  unfold checked
  split
  · next hw => exact ⟨fun h => by cases h; exact ⟨rfl, hw⟩, fun ⟨he, _⟩ => congrArg _ he⟩
  · next hw => exact ⟨nofun, fun ⟨he, hj⟩ => absurd (he ▸ hj) hw⟩

/-- A word decodes where its common part and its body read, and the instruction passes its own checks. -/
theorem decodeWord_ok_iff {w : Word} {row : OpRow} (hl : opTable.lookup (w.extractLsb' 55 9) = some row) (i : Instr) :
    decodeWord w = .ok i ↔ ∃ c, Common.ofWord w = .ok c ∧ row.read c (w.extractLsb' 0 35) = .ok i ∧ i.wf = true := by
  unfold decodeWord
  rw [hl]
  cases Common.ofWord w with
  | error e => simp
  | ok c => cases hr : row.read c (w.extractLsb' 0 35) <;> simp [hr, checked_ok_iff]

theorem opTable_lookup_imm : opTable.lookup 0x081 = some (.i .imm) := rfl

theorem FormI.ofBody_word (c : Common) (w : Word) :
    FormI.ofBody c (w.extractLsb' 0 35) = ⟨c, w.extractLsb' 32 3, w.extractLsb' 0 32⟩ := by
  simp only [ofBody, BitVec.extractLsb'_extractLsb'_of_le, Nat.reduceAdd, Nat.reduceLeDiff]

theorem imm_wf_kind {f : FormI} (h : (Instr.imm f).wf = true) : f.kind.toNat < 4 := by
  simp only [Instr.wf, Bool.and_eq_true, decide_eq_true_eq] at h
  exact h.2

theorem decodeWord_imm {w : Word} {i : Instr} (ho : w.extractLsb' 55 9 = 0x081) (h : decodeWord w = .ok i) :
    (w.extractLsb' 32 3).toNat < 4 ∧ ∃ c, i = .imm ⟨c, w.extractLsb' 32 3, w.extractLsb' 0 32⟩ := by
  obtain ⟨c, -, hr, hw⟩ := (decodeWord_ok_iff (ho ▸ opTable_lookup_imm) i).mp h
  simp only [OpRow.read, FormI.ofBody_word, Except.ok.injEq] at hr
  subst hr
  exact ⟨imm_wf_kind hw, c, rfl⟩

theorem opForm_i {i : Instr} {o : BitVec 9} {g : FormI} (h : i.opForm = some (o, .i g)) : i = .imm g := by
  cases i
  case imm f => cases h; rfl
  all_goals cases h

end Sys2Proof

namespace Sys2Proof.Machine

/-! ## The lanes of the immediate -/

/-- The upper half of a sign extension repeats the sign. -/
theorem signExtend_upper (v : Lane) : (v.signExtend 64).extractLsb' 32 32 = if v.msb then BitVec.allOnes 32 else 0 := by
  rw [BitVec.signExtend_eq_append_of_le (by decide), BitVec.extractLsb'_cast]
  exact extract_top _ _

theorem zeroExtend_upper (v : Lane) : (v.zeroExtend 64).extractLsb' 32 32 = 0 := by
  ext j hj
  simp [BitVec.getLsbD_setWidth]

theorem immKind_every {k : BitVec 3} (hk : k = 0) (v : Lane) (w : Nat) : immKind k.toNat v w = .ok (List.replicate w v) := by
  subst hk; rfl

theorem immKind_lane0 {k : BitVec 3} (hk : k = 1) (v : Lane) (w : Nat) :
    immKind k.toNat v w = .ok (v :: List.replicate (w - 1) 0) := by
  subst hk; rfl

theorem immKind_signed {k : BitVec 3} {w n : Nat} (hk : k = 2) (hw : w = 2 * n) (v : Lane) :
    immKind k.toNat v w = .ok (List.replicate n [v, (v.signExtend 64).extractLsb' 32 32]).flatten := by
  subst hk hw
  simp [immKind, signExtend_upper]

theorem immKind_unsigned {k : BitVec 3} {w n : Nat} (hk : k = 3) (hw : w = 2 * n) (v : Lane) :
    immKind k.toNat v w = .ok (List.replicate n [v, (v.zeroExtend 64).extractLsb' 32 32]).flatten := by
  subst hk hw
  simp [immKind, zeroExtend_upper]

/-- The paired kinds need an even width. -/
theorem immKind_odd {k : BitVec 3} {w n : Nat} (hk : k = 2 ∨ k = 3) (hw : w = 2 * n + 1) (v : Lane) :
    immKind k.toNat v w = .error errWidth := by
  have hodd : w % 2 = 1 := by omega
  rcases hk with rfl | rfl <;> simp [immKind, hodd]

/-! ## The instruction -/

@[simp] theorem Ctx.result_ok (x : Ctx) (ls : List Lane) : x.result (.ok ls) = x.tok .data ls := rfl
@[simp] theorem Ctx.result_error (x : Ctx) (e : ErrCode) : x.result (.error e) = x.err e := rfl

theorem exec_imm (f : FormI) (s : State) : exec (.imm f) s =
    .next ((fire 0x081 (.i f) noNull fun x => x.emit f.c (x.result (immKind f.kind.toNat f.imm x.width))).run s) := rfl

theorem exec_imm_firing {f : FormI} {s : State} {x : Ctx} (h : firing (.imm f) s = some x) :
    exec (.imm f) s = .next (x.after s (x.emit f.c (x.result (immKind f.kind.toNat f.imm x.width)))) := by
  rw [exec_imm, firing_fire (o := 0x081) (n := 0x081) rfl rfl h]

/-- Settles O22: the words by `decodeWord_imm`, the body by the forms of the opcodes, the token by what `immKind` gives. -/
theorem immediateTokenIsFilled : Obligations.ImmediateTokenIsFilled := by
  unfold Obligations.ImmediateTokenIsFilled
  refine ⟨fun w i => decodeWord_imm, fun i o g => opForm_i, fun w ho hk => ?rejected, fun f s x h => ?filled⟩
  case rejected =>
    cases hd : decodeWord w with
    | error e => exact ⟨e, rfl⟩
    | ok i => exact absurd (decodeWord_imm ho hd).1 (Nat.not_lt.mpr hk)
  case filled =>
    rw [exec_imm_firing h]
    refine ⟨fun hk => ?every, fun hk => ?lane0, fun hk n hw => ?signed, fun hk n hw => ?unsigned, fun hk n hw => ?odd⟩
    case every => rw [immKind_every hk, Ctx.result_ok]
    case lane0 => rw [immKind_lane0 hk, Ctx.result_ok]
    case signed => rw [immKind_signed hk hw, Ctx.result_ok]
    case unsigned => rw [immKind_unsigned hk hw, Ctx.result_ok]
    case odd => rw [immKind_odd hk hw, Ctx.result_error]

end Sys2Proof.Machine
end

section
/-! PROOF of O47. The lanes that a list of bytes gives, and the chunks of a tile (07 R131). -/

namespace Sys2Proof

/-! ## Bytes of memory as numbers and lanes (00 R2) -/

/-- The lowest byte apart; a byte beyond the list counts as 0. -/
theorem leNat_take_drop_succ (bs : List Byte) (i n : Nat) :
    leNat ((bs.drop i).take (n + 1)) = (bs.getD i 0).toNat + 256 * leNat ((bs.drop (i + 1)).take n) := by
  rcases Nat.lt_or_ge i bs.length with h | h
  · rw [List.drop_eq_getElem_cons h, List.take_succ_cons, leNat, List.getD_eq_getElem?_getD,
      List.getElem?_eq_getElem h, Option.getD_some]
  · rw [List.drop_eq_nil_of_le h, List.drop_eq_nil_of_le (Nat.le_succ_of_le h), List.getD_eq_getElem?_getD,
      List.getElem?_eq_none h, Option.getD_none, List.take_nil, List.take_nil, leNat]
    rfl

theorem leNat_take_drop_four (bs : List Byte) (i : Nat) :
    leNat ((bs.drop i).take 4) = (bs.getD i 0).toNat + 2 ^ 8 * (bs.getD (i + 1) 0).toNat +
      2 ^ 16 * (bs.getD (i + 2) 0).toNat + 2 ^ 24 * (bs.getD (i + 3) 0).toNat := by
  have hnil : leNat ((bs.drop (i + 4)).take 0) = 0 := by rw [List.take_zero, leNat]
  rw [leNat_take_drop_succ bs i 3, leNat_take_drop_succ bs (i + 1) 2, leNat_take_drop_succ bs (i + 2) 1,
    leNat_take_drop_succ bs (i + 3) 0, hnil]
  omega

namespace Machine

@[simp] theorem bytesLanes_length (bs : List Byte) (n : Nat) : (bytesLanes bs n).length = n := by
  induction n generalizing bs with
  | zero => rfl
  | succ n ih => rw [bytesLanes, List.length_cons, ih]

theorem bytesLanes_getD {n j : Nat} (hj : j < n) (bs : List Byte) :
    (bytesLanes bs n).getD j 0 = BitVec.ofNat 32 (leNat ((bs.drop (4 * j)).take 4)) := by
  induction n generalizing bs j with
  | zero => exact absurd hj (Nat.not_lt_zero j)
  | succ n ih =>
    cases j with
    | zero => rfl
    | succ j =>
      rw [bytesLanes, List.getD_cons_succ, ih (Nat.lt_of_succ_lt_succ hj), List.drop_drop, Nat.mul_succ, Nat.add_comm]

/-! ## Chunks (07 R131) -/

@[simp] theorem Capsule.chunk_length (c : Capsule) (w k : Nat) : (c.chunk w k).length = w := bytesLanes_length _ _

/-- A lane lies wholly in its chunk, so cutting the chunk out of the tile loses none of its bytes. -/
theorem Capsule.chunk_getD (c : Capsule) {w j : Nat} (k : Nat) (hj : j < w) :
    (c.chunk w k).getD j 0 = BitVec.ofNat 32 (leNat ((c.tile.drop (4 * w * k + 4 * j)).take 4)) := by
  have hfit : 4 ≤ 4 * w - 4 * j := by omega
  rw [Capsule.chunk, bytesLanes_getD hj, List.drop_take, List.take_take, Nat.min_eq_left hfit, List.drop_drop]

/-- A chunk below the number of whole chunks ends within the tile. -/
theorem Capsule.chunk_end_le {c : Capsule} {w k : Nat} (hk : k < c.chunks w) : 4 * w * k + 4 * w ≤ c.tile.length :=
  calc 4 * w * k + 4 * w = (k + 1) * (4 * w) := by rw [Nat.succ_mul k (4 * w), Nat.mul_comm k (4 * w)]
    _ ≤ c.chunks w * (4 * w) := Nat.mul_le_mul_right _ hk
    _ ≤ c.tile.length := Nat.div_mul_le_self _ _

/-- A frame slot of a capsule activation is a chunk of the tile, poison where a word of it is beyond correction (09 R173). -/
theorem Activation.slotTok_capsule {a : Activation} {h : Held} (hkind : a.kind = .capsule) (hheld : a.held = some h) (k : Nat) :
    a.slotTok k = mkTok a.colour (if h.cap.chunkHurt a.width k then .poison else .data) h.cap.seqNo (h.cap.chunk a.width k) := by
  simp only [slotTok, hkind, hheld]

/-- Settles O47, from the slot as a chunk, the chunk's lanes as bytes of the tile, and the end of a whole chunk. -/
theorem capsuleSlotsAreChunks : Obligations.CapsuleSlotsAreChunks := by
  unfold Obligations.CapsuleSlotsAreChunks
  intro a h k hkind hheld _ hlen
  refine ⟨by rw [Capsule.chunks, hlen], fun hk => ?_⟩
  rw [Activation.slotTok_capsule hkind hheld]
  refine ⟨fun hwhole => ?data, Capsule.chunk_length _ _ _, Capsule.chunk_end_le hk, fun j hj => ?lane⟩
  case data => rw [hwhole]; rfl
  case lane =>
    rw [← leNat_take_drop_four]
    exact h.cap.chunk_getD k hj

end Machine
end Sys2Proof
end

section
/-! PROOF of O41. The coordinates of a list, the first place of a coordinate, and the loop of `isect` (13 R226). -/

namespace Sys2Proof.Machine

/-! ## Numbers in order -/

theorem upFrom_eq_range' (n a : Nat) : upFrom n a = List.range' a n := by
  induction n generalizing a with
  | zero => rfl
  | succ n ih => rw [upFrom, ih, List.range'_succ]

theorem upFrom_zero (n : Nat) : upFrom n 0 = List.range n := by
  rw [upFrom_eq_range', List.range_eq_range']

/-! ## Coordinates and their places (R226) -/

/-- A coordinate is a lane with no pad at or before it. -/
theorem coords_getElem?_eq_some {ls : List Lane} {i : Nat} {c : Lane} :
    (coords ls)[i]? = some c ↔ i < ls.length ∧ (∀ k ≤ i, ls.getD k 0 ≠ pad) ∧ ls.getD i 0 = c := by
  induction ls generalizing i with
  | nil => simp [coords]
  | cons v vs ih =>
    by_cases hv : v = pad
    · have hnil : coords (v :: vs) = [] := by simp [coords, hv]
      exact ⟨fun h => by simp [hnil] at h, fun ⟨_, hpad, _⟩ => absurd hv (hpad 0 (Nat.zero_le i))⟩
    · have hcons : coords (v :: vs) = v :: coords vs := by simp [coords, hv]
      rw [hcons]
      cases i with
      | zero => simp [hv]
      | succ i =>
        have hpads : (∀ k ≤ i + 1, (v :: vs).getD k 0 ≠ pad) ↔ ∀ k ≤ i, vs.getD k 0 ≠ pad :=
          ⟨fun h k hk => h (k + 1) (Nat.succ_le_succ hk), fun h k hk => by
            cases k with
            | zero => exact hv
            | succ k => exact h k (Nat.le_of_succ_le_succ hk)⟩
        rw [List.getElem?_cons_succ, ih, hpads, List.length_cons, Nat.succ_lt_succ_iff, List.getD_cons_succ]

theorem coords_getElem?_eq_none {ls : List Lane} {i : Nat} (h : ∃ k ≤ i, ls.getD k 0 = pad) : (coords ls)[i]? = none := by
  obtain ⟨k, hk, hpad⟩ := h
  refine Option.eq_none_iff_forall_ne_some.mpr fun c hc => ?_
  obtain ⟨-, hpads, -⟩ := coords_getElem?_eq_some.mp hc
  exact hpads k hk hpad

/-- The search of R226 finds the first place of a value. -/
theorem find?_upFrom_getD (ls : List Lane) (c d : Lane) :
    (upFrom ls.length 0).find? (fun j => ls.getD j d == c) = ls.idxOf? c := by
  rw [upFrom_zero]
  induction ls with
  | nil => rfl
  | cons v vs ih =>
    rw [List.length_cons, List.range_succ_eq_map, List.find?_cons, List.find?_map, List.getD_cons_zero, List.idxOf?_cons, ← ih]
    cases v == c <;> rfl

/-- The first place of a coordinate: no pad stands before it, and no equal lane. -/
theorem coords_idxOf?_eq_some {ls : List Lane} {c : Lane} {j : Nat} (hj : j < ls.length)
    (hfirst : ∀ k ≤ j, ls.getD k 0 ≠ pad ∧ (k < j → ls.getD k 0 ≠ c)) (hc : ls.getD j 0 = c) :
    (coords ls).idxOf? c = some j := by
  have hat : (coords ls)[j]? = some c := coords_getElem?_eq_some.mpr ⟨hj, fun k hk => (hfirst k hk).1, hc⟩
  obtain ⟨hlen, hget⟩ := List.getElem?_eq_some_iff.mp hat
  refine List.idxOf?_eq_some_iff.mpr ⟨hlen, hget, fun k hk heq => ?_⟩
  have hk' : (coords ls)[k]? = some c := List.getElem?_eq_some_iff.mpr ⟨Nat.lt_trans hk hlen, heq⟩
  obtain ⟨-, hne⟩ := hfirst k (Nat.le_of_lt hk)
  obtain ⟨-, -, heq'⟩ := coords_getElem?_eq_some.mp hk'
  exact hne hk heq'

theorem coords_idxOf?_eq_none {ls : List Lane} {c : Lane}
    (h : ∀ j < ls.length, (∀ k ≤ j, ls.getD k 0 ≠ pad) → ls.getD j 0 ≠ c) : (coords ls).idxOf? c = none := by
  refine List.idxOf?_eq_none_iff.mpr fun hmem => ?_
  obtain ⟨j, hj⟩ := List.mem_iff_getElem?.mp hmem
  obtain ⟨hlt, hpad, hc⟩ := coords_getElem?_eq_some.mp hj
  exact h j hlt hpad hc

/-! ## The loop (R226) -/

@[simp] theorem isectLanes_length (l r : List Lane) : (isectLanes l r).length = l.length := by
  rw [isectLanes, upFrom_zero l.length, List.length_map, List.length_range]

/-- Lane i of the loop's list: the first place in R of coordinate i of L, where both exist. -/
theorem isectLanes_getD {l : List Lane} {i : Nat} (hi : i < l.length) (r : List Lane) :
    (isectLanes l r).getD i 0 =
      (((coords l)[i]?.bind fun c => (coords r).idxOf? c).map (BitVec.ofNat 32)).getD pad := by
  rw [isectLanes, upFrom_zero l.length, List.getD_eq_getElem?_getD, List.getElem?_map, List.getElem?_range hi, Option.map_some, Option.getD_some]
  cases (coords l)[i]? with
  | none => rfl
  | some c =>
    simp only [find?_upFrom_getD, Option.bind_some]
    cases (coords r).idxOf? c <;> rfl

theorem isectLanes_pad {l : List Lane} {i : Nat} (hi : i < l.length) (r : List Lane) (hpad : ∃ k ≤ i, l.getD k 0 = pad) :
    (isectLanes l r).getD i 0 = pad := by
  rw [isectLanes_getD hi, coords_getElem?_eq_none hpad]
  rfl

theorem isectLanes_coord {l : List Lane} {i : Nat} (hi : i < l.length) (r : List Lane) (hpad : ∀ k ≤ i, l.getD k 0 ≠ pad) :
    (isectLanes l r).getD i 0 = (((coords r).idxOf? (l.getD i 0)).map (BitVec.ofNat 32)).getD pad := by
  rw [isectLanes_getD hi, coords_getElem?_eq_some.mpr ⟨hi, hpad, rfl⟩, Option.bind_some]

/-! ## The instruction -/

theorem exec_isect (f : FormA) (s : State) : exec (.isect f) s =
    .next ((fire 0x169 (.a f) noNull fun x => x.withData f.c (x.opL ++ x.opR)
      ((x.deliver f.c.t0 (x.data (isectLanes x.lanesL x.selTok.lanes))).andThen (x.deliver f.c.t1 (x.data
        [BitVec.ofNat 32 ((isectLanes x.lanesL x.selTok.lanes).filter fun v => v != pad).length])))).run s) := rfl

theorem exec_isect_firing {f : FormA} {s : State} {x : Ctx} {a b : List Lane} (h : firing (.isect f) s = some x) (ha : x.dataL a)
    (hb : x.dataR b) : exec (.isect f) s =
      .next (x.after s ((x.deliver f.c.t0 (x.tok .data (isectLanes a b))).andThen (x.deliver f.c.t1 (x.data
        [BitVec.ofNat 32 ((isectLanes a b).countP fun v => v != pad)])))) := by
  have hw : a.length = x.width := by obtain ⟨t, -, -, -, hw⟩ := ha; exact hw
  have hsel : x.selTok.lanes = b := by obtain ⟨u, hu, -, hl, -⟩ := hb; rw [Ctx.selTok_some hu, hl]
  have hout : x.data (isectLanes a b) = x.tok .data (isectLanes a b) := by
    rw [Ctx.data, padLanes_self ((isectLanes_length a b).trans hw)]
  rw [exec_isect, firing_fire (o := 0x169) (n := 0x169) rfl rfl h, Ctx.withData_two ha hb, Ctx.lanesL_data ha, hsel, hout,
    List.countP_eq_length_filter]

/-- Settles O41, from the lanes of the loop's list and the first place of a coordinate in R. -/
theorem intersectionMatches : Obligations.IntersectionMatches := by
  unfold Obligations.IntersectionMatches
  refine ⟨fun f s x t a b h hl ha hb => ?_, rfl⟩
  have hwa : a.length = x.width := ha.2.2
  have hwb : b.length = x.width := by obtain ⟨u, -, -, -, hw⟩ := hb; exact hw
  refine ⟨isectLanes a b, (isectLanes_length a b).trans hwa, fun i hi hpad => isectLanes_pad (hwa ▸ hi) b hpad,
    fun i hi hcoord => ?_, exec_isect_firing h ⟨t, hl, ha⟩ hb⟩
  rw [isectLanes_coord (hwa ▸ hi) b hcoord]
  refine ⟨fun j hj hfirst heq => ?found, fun hmiss => ?missing⟩
  case found => rw [coords_idxOf?_eq_some (hwb ▸ hj) hfirst heq]; rfl
  case missing => rw [coords_idxOf?_eq_none fun j hj => hmiss j (hwb ▸ hj)]; rfl

end Sys2Proof.Machine
end

section
/-! PROOF of O49. When a configuration is drained, and what a packet, a named handle and a teardown do (21 R346, R347, R350, R352). -/

namespace Sys2Proof.Machine

/-! ## Drained (R347) -/

theorem ConfState.drained_iff {f : ConfState} (hl : f.launched = true) :
    f.drained = true ↔ ∀ c ∈ f.entered, (∀ e ∈ f.entries, e.rcd.mask.getLsbD c.toNat = true → (e.colour c).eos = true) ∧
      ∀ x ∈ f.exits, c ∈ x.eos := by
  simp only [ConfState.drained, hl, Bool.true_and, List.all_eq_true, Bool.and_eq_true, Bool.or_eq_true, Bool.not_eq_true',
    ← Bool.not_eq_true, ← Decidable.imp_iff_not_or, List.contains_iff_mem]

theorem ConfState.drained_of_entered_nil {f : ConfState} (hl : f.launched = true) (hc : f.entered = []) : f.drained = true :=
  (ConfState.drained_iff hl).mpr fun c hmem => by rw [hc] at hmem; exact absurd hmem List.not_mem_nil

/-! ## Packets and handles (R62, R346) -/

/-- A well-formed packet of a mapped queue does its work, and then queues due to leave their slots do so. -/
theorem packet_run {s : State} {x : QState} {ok : Bool} (hq : s.queue? s.m.cur.queue = some x) (hm : x.mapped = true)
    (hok : ok = true) (pop : Nat) (p : Packet) (act : Nat → QState → Act) :
    (packet pop ok p act).run s = (handOver x.desc.die 0 64).run ((act s.m.cur.queue x).run s) := by
  simp [packet, hq, hm, hok]

/-- A handle is live where its configuration stands and no teardown has begun. -/
theorem withHandle_run_live {s : State} {x : QState} {p : Packet} {f : ConfState} (hf : s.conf? (x.cfgNo p) = some f)
    (ht : f.tearer = none) (q header : Nat) (act : Nat → ConfState → Act) :
    (withHandle q x p header act).run s = (act (x.cfgNo p) f).run s := by
  simp [withHandle, hf, ht]

/-! ## A teardown without force (R350, R277) -/

theorem tearStep_run_saved {s : State} {cfg : Nat} {f : ConfState} (hf : s.conf? cfg = some f) (hp : f.phase = .saved)
    (q : Nat) (x : QState) (p : Packet) (force : Bool) :
    (tearStep q cfg x p force).run s = ((discardConf cfg).andThen ((release cfg).andThen (goTo q (x.after p)))).run s := by
  simp [tearStep, hf, hp]

theorem tearStep_run_drained {s : State} {cfg : Nat} {f : ConfState} (hf : s.conf? cfg = some f) (hp : f.phase = .resident)
    (hd : f.drained = true) (q : Nat) (x : QState) (p : Packet) :
    (tearStep q cfg x p false).run s = ((release cfg).andThen (goTo q (x.after p))).run s := by
  simp [tearStep, hf, hp, hd]

theorem tearStep_run_waits {s : State} {cfg : Nat} {f : ConfState} (hf : s.conf? cfg = some f) (hp : f.phase ≠ .saved)
    (hd : f.drained = false) (q : Nat) (x : QState) (p : Packet) : (tearStep q cfg x p false).run s = s := by
  simp [tearStep, hf, hp, hd]

/-! ## The instructions -/

theorem exec_pkWrite (p : Packet) (s : State) : exec (.pkWrite p) s = execPkWrite p s := rfl

theorem exec_pkTeardown (p : Packet) (s : State) : exec (.pkTeardown p) s = execPkTeardown p s := rfl

section
variable {p : Packet} {s : State} {x : QState} {f : ConfState}
variable (hq : s.queue? s.m.cur.queue = some x) (hm : x.mapped = true) (hf : s.conf? (x.cfgNo p) = some f)
include hq hm hf

/-- A write with DRAIN, of a live handle: the write where its configuration is drained, and else nothing. -/
theorem exec_pkWrite_drain (hw : (Instr.pkWrite p).wf = true) (hdr : p.pflg.getLsbD 13 = true) (ht : f.tearer = none) :
    exec (.pkWrite p) s = .next ((handOver x.desc.die 0 64).run
      ((if f.drained then hoistWrite s.m.cur.queue x p else .quiet).run s)) := by
  rw [exec_pkWrite, execPkWrite, packet_run hq hm hw, if_pos hdr, withHandle_run_live hf ht]

/-- A teardown that this queue has begun goes on as it began. -/
theorem exec_pkTeardown_begun {force : Bool} (hw : (Instr.pkTeardown p).wf = true) (ht : f.tearer = some (s.m.cur.queue, force)) :
    exec (.pkTeardown p) s = .next ((handOver x.desc.die 0 64).run
      ((tearStep s.m.cur.queue (x.cfgNo p) x p force).run s)) := by
  rw [exec_pkTeardown, execPkTeardown, packet_run hq hm hw]
  simp [hf, ht]

end

/-- Settles O49, from `drained` as an equivalence, a write with DRAIN, and the three outcomes of a teardown without force. -/
theorem drainedConfigurations : Obligations.DrainedConfigurations := by
  unfold Obligations.DrainedConfigurations
  refine ⟨fun f hl => ⟨ConfState.drained_iff hl, ConfState.drained_of_entered_nil hl⟩, fun p s x f hq hm hf =>
    ⟨fun hw hdr ht => ?write, fun hw ht _ => ?teardown⟩⟩
  case write =>
    rw [exec_pkWrite_drain hq hm hf hw hdr ht]
    exact ⟨fun hd => by simp [hd], fun hd => by simp [hd]⟩
  case teardown =>
    rw [exec_pkTeardown_begun hq hm hf hw ht]
    refine ⟨fun hd hp => ?waits, fun hp => ?saved, fun hd hp => ?drained⟩
    case waits => rw [tearStep_run_waits hf hp hd]; rfl
    case saved => rw [tearStep_run_saved hf hp]
    case drained => rw [tearStep_run_drained hf hp hd]

end Sys2Proof.Machine
end

section
/-! SUPPORT. General facts about conditionals. -/

namespace Sys2Proof

section
variable {α : Sort _} {p q : Prop} [Decidable p] [Decidable q]

theorem ite_of_iff {x y u v : α} (h : p ↔ q) (hx : x = u) (hy : y = v) : (if p then x else y) = if q then u else v :=
  ite_congr (propext h) (fun _ => hx) fun _ => hy

theorem ite_of_and (x y : α) : (if p ∧ q then x else y) = if p then (if q then x else y) else y := by
  by_cases hp : p
  · rw [if_pos hp]; exact ite_of_iff (and_iff_right hp) rfl rfl
  · rw [if_neg hp, if_neg fun h => hp h.1]

theorem ite_of_or (x y : α) : (if p ∨ q then x else y) = if p then x else if q then x else y := by
  by_cases hp : p
  · rw [if_pos hp, if_pos (.inl hp)]
  · rw [if_neg hp]; exact ite_of_iff (or_iff_right hp) rfl rfl

end

end Sys2Proof
end

section
/-! PROOF of O1, O2, O3 and O4. Every word and packet by its instruction, and the converse: the small decoders undone by their encoders (02 R38 to R56). -/

namespace Sys2Proof

/-! ## Fields cut out and joined again -/

/-- Two neighbouring fields joined. -/
theorem extract_join {w : Nat} (x : BitVec w) (k l m : Nat) :
    x.extractLsb' (k + l) m ++ x.extractLsb' k l = x.extractLsb' k (m + l) := by
  rw [BitVec.extractLsb'_append_extractLsb'_eq_extractLsb' rfl]

/-- A field of a field. -/
theorem extract_extract {w k l n : Nat} (x : BitVec w) (lo : Nat) (h : k + l ≤ n) :
    (x.extractLsb' lo n).extractLsb' k l = x.extractLsb' (lo + k) l := by
  ext i hi
  simp [Nat.add_assoc, show k + i < n by omega]

theorem ofBool_extract {w : Nat} (x : BitVec w) (k : Nat) : BitVec.ofBool (x.getLsbD k) = x.extractLsb' k 1 := by
  ext i hi
  obtain rfl : i = 0 := by omega
  simp

theorem PMode.toBits_ofBits {b : BitVec 2} {m : PMode} (h : PMode.ofBits b = .ok m) : m.toBits = b := by
  unfold ofBits at h
  repeat' split at h
  all_goals cases h <;> symm <;> assumption

theorem Field.toBits_ofBits {b : BitVec 2} {f : Field} (h : Field.ofBits b = .ok f) : f.toBits = b := by
  unfold ofBits at h
  repeat' split at h
  all_goals cases h <;> symm <;> assumption

theorem Size.toBits_ofBits {b : BitVec 3} {z : Size} (h : Size.ofBits b = .ok z) : z.toBits = b := by
  unfold ofBits at h
  repeat' split at h
  all_goals cases h <;> symm <;> assumption

theorem Net.toBits_ofBits (b : BitVec 2) : (Net.ofBits b).toBits = b := by decide +revert

theorem Space.toBits_ofBits (b : BitVec 2) : (Space.ofBits b).toBits = b := by decide +revert

theorem Target.toBits_ofBits {b : BitVec 9} {t : Target} (h : Target.ofBits b = .ok t) : t.toBits = b := by
  have hall : b.extractLsb' 7 2 ++ b.extractLsb' 0 7 = b := extract_join b 0 7 2 ▸ extract_all b
  by_cases hw : b.extractLsb' 7 2 = 0
  · rw [ofBits_window hw] at h
    cases hf : Field.ofBits (b.extractLsb' 0 2) with
    | error e => rw [hf] at h; cases h
    | ok f =>
      rw [hf] at h
      cases h
      rw [toBits, Field.toBits_ofBits hf, extract_join b 0 2 5, ← hw]
      exact hall
  by_cases hf : b.extractLsb' 7 2 = 1
  · rw [ofBits_frame hf] at h
    cases h
    rw [toBits, ← hf, hall]
  by_cases hp : b.extractLsb' 7 2 = 2
  · rw [ofBits_port hp] at h
    cases h
    rw [toBits, Net.toBits_ofBits, extract_join b 0 5 2, ← hp]
    exact hall
  · have hk : b.extractLsb' 7 2 = 3 := by
      generalize b.extractLsb' 7 2 = k at hw hf hp
      decide +revert
    obtain ⟨rfl, rfl⟩ | ⟨rfl, rfl⟩ | ⟨rfl, rfl⟩ := ofBits_special hk h <;> rfl

/-! ## The common part and the bodies of a word that reads -/

theorem Common.fields_of_ofWord {w : Word} {c : Common} (h : Common.ofWord w = .ok c) :
    c.pm.toBits = w.extractLsb' 53 2 ∧ c.t0.toBits = w.extractLsb' 44 9 ∧ c.t1.toBits = w.extractLsb' 35 9 := by
  unfold ofWord at h
  split at h <;> cases h
  next pm t0 t1 hp h0 h1 => exact ⟨PMode.toBits_ofBits hp, Target.toBits_ofBits h0, Target.toBits_ofBits h1⟩

/-- The fields of a word give the word. -/
theorem packWord_fields {w : Word} {f : Form} (hc : Common.ofWord w = .ok f.common) (hb : f.body = w.extractLsb' 0 35) :
    packWord (w.extractLsb' 55 9) f = w := by
  obtain ⟨hp, h0, h1⟩ := Common.fields_of_ofWord hc
  rw [packWord, hp, h0, h1, hb, extract_join w 0 35 9, extract_join w 0 44 9, extract_join w 0 53 2, extract_join w 0 55 9]
  exact extract_all w

theorem FormA.body_ofBody (c : Common) (b : BitVec 35) : (Form.a (.ofBody c b)).body = b := by
  rw [Form.body, ofBody, ofBool_extract, extract_join b 0 25 1, extract_join b 0 26 5, extract_join b 0 31 4]
  exact extract_all b

theorem FormI.body_ofBody (c : Common) (b : BitVec 35) : (Form.i (.ofBody c b)).body = b := by
  rw [Form.body, ofBody, extract_join b 0 32 3]
  exact extract_all b

theorem FormX.body_ofBody (c : Common) (b : BitVec 35) : (Form.x (.ofBody c b)).body = b := by
  rw [Form.body, ofBody, extract_join b 0 19 7, extract_join b 0 26 5, extract_join b 0 31 4]
  exact extract_all b

theorem FormK.body_ofBody (c : Common) (b : BitVec 35) : (Form.k (.ofBody c b)).body = b := by
  rw [Form.body, ofBody, extract_join b 0 27 4, extract_join b 0 31 4]
  exact extract_all b

theorem FormS.body_ofBody (c : Common) (b : BitVec 35) : (Form.s (.ofBody c b)).body = b := by
  rw [Form.body, ofBody, extract_join b 0 23 12]
  exact extract_all b

theorem FormC.body_ofBody {c : Common} {b : BitVec 35} {f : FormC} (h : FormC.ofBody c b = .ok f) :
    f.c = c ∧ (Form.c f).body = b := by
  unfold ofBody at h
  split at h <;> cases h
  next h0 =>
    refine ⟨rfl, ?_⟩
    rw [Form.body, ← h0, extract_join b 0 5 6, extract_join b 0 11 12, extract_join b 0 23 6, extract_join b 0 29 6]
    exact extract_all b

theorem FormM.body_ofBody {c : Common} {b : BitVec 35} {f : FormM} (h : FormM.ofBody c b = .ok f) :
    f.c = c ∧ (Form.m f).body = b := by
  unfold ofBody at h
  cases hz : Size.ofBits (b.extractLsb' 15 3) with
  | error e => rw [hz] at h; cases h
  | ok z =>
    rw [hz] at h
    cases h
    refine ⟨rfl, ?_⟩
    rw [Form.body, Size.toBits_ofBits hz, Space.toBits_ofBits, ofBool_extract, extract_join b 0 14 1, extract_join b 0 15 3,
      extract_join b 0 18 2, extract_join b 0 20 5, extract_join b 0 25 5, extract_join b 0 30 5]
    exact extract_all b

/-! ## The rows of the opcode map -/

/-- Whatever a row builds has the row's opcode, and the form that it is built from. -/
def OpRow.keeps (o : BitVec 9) : OpRow → Prop
  | .a mk => ∀ f, (mk f).opForm = some (o, .a f)
  | .i mk => ∀ f, (mk f).opForm = some (o, .i f)
  | .m mk => ∀ f, (mk f).opForm = some (o, .m f)
  | .c mk => ∀ f, (mk f).opForm = some (o, .c f)
  | .x mk => ∀ f, (mk f).opForm = some (o, .x f)
  | .k mk => ∀ f, (mk f).opForm = some (o, .k f)
  | .s mk => ∀ f, (mk f).opForm = some (o, .s f)

theorem OpRow.keeps_cons {o : BitVec 9} {row : OpRow} {rows : List (BitVec 9 × OpRow)} (h : row.keeps o)
    (hs : ∀ p ∈ rows, p.2.keeps p.1) : ∀ p ∈ (o, row) :: rows, p.2.keeps p.1 :=
  List.forall_mem_cons.mpr ⟨h, hs⟩

theorem opTable0_keeps : ∀ p ∈ opTable0, p.2.keeps p.1 := by
  unfold opTable0
  repeat refine OpRow.keeps_cons (fun _ => rfl) ?_
  exact List.forall_mem_nil _

theorem opTable1_keeps : ∀ p ∈ opTable1, p.2.keeps p.1 := by
  unfold opTable1
  repeat refine OpRow.keeps_cons (fun _ => rfl) ?_
  exact List.forall_mem_nil _

/-- The rows of `capn` and `capnx` have two constructors, which KVAR tells apart. -/
theorem opTable2_keeps : ∀ p ∈ opTable2, p.2.keeps p.1 := by
  unfold opTable2
  repeat refine OpRow.keeps_cons (fun _ => rfl) ?_
  refine OpRow.keeps_cons (fun f => by dsimp only; split <;> rfl) ?_
  refine OpRow.keeps_cons (fun _ => rfl) ?_
  refine OpRow.keeps_cons (fun f => by dsimp only; split <;> rfl) ?_
  repeat refine OpRow.keeps_cons (fun _ => rfl) ?_
  exact List.forall_mem_nil _

/-- KVAR tells apart the constructors of `caprep` and `caphd`, LNK those of `ld`, SUB those of `tset`. -/
theorem opTable3_keeps : ∀ p ∈ opTable3, p.2.keeps p.1 := by
  unfold opTable3
  refine OpRow.keeps_cons (fun f => by dsimp only; split <;> rfl) ?_
  repeat refine OpRow.keeps_cons (fun _ => rfl) ?_
  refine OpRow.keeps_cons (fun f => by dsimp only; (repeat' split) <;> rfl) ?_
  refine OpRow.keeps_cons (fun f => by dsimp only; split <;> rfl) ?_
  repeat refine OpRow.keeps_cons (fun _ => rfl) ?_
  refine OpRow.keeps_cons (fun f => by dsimp only; (repeat' split) <;> rfl) ?_
  refine OpRow.keeps_cons (fun _ => rfl) ?_
  exact List.forall_mem_nil _

/-- SREG tells apart the constructors of `sysw`, EOP those of `coll`. -/
theorem opTable4_keeps : ∀ p ∈ opTable4, p.2.keeps p.1 := by
  unfold opTable4
  repeat refine OpRow.keeps_cons (fun _ => rfl) ?_
  refine OpRow.keeps_cons (fun f => by dsimp only; (repeat' split) <;> rfl) ?_
  repeat refine OpRow.keeps_cons (fun _ => rfl) ?_
  refine OpRow.keeps_cons (fun f => by dsimp only; (repeat' split) <;> rfl) ?_
  repeat refine OpRow.keeps_cons (fun _ => rfl) ?_
  exact List.forall_mem_nil _

/-- Every row keeps its opcode and its form. -/
theorem opTable_keeps : ∀ p ∈ opTable, p.2.keeps p.1 := by
  simp only [opTable, List.forall_mem_append]
  exact ⟨⟨⟨⟨opTable0_keeps, opTable1_keeps⟩, opTable2_keeps⟩, opTable3_keeps⟩, opTable4_keeps⟩

theorem opTable_lookup_keeps {o : BitVec 9} {row : OpRow} (h : opTable.lookup o = some row) : row.keeps o := by
  obtain ⟨l₁, l₂, hl, -⟩ := List.lookup_eq_some_iff.mp h
  exact opTable_keeps (o, row) (by rw [hl]; simp)

/-- The form that a row reads. -/
theorem OpRow.opForm_of_read {o : BitVec 9} {row : OpRow} (hk : row.keeps o) {c : Common} {b : BitVec 35} {i : Instr}
    (h : row.read c b = .ok i) : ∃ f, i.opForm = some (o, f) ∧ f.common = c ∧ f.body = b := by
  cases row with
  | a mk => cases h; exact ⟨_, hk _, rfl, FormA.body_ofBody c b⟩
  | i mk => cases h; exact ⟨_, hk _, rfl, FormI.body_ofBody c b⟩
  | x mk => cases h; exact ⟨_, hk _, rfl, FormX.body_ofBody c b⟩
  | k mk => cases h; exact ⟨_, hk _, rfl, FormK.body_ofBody c b⟩
  | s mk => cases h; exact ⟨_, hk _, rfl, FormS.body_ofBody c b⟩
  | m mk =>
    rw [read] at h
    cases hf : FormM.ofBody c b with
    | error e => rw [hf] at h; cases h
    | ok f => rw [hf] at h; cases h; exact ⟨_, hk f, FormM.body_ofBody hf⟩
  | c mk =>
    rw [read] at h
    cases hf : FormC.ofBody c b with
    | error e => rw [hf] at h; cases h
    | ok f => rw [hf] at h; cases h; exact ⟨_, hk f, FormC.body_ofBody hf⟩

/-! ## The decoder -/

/-- What a word that decodes has passed. -/
theorem decodeWord_ok {w : Word} {i : Instr} (h : decodeWord w = .ok i) : ∃ row c, opTable.lookup (w.extractLsb' 55 9) = some row ∧
    Common.ofWord w = .ok c ∧ row.read c (w.extractLsb' 0 35) = .ok i ∧ i.wf = true := by
  cases hl : opTable.lookup (w.extractLsb' 55 9) with
  | none => simp [decodeWord, hl] at h
  | some row =>
    obtain ⟨c, hc, hr, hw⟩ := (decodeWord_ok_iff hl i).mp h
    exact ⟨row, c, rfl, hc, hr, hw⟩

/-- Settles O2: the row of the opcode gives the form, whose fields are those of the word. -/
theorem decodedWordEncodesBack : Obligations.DecodedWordEncodesBack := by
  unfold Obligations.DecodedWordEncodesBack
  intro w i h
  obtain ⟨row, c, hl, hc, hr, hw⟩ := decodeWord_ok h
  obtain ⟨f, hf, rfl, hb⟩ := OpRow.opForm_of_read (opTable_lookup_keeps hl) hr
  refine ⟨hw, ?_⟩
  rw [encodeWord, hf, Option.map_some]
  exact congrArg some (packWord_fields hc hb)


/-! ## Words and packets of instructions -/

/-- Every instruction and packet is what its word or words decode to. -/
theorem encoding_statement : ∀ i : Instr, Laws.Encoding.Statement i
  | .nop a => Laws.Encoding.nop a | .bro a => Laws.Encoding.bro a | .brp a => Laws.Encoding.brp a
  | .bri a => Laws.Encoding.bri a | .spawn a => Laws.Encoding.spawn a | .ret a => Laws.Encoding.ret a
  | .retire a => Laws.Encoding.retire a | .ctxa a => Laws.Encoding.ctxa a | .ctxf a => Laws.Encoding.ctxf a
  | .ctxq a => Laws.Encoding.ctxq a | .pack a => Laws.Encoding.pack a | .unpack a => Laws.Encoding.unpack a
  | .mov a => Laws.Encoding.mov a | .ldf a => Laws.Encoding.ldf a | .send a => Laws.Encoding.send a
  | .steer a => Laws.Encoding.steer a | .merge a => Laws.Encoding.merge a | .gate a => Laws.Encoding.gate a
  | .drop a => Laws.Encoding.drop a | .eos a => Laws.Encoding.eos a | .stop a => Laws.Encoding.stop a
  | .stopc a => Laws.Encoding.stopc a | .dmd a => Laws.Encoding.dmd a | .cvt a => Laws.Encoding.cvt a
  | .cvts a => Laws.Encoding.cvts a | .bcast a => Laws.Encoding.bcast a | .shuf a => Laws.Encoding.shuf a
  | .lrot a => Laws.Encoding.lrot a | .redadd a => Laws.Encoding.redadd a | .redmax a => Laws.Encoding.redmax a
  | .redmin a => Laws.Encoding.redmin a | .scanadd a => Laws.Encoding.scanadd a | .lidx a => Laws.Encoding.lidx a
  | .lmask a => Laws.Encoding.lmask a | .lcomp a => Laws.Encoding.lcomp a | .add a => Laws.Encoding.add a
  | .sub a => Laws.Encoding.sub a | .mul a => Laws.Encoding.mul a | .mulhi a => Laws.Encoding.mulhi a
  | .mulhn a => Laws.Encoding.mulhn a | .mad a => Laws.Encoding.mad a | .div a => Laws.Encoding.div a
  | .divn a => Laws.Encoding.divn a | .rem a => Laws.Encoding.rem a | .remn a => Laws.Encoding.remn a
  | .and a => Laws.Encoding.and a | .or a => Laws.Encoding.or a | .xor a => Laws.Encoding.xor a
  | .andn a => Laws.Encoding.andn a | .not a => Laws.Encoding.not a | .shl a => Laws.Encoding.shl a
  | .shr a => Laws.Encoding.shr a | .sar a => Laws.Encoding.sar a | .rol a => Laws.Encoding.rol a
  | .ror a => Laws.Encoding.ror a | .min a => Laws.Encoding.min a | .max a => Laws.Encoding.max a
  | .minn a => Laws.Encoding.minn a | .maxn a => Laws.Encoding.maxn a | .abs a => Laws.Encoding.abs a
  | .neg a => Laws.Encoding.neg a | .clz a => Laws.Encoding.clz a | .ctz a => Laws.Encoding.ctz a
  | .popc a => Laws.Encoding.popc a | .bfx a => Laws.Encoding.bfx a | .bfi a => Laws.Encoding.bfi a
  | .sel a => Laws.Encoding.sel a | .cmp a => Laws.Encoding.cmp a | .imm a => Laws.Encoding.imm a
  | .lea a => Laws.Encoding.lea a | .sadd a => Laws.Encoding.sadd a | .ssub a => Laws.Encoding.ssub a
  | .dot2i a => Laws.Encoding.dot2i a | .dot4i a => Laws.Encoding.dot4i a | .fadd a => Laws.Encoding.fadd a
  | .fsub a => Laws.Encoding.fsub a | .fmul a => Laws.Encoding.fmul a | .ffma a => Laws.Encoding.ffma a
  | .fmin a => Laws.Encoding.fmin a | .fmax a => Laws.Encoding.fmax a | .fabs a => Laws.Encoding.fabs a
  | .fneg a => Laws.Encoding.fneg a | .fcmp a => Laws.Encoding.fcmp a | .fclass a => Laws.Encoding.fclass a
  | .frcp a => Laws.Encoding.frcp a | .frsq a => Laws.Encoding.frsq a | .fsqrt a => Laws.Encoding.fsqrt a
  | .fexp2 a => Laws.Encoding.fexp2 a | .flog2 a => Laws.Encoding.flog2 a | .ftanh a => Laws.Encoding.ftanh a
  | .fsig a => Laws.Encoding.fsig a | .fsin a => Laws.Encoding.fsin a | .fcos a => Laws.Encoding.fcos a
  | .ferf a => Laws.Encoding.ferf a | .fround a => Laws.Encoding.fround a | .fdot2 a => Laws.Encoding.fdot2 a
  | .fdot4 a => Laws.Encoding.fdot4 a | .capnNew a => Laws.Encoding.capnNew a | .capnAdopt a => Laws.Encoding.capnAdopt a
  | .capgo a => Laws.Encoding.capgo a | .capnxIndex a => Laws.Encoding.capnxIndex a
  | .capnxOperand a => Laws.Encoding.capnxOperand a | .cappush a => Laws.Encoding.cappush a
  | .capins a => Laws.Encoding.capins a | .caprepWhole a => Laws.Encoding.caprepWhole a
  | .caprepPlace a => Laws.Encoding.caprepPlace a | .capdel a => Laws.Encoding.capdel a
  | .capfork a => Laws.Encoding.capfork a | .capjoin a => Laws.Encoding.capjoin a | .cappark a => Laws.Encoding.cappark a
  | .capld a => Laws.Encoding.capld a | .capst a => Laws.Encoding.capst a | .caphdWord a => Laws.Encoding.caphdWord a
  | .caphdEntry a => Laws.Encoding.caphdEntry a | .caphdArg a => Laws.Encoding.caphdArg a | .ld a => Laws.Encoding.ld a
  | .ldLnk a => Laws.Encoding.ldLnk a | .st a => Laws.Encoding.st a | .ldp a => Laws.Encoding.ldp a
  | .clr a => Laws.Encoding.clr a | .aadd a => Laws.Encoding.aadd a | .amin a => Laws.Encoding.amin a
  | .amax a => Laws.Encoding.amax a | .aminn a => Laws.Encoding.aminn a | .amaxn a => Laws.Encoding.amaxn a
  | .aand a => Laws.Encoding.aand a | .aor a => Laws.Encoding.aor a | .axor a => Laws.Encoding.axor a
  | .aswp a => Laws.Encoding.aswp a | .acas a => Laws.Encoding.acas a | .afadd a => Laws.Encoding.afadd a
  | .vcset a => Laws.Encoding.vcset a | .vcget a => Laws.Encoding.vcget a | .sclset a => Laws.Encoding.sclset a
  | .dec a => Laws.Encoding.dec a | .enc a => Laws.Encoding.enc a | .fence a => Laws.Encoding.fence a
  | .tlook a => Laws.Encoding.tlook a | .tins a => Laws.Encoding.tins a | .tinv a => Laws.Encoding.tinv a
  | .tsetEmpty a => Laws.Encoding.tsetEmpty a | .tsetReady a => Laws.Encoding.tsetReady a
  | .tsetBind a => Laws.Encoding.tsetBind a | .tsetFree a => Laws.Encoding.tsetFree a | .twait a => Laws.Encoding.twait a
  | .mxb a => Laws.Encoding.mxb a | .mxz a => Laws.Encoding.mxz a | .mxr a => Laws.Encoding.mxr a
  | .mxck a => Laws.Encoding.mxck a | .isect a => Laws.Encoding.isect a | .union a => Laws.Encoding.union a
  | .spacc a => Laws.Encoding.spacc a | .spdr a => Laws.Encoding.spdr a | .binit a => Laws.Encoding.binit a
  | .bjoin a => Laws.Encoding.bjoin a | .barv a => Laws.Encoding.barv a | .bwait a => Laws.Encoding.bwait a
  | .bleave a => Laws.Encoding.bleave a | .cpy a => Laws.Encoding.cpy a | .gath a => Laws.Encoding.gath a
  | .scat a => Laws.Encoding.scat a | .tfill a => Laws.Encoding.tfill a | .tdrain a => Laws.Encoding.tdrain a
  | .xfence a => Laws.Encoding.xfence a | .trap a => Laws.Encoding.trap a | .sysr a => Laws.Encoding.sysr a
  | .syswPinv a => Laws.Encoding.syswPinv a | .syswXinv a => Laws.Encoding.syswXinv a
  | .syswPreempt a => Laws.Encoding.syswPreempt a | .fltr a => Laws.Encoding.fltr a | .resume a => Laws.Encoding.resume a
  | .plook a => Laws.Encoding.plook a | .cntr a => Laws.Encoding.cntr a | .yield a => Laws.Encoding.yield a
  | .sealo a => Laws.Encoding.sealo a | .sealc a => Laws.Encoding.sealc a | .seals a => Laws.Encoding.seals a
  | .collAllReduce a => Laws.Encoding.collAllReduce a | .collReduceScatter a => Laws.Encoding.collReduceScatter a
  | .collAllGather a => Laws.Encoding.collAllGather a | .collBroadcast a => Laws.Encoding.collBroadcast a
  | .lnkr a => Laws.Encoding.lnkr a | .trgen a => Laws.Encoding.trgen a | .collab a => Laws.Encoding.collab a
  | .pkNop a => Laws.Encoding.pkNop a | .pkLink a => Laws.Encoding.pkLink a | .pkCfg a => Laws.Encoding.pkCfg a
  | .pkLaunch a => Laws.Encoding.pkLaunch a | .pkSeed a => Laws.Encoding.pkSeed a | .pkIb a => Laws.Encoding.pkIb a
  | .pkIbend a => Laws.Encoding.pkIbend a | .pkPred a => Laws.Encoding.pkPred a | .pkLoopOpen a => Laws.Encoding.pkLoopOpen a
  | .pkLoopClose a => Laws.Encoding.pkLoopClose a | .pkFfence a => Laws.Encoding.pkFfence a
  | .pkWait a => Laws.Encoding.pkWait a | .pkWrite a => Laws.Encoding.pkWrite a | .pkSignal a => Laws.Encoding.pkSignal a
  | .pkPri a => Laws.Encoding.pkPri a | .pkColour a => Laws.Encoding.pkColour a | .pkPin a => Laws.Encoding.pkPin a
  | .pkUnpin a => Laws.Encoding.pkUnpin a | .pkTeardown a => Laws.Encoding.pkTeardown a
  | .tokenHop a => Laws.Encoding.tokenHop a | .configWave a b => Laws.Encoding.configWave a b
  | .partialReconfig a => Laws.Encoding.partialReconfig a | .qdoor a => Laws.Encoding.qdoor a
  | .qtabWrite a => Laws.Encoding.qtabWrite a | .mgmtRegisterWrite a b => Laws.Encoding.mgmtRegisterWrite a b
  | .hostDataRead a b => Laws.Encoding.hostDataRead a b | .hostDataWrite a b => Laws.Encoding.hostDataWrite a b
  | .hostCheckedWrite a b => Laws.Encoding.hostCheckedWrite a b | .hostPresenceRead a => Laws.Encoding.hostPresenceRead a
  | .hostPresenceClear a => Laws.Encoding.hostPresenceClear a | .hostPresenceSet a => Laws.Encoding.hostPresenceSet a
  | .hostPublishWrite a b => Laws.Encoding.hostPublishWrite a b | .hbmScrub a => Laws.Encoding.hbmScrub a
  | .powerLimit a => Laws.Encoding.powerLimit a | .lltFlood a => Laws.Encoding.lltFlood a
  | .lltAck a b c => Laws.Encoding.lltAck a b c | .collMarkExchange a b => Laws.Encoding.collMarkExchange a b
  | .collChunkUp a b c => Laws.Encoding.collChunkUp a b c | .collChunkDown a b => Laws.Encoding.collChunkDown a b
  | .collDstAck a b => Laws.Encoding.collDstAck a b | .collAbortMessage a b => Laws.Encoding.collAbortMessage a b
  | .fbBarrierEvent a => Laws.Encoding.fbBarrierEvent a | .linkUp a b c => Laws.Encoding.linkUp a b c
  | .tokenArrive => Laws.Encoding.tokenArrive | .channelTokenArrive => Laws.Encoding.channelTokenArrive
  | .tokenReplay => Laws.Encoding.tokenReplay | .eosToken => Laws.Encoding.eosToken
  | .demandToken => Laws.Encoding.demandToken | .wedgeToken => Laws.Encoding.wedgeToken
  | .nodeWedgeFreeze => Laws.Encoding.nodeWedgeFreeze | .windowAllocate => Laws.Encoding.windowAllocate
  | .blockCommit => Laws.Encoding.blockCommit | .waveWithdraw => Laws.Encoding.waveWithdraw
  | .nodeEosSend => Laws.Encoding.nodeEosSend | .spawnCreate => Laws.Encoding.spawnCreate
  | .colourAdmit => Laws.Encoding.colourAdmit | .colourEvict => Laws.Encoding.colourEvict
  | .homeLoad => Laws.Encoding.homeLoad | .loadReplay => Laws.Encoding.loadReplay | .homeStore => Laws.Encoding.homeStore
  | .homeClr => Laws.Encoding.homeClr | .homeAtomic => Laws.Encoding.homeAtomic
  | .homeReservation => Laws.Encoding.homeReservation | .splitPieceIssue => Laws.Encoding.splitPieceIssue
  | .rmwUpdate => Laws.Encoding.rmwUpdate | .capsuleLand => Laws.Encoding.capsuleLand
  | .capsuleBufferGrant => Laws.Encoding.capsuleBufferGrant | .tilePortEvent => Laws.Encoding.tilePortEvent
  | .tileFillComplete => Laws.Encoding.tileFillComplete | .tileDrainComplete => Laws.Encoding.tileDrainComplete
  | .tagUnitEvent => Laws.Encoding.tagUnitEvent | .barrierEvent => Laws.Encoding.barrierEvent
  | .islandRow => Laws.Encoding.islandRow | .islandCommand => Laws.Encoding.islandCommand
  | .mxrRelease => Laws.Encoding.mxrRelease | .cturnToken => Laws.Encoding.cturnToken
  | .reorderToken => Laws.Encoding.reorderToken | .isectElement => Laws.Encoding.isectElement
  | .unionElement => Laws.Encoding.unionElement | .spaccElement => Laws.Encoding.spaccElement
  | .dynControlRelease => Laws.Encoding.dynControlRelease | .reductionMerge => Laws.Encoding.reductionMerge
  | .configComplete => Laws.Encoding.configComplete | .seedEnter => Laws.Encoding.seedEnter
  | .exitPortToken => Laws.Encoding.exitPortToken | .reinjectRequest => Laws.Encoding.reinjectRequest
  | .walkComplete => Laws.Encoding.walkComplete | .placeInvalidationComplete => Laws.Encoding.placeInvalidationComplete
  | .xlateInvalidationComplete => Laws.Encoding.xlateInvalidationComplete | .hoistRound => Laws.Encoding.hoistRound
  | .queueUnblock => Laws.Encoding.queueUnblock | .arbiterRound => Laws.Encoding.arbiterRound
  | .gatingComplete => Laws.Encoding.gatingComplete | .wedgingComplete => Laws.Encoding.wedgingComplete
  | .hardFreeze => Laws.Encoding.hardFreeze | .settlingComplete => Laws.Encoding.settlingComplete
  | .savingComplete => Laws.Encoding.savingComplete | .restoreComplete => Laws.Encoding.restoreComplete
  | .streamerExecute => Laws.Encoding.streamerExecute | .streamerComplete => Laws.Encoding.streamerComplete
  | .powerOn => Laws.Encoding.powerOn | .startCold => Laws.Encoding.startCold | .startWarm => Laws.Encoding.startWarm
  | .vdcmdBind => Laws.Encoding.vdcmdBind | .vdcmdRelease => Laws.Encoding.vdcmdRelease
  | .cxlLinkDown => Laws.Encoding.cxlLinkDown | .sealElementToken => Laws.Encoding.sealElementToken
  | .voterToken => Laws.Encoding.voterToken | .voterTimeout => Laws.Encoding.voterTimeout
  | .droopStretch => Laws.Encoding.droopStretch | .thermalThrottle => Laws.Encoding.thermalThrottle
  | .thermalStop => Laws.Encoding.thermalStop | .laneFail => Laws.Encoding.laneFail | .linkDown => Laws.Encoding.linkDown
  | .seamDegraded => Laws.Encoding.seamDegraded | .seamDown => Laws.Encoding.seamDown | .collAdmit => Laws.Encoding.collAdmit
  | .collChunkCommit a => Laws.Encoding.collChunkCommit a | .collComplete => Laws.Encoding.collComplete
  | .acknowledgement => Laws.Encoding.acknowledgement | .seamTrained => Laws.Encoding.seamTrained
  | .cxlLinkTrained => Laws.Encoding.cxlLinkTrained | .supplyRecovered => Laws.Encoding.supplyRecovered
  | .hostReceiverReady => Laws.Encoding.hostReceiverReady

/-- The eight bytes of a word are the word that the decoder reads. -/
theorem decodeBytes_word (w : Word) (rest : List Byte) :
    decodeBytes (leBytes 8 w.toNat ++ rest) = (decodeWord w).map fun i => (i, rest) := by
  have hlen : (leBytes 8 w.toNat).length = 8 := leBytes_length 8 _
  have hw : BitVec.ofNat 64 (leNat (leBytes 8 w.toNat)) = w := by
    rw [leNat_leBytes, Nat.mod_eq_of_lt w.isLt, BitVec.ofNat_toNat, BitVec.setWidth_eq]
  rw [decodeBytes, if_neg (by rw [List.length_append, hlen]; omega), List.take_left' hlen, List.drop_left' hlen, hw]

/-- Settles O1, from the law of each instruction and packet. -/
theorem encodedInstructionsDecode : Obligations.EncodedInstructionsDecode := by
  unfold Obligations.EncodedInstructionsDecode
  refine ⟨fun i w rest hw he => ?word, fun i ws rest hw he => (encoding_statement i hw).2 ws rest he⟩
  case word => rw [decodeBytes_word, (encoding_statement i hw).1 w he, Except.map]

/-- Settles O3 by evaluation of the six words. -/
theorem sampleWordsDecode : Obligations.SampleWordsDecode := by
  unfold Obligations.SampleWordsDecode
  exact ⟨rfl, rfl, rfl, rfl, rfl, rfl⟩

/-! ## Reserved encodings (02 R38 to R40, R49, R56) -/

theorem decodeWord_rejects {w : Word} (h : ∀ i, decodeWord w ≠ .ok i) : ∃ e, decodeWord w = .error e := by
  cases hd : decodeWord w with
  | error e => exact ⟨e, rfl⟩
  | ok i => exact absurd hd (h i)

theorem PMode.toBits_ne_three (m : PMode) : m.toBits ≠ 3 := by cases m <;> decide

theorem Field.toBits_ne_three (f : Field) : f.toBits ≠ 3 := by cases f <;> decide

/-- The two targets of a word that decodes. -/
theorem target_of_decodeWord {w : Word} {i : Instr} (h : decodeWord w = .ok i) {lo : Nat} (hlo : lo = 44 ∨ lo = 35) :
    ∃ t, Target.ofBits (w.extractLsb' lo 9) = .ok t := by
  obtain ⟨row, c, -, hc, -, -⟩ := decodeWord_ok h
  obtain ⟨-, h0, h1⟩ := Common.fields_of_ofWord hc
  obtain rfl | rfl := hlo
  · exact ⟨c.t0, h0 ▸ Target.ofBits_toBits _⟩
  · exact ⟨c.t1, h1 ▸ Target.ofBits_toBits _⟩

/-- A window target names one of three fields. -/
theorem Target.ofBits_window_field {b : BitVec 9} {t : Target} (hk : b.extractLsb' 7 2 = 0) (h : Target.ofBits b = .ok t) :
    b.extractLsb' 0 2 ≠ 3 := by
  rw [ofBits_window hk] at h
  cases hf : Field.ofBits (b.extractLsb' 0 2) with
  | error e => rw [hf] at h; cases h
  | ok f => exact Field.toBits_ofBits hf ▸ Field.toBits_ne_three f

/-- A special target has one of three codes. -/
theorem Target.ofBits_special_code {b : BitVec 9} {t : Target} (hk : b.extractLsb' 7 2 = 3) (h : Target.ofBits b = .ok t) :
    (b.extractLsb' 0 7).toNat ≤ 2 := by
  obtain ⟨rfl, -⟩ | ⟨rfl, -⟩ | ⟨rfl, -⟩ := ofBits_special hk h <;> decide

/-- The opcodes of body C. -/
theorem opTable_lookup_bodyC {o : BitVec 9} (h : o ∈ ([0x001, 0x002, 0x003, 0x004, 0x005, 0x006] : List (BitVec 9))) :
    ∃ mk, opTable.lookup o = some (.c mk) := by
  simp only [List.mem_cons, List.not_mem_nil, or_false] at h
  obtain rfl | rfl | rfl | rfl | rfl | rfl := h <;> exact ⟨_, rfl⟩

theorem OpRow.read_c_reserved {mk : FormC → Instr} {c : Common} {b : BitVec 35} {i : Instr} (h : (OpRow.c mk).read c b = .ok i) :
    b.extractLsb' 0 5 = 0 := by
  refine Decidable.byContradiction fun h0 => ?_
  rw [read, FormC.ofBody, if_neg h0] at h
  cases h

/-- Settles O4: what a word that decodes has passed excludes each reserved encoding. -/
theorem reservedWordsAreRejected : Obligations.ReservedWordsAreRejected := by
  unfold Obligations.ReservedWordsAreRejected
  intro w
  refine ⟨fun hl => ?opcode, fun hp => decodeWord_rejects fun i hd => ?predicate,
    fun lo hlo hk hf => decodeWord_rejects fun i hd => ?field, fun lo hlo hk hc => decodeWord_rejects fun i hd => ?special,
    fun ho hr => decodeWord_rejects fun i hd => ?bodyC⟩
  case opcode => simp only [decodeWord, hl]
  case predicate =>
    obtain ⟨row, c, -, hc, -, -⟩ := decodeWord_ok hd
    exact PMode.toBits_ne_three c.pm ((Common.fields_of_ofWord hc).1.trans hp)
  case field =>
    obtain ⟨t, ht⟩ := target_of_decodeWord hd hlo
    exact Target.ofBits_window_field (by rwa [extract_extract _ _ (by decide)]) ht (by rwa [extract_extract _ _ (by decide)])
  case special =>
    obtain ⟨t, ht⟩ := target_of_decodeWord hd hlo
    have hle := Target.ofBits_special_code (by rwa [extract_extract _ _ (by decide)]) ht
    rw [extract_extract _ _ (by decide)] at hle
    exact absurd hle (Nat.not_le.mpr hc)
  case bodyC =>
    obtain ⟨row, c, hl, -, hread, -⟩ := decodeWord_ok hd
    obtain ⟨mk, hmk⟩ := opTable_lookup_bodyC ho
    obtain rfl := Option.some.inj (hl.symm.trans hmk)
    have h0 := OpRow.read_c_reserved hread
    rw [extract_extract _ _ (by decide)] at h0
    exact hr h0

end Sys2Proof
end

section
/-! PROOF of O6, O7, O8 and O9. What a step is for each kind of agenda item, and what every step keeps (00 R3, log 1). -/

namespace Sys2Proof.Machine

/-! ## The word that issues (02 R59) -/

theorem State.fetch_eq {u : State} {w : Word} {i : Instr} (hw : u.fetchWord = some w) (hi : decodeWord w = .ok i) :
    u.fetch = some i := by
  rw [fetch, hw, Option.bind_some, hi]

/-- An issued word that decodes: without an error, with single-bit errors, or with one beyond correction. -/
theorem State.fetched_eq {u : State} {x : Ctx} {i : Instr} (hx : ctx? u = some x) (hi : u.fetch = some i) :
    u.fetched = if x.codeErrors = [] then .ok (i, u)
      else if true ∈ x.codeErrors then .error ((takeFault x.who Code.blockEcc 0 0 x.seq 0).run (x.codeCorrect.run u))
      else .ok (i, x.codeCorrect.run u) := by
  simp only [fetched, hx, hi, List.contains_iff_mem]

theorem stepIssue_fetched {s t : State} {core : Nat} {memory : Bool} {r : Ready} {i : Instr} (hp : pick s core memory = some r)
    (hf : (issued s core memory r).fetched = .ok (i, t)) : stepIssue core memory s = exec i t := by
  simp only [stepIssue, hp, hf]

theorem stepIssue_faulted {s t : State} {core : Nat} {memory : Bool} {r : Ready} (hp : pick s core memory = some r)
    (hf : (issued s core memory r).fetched = .error t) : stepIssue core memory s = .next t := by
  simp only [stepIssue, hp, hf]

/-! ## Items of the agenda -/

section
variable {s : State} {rest : List Item}

theorem step_issue {core : Nat} {memory : Bool} (ha : s.m.agenda = .issue core memory :: rest) :
    step s = stepIssue core memory { s with m := { s.m with agenda := rest } } := by
  simp only [step, ha]

theorem step_event {i : Instr} {a : At} (ha : s.m.agenda = .event i a :: rest) (hi : isEvent i = true) :
    step s = exec i { s with m := { s.m with agenda := rest, at_ := a } } := by
  simp only [step, ha, stepEvent, hi, if_true]

theorem step_notAnEvent {i : Instr} {a : At} (ha : s.m.agenda = .event i a :: rest) (hi : isEvent i = false) :
    step s = .fault .notAnEvent := by
  simp only [step, ha, stepEvent, hi, Bool.false_eq_true, if_false]

theorem step_packet {q : Nat} (ha : s.m.agenda = .packet q :: rest) :
    step s = stepPacket q { s with m := { s.m with agenda := rest } } := by
  simp only [step, ha]

theorem step_fetch {q : Nat} (ha : s.m.agenda = .fetch q :: rest) :
    step s = .next ((fetchAhead q).run { s with m := { s.m with agenda := rest } }) := by
  simp only [step, ha]

end

/-! ## Queues (21 R345, 02 R62) -/

section
variable {s : State} {q : Nat} {x : QState} (hq : s.queue? q = some x)
include hq

/-- The queue whose turn it is executes its next packet. -/
theorem stepPacket_ready {ws : List Lane} {i : Instr} (hm : x.mapped = true) (hs : s.m.pkg.stopped.contains x.desc.die = false)
    (ht : s.turn x.desc.die = some q) (hn : x.passOver = none) (hp : x.packetAt = .ready ws) (hd : decodePacket ws = .ok i) :
    stepPacket q s =
      exec i (((markServed q x.desc.die).andThen (.mod fun m => { m with cur := { m.cur with queue := q } })).run s) := by
  simp only [stepPacket, State.nextPacket, hq, hm, hs, ht, hn, hp, hd, Bool.not_true, Bool.or_false, ne_eq,
    not_true_eq_false, decide_false, Bool.false_eq_true, if_false]

theorem stepPacket_over {k a : Nat} (hm : x.mapped = true) (hs : s.m.pkg.stopped.contains x.desc.die = false)
    (ht : s.turn x.desc.die = some q) (ho : x.passOver = some (k, a)) : stepPacket q s = .next ((stepOver q x k a).run s) := by
  simp only [stepPacket, State.nextPacket, hq, hm, hs, ht, ho, Bool.not_true, Bool.or_false, ne_eq,
    not_true_eq_false, decide_false, Bool.false_eq_true, if_false]

/-- A queue of a stopped die takes no packet (19 R325). -/
theorem stepPacket_stopped (hs : s.m.pkg.stopped.contains x.desc.die = true) : stepPacket q s = .next s := by
  simp only [stepPacket, State.nextPacket, hq, hs, Bool.or_true, Bool.true_or, if_true]

theorem fetchAhead_run {a : Nat} (ha : x.ahead = some a) (hs : s.m.pkg.stopped.contains x.desc.die = false) :
    (fetchAhead q).run s = (hoistFetch q a .quiet).run s := by
  simp only [fetchAhead, Act.run_look, hq, ha, hs, Bool.false_eq_true, if_false]

theorem fetchAhead_stopped (hs : s.m.pkg.stopped.contains x.desc.die = true) : (fetchAhead q).run s = s := by
  simp only [fetchAhead, Act.run_look, hq, hs, if_true]
  cases x.ahead <;> rfl

end

/-- A packet that a `pk.pred` steps over, whose header has been fetched and which lies within the segment (21 R349). -/
theorem stepOver_fetched {x : QState} {a : Nat} {h : Lane} (hb : x.beyond a = false) (hf : fetchedWord x.fetched a = some h)
    (he : x.beyond (a + 4 * bits h.toNat 16 8) = false) (q k : Nat) :
    stepOver q x k a = if k ≤ 1 then goTo q (a + 4 * (1 + bits h.toNat 16 8))
      else modQueue q fun y => { y with passOver := some (k - 1, a + 4 * (1 + bits h.toNat 16 8)) } := by
  simp only [stepOver, hb, hf, Nat.add_sub_cancel_left, he, Bool.false_eq_true, if_false]

/-! ## What a step answers and keeps -/

/-- Settles O6, item by item of the agenda. -/
theorem stepRunsTheInstruction : Obligations.StepRunsTheInstruction := by
  unfold Obligations.StepRunsTheInstruction
  intro s rest
  refine ⟨fun core memory r w i ha hp => ?issue, fun i a => step_event, fun q x ws i ha hq hm hs ht hn hp hd => ?packet,
    fun q x k a h ha hq hm hs ht ho hf hb he => ?passed, fun q x a ha hq hx hs => ?fetch, fun q x hq hs ha => ?stopped,
    fun ha => by simp only [step, ha]⟩
  case issue =>
    intro u x hx hw hi
    have hf := State.fetched_eq hx (State.fetch_eq hw hi)
    rw [step_issue ha]
    refine ⟨fun h => stepIssue_fetched hp ?_, fun h hn => stepIssue_fetched hp ?_, fun h => stepIssue_faulted hp ?_⟩
    · exact hf.trans (if_pos h)
    · exact hf.trans ((if_neg h).trans (if_neg hn))
    · exact hf.trans ((if_neg (List.ne_nil_of_mem h)).trans (if_pos h))
  case packet => rw [step_packet ha, stepPacket_ready (s := { s with m := { s.m with agenda := rest } }) hq hm hs ht hn hp hd]
  case passed =>
    rw [step_packet ha, stepPacket_over (s := { s with m := { s.m with agenda := rest } }) hq hm hs ht ho, stepOver_fetched hb hf he]
  case fetch => rw [step_fetch ha, fetchAhead_run (s := { s with m := { s.m with agenda := rest } }) hq hx hs]
  case stopped =>
    obtain ha | ha := ha
    · rw [step_packet ha, stepPacket_stopped (s := { s with m := { s.m with agenda := rest } }) hq hs]
    · rw [step_fetch ha, fetchAhead_stopped (s := { s with m := { s.m with agenda := rest } }) hq hs]

/-- Settles O7: the one stop is an event item that names no event, which such an agenda does not hold. -/
theorem stepAnswersANextState : Obligations.StepAnswersANextState := by
  unfold Obligations.StepAnswersANextState
  refine fun s => ⟨fun hok => ?next, fun i a rest => step_notAnEvent⟩
  obtain ⟨m, es, hn⟩ | ⟨i, a, rest, ha, hi, -⟩ := step_cases s
  · exact ⟨_, hn⟩
  · have hev : isEvent i = true := hok i a (by rw [ha]; exact List.mem_cons_self)
    exact absurd hev (by rw [hi]; exact Bool.false_ne_true)

/-- Settles O8: a step is a list of effects, each of which keeps both tables in their canonical form. -/
theorem stepKeepsTheTables : Obligations.StepKeepsTheTables := by
  unfold Obligations.StepKeepsTheTables
  intro s t hs ht
  obtain ⟨m, es, hn⟩ | ⟨i, a, rest, -, -, hf⟩ := step_cases s
  · obtain rfl := Host.Outcome.next.inj (hn.symm.trans ht)
    exact State.effs_wf (s := { s with m := m }) hs es
  · cases hf.symm.trans ht

/-- Settles O9: both tables and the agenda are empty after reset. -/
theorem resetIsSound : Obligations.ResetIsSound := by
  unfold Obligations.ResetIsSound
  exact ⟨⟨rfl, rfl⟩, fun _ _ h => absurd h List.not_mem_nil⟩

end Sys2Proof.Machine
end

section
/-! PROOF of O10. A write of bytes or of presence bits read back, and the canonical form as an extensional one (00 R2, 09 R153). -/

namespace Sys2Proof.Machine

/-! ## Tables that read alike -/

section
variable {α : Type} {d v : α} {t : Tab α}

theorem tgetD_above {k i : Nat} (h : Tab.above k t) (hi : i ≤ k) : tgetD d t i = d := by
  have hi' : Tab.above i t := fun j x hj => Nat.lt_of_le_of_lt hi (h j x hj)
  rw [tgetD, tget_above hi', Option.getD_none]

theorem tgetD_cons_same (k : Nat) : tgetD d ((k, v) :: t) k = v := by simp [tgetD, tget?]

theorem tgetD_cons_other {k i : Nat} (h : k ≠ i) : tgetD d ((k, v) :: t) i = tgetD d t i := by simp [tgetD, tget?, h]

/-- A place below the first key reads as unlisted. -/
theorem tgetD_cons_below {k i : Nat} (ha : Tab.above k t) (h : i < k) : tgetD d ((k, v) :: t) i = d := by
  rw [tgetD_cons_other (Nat.ne_of_gt h), tgetD_above ha (Nat.le_of_lt h)]

end

/-- Two tables in the canonical form that read alike are equal. -/
theorem Tab.canonical_ext {α : Type} {d : α} {t u : Tab α} (ht : Tab.canonical d t) (hu : Tab.canonical d u)
    (h : ∀ i, tgetD d t i = tgetD d u i) : t = u := by
  induction t generalizing u with
  | nil =>
    cases u with
    | nil => rfl
    | cons q u =>
      obtain ⟨hv, -, -⟩ := hu
      exact absurd ((tgetD_cons_same q.1).symm.trans (h q.1).symm) hv
  | cons p t ih =>
    obtain ⟨k, v⟩ := p
    obtain ⟨hv, ha, hc⟩ := ht
    cases u with
    | nil => exact absurd ((tgetD_cons_same k).symm.trans (h k)) hv
    | cons q u =>
      obtain ⟨k', v'⟩ := q
      obtain ⟨hv', ha', hc'⟩ := hu
      obtain hlt | rfl | hlt := Nat.lt_trichotomy k k'
      · exact absurd ((tgetD_cons_same k).symm.trans ((h k).trans (tgetD_cons_below ha' hlt))) hv
      · have hvv : v = v' := (tgetD_cons_same k).symm.trans ((h k).trans (tgetD_cons_same k))
        have htail : t = u := ih hc hc' fun i => by
          obtain hi | hi := Nat.lt_or_ge k i
          · have hne : k ≠ i := Nat.ne_of_lt hi
            rw [← tgetD_cons_other (v := v) hne, h i, tgetD_cons_other hne]
          · rw [tgetD_above ha hi, tgetD_above ha' hi]
        rw [hvv, htail]
      · exact absurd ((tgetD_cons_same k').symm.trans ((h k').symm.trans (tgetD_cons_below ha hlt))) hv'

/-- Two sound states that read alike have equal tables. -/
theorem State.tables_ext {s t : State} (hs : s.wf) (ht : t.wf) (hb : ∀ a, s.byteAt a = t.byteAt a)
    (hp : ∀ a, s.presAt a = t.presAt a) : s.mem = t.mem ∧ s.pres = t.pres := by
  obtain ⟨hsm, hsp⟩ := hs
  obtain ⟨htm, htp⟩ := ht
  refine ⟨Tab.canonical_ext ((Tab.wf_iff _ _).mp hsm) ((Tab.wf_iff _ _).mp htm) hb,
    Tab.canonical_ext ((Tab.wf_iff _ _).mp hsp) ((Tab.wf_iff _ _).mp htp) fun w => ?_⟩
  have hw := hp (4 * w)
  rwa [presAt, presAt, Nat.mul_div_cancel_left w (by decide)] at hw

/-! ## Bytes -/

/-- What is written does not depend on the state. -/
theorem writeBytes_const (a : Nat) (bs : List Byte) (s t : State) : writeBytes a bs s = writeBytes a bs t := by
  induction bs generalizing a with
  | nil => rfl
  | cons b bs ih => simp only [writeBytes, ih]

theorem writeBytes_run_cons (a : Nat) (b : Byte) (bs : List Byte) (s : State) :
    (writeBytes a (b :: bs)).run s = (writeBytes (a + 1) bs).run (s.eff (.byte a b)) := by
  rw [Act.run, writeBytes, State.effs_cons, writeBytes_const _ _ s (s.eff (.byte a b))]
  rfl

/-- Every byte of the range reads as written, and every other as before. -/
theorem byteAt_writeBytes {s : State} (hs : s.wf) (a : Nat) (bs : List Byte) (c : Nat) :
    ((writeBytes a bs).run s).byteAt c = if a ≤ c ∧ c < a + bs.length then bs.getD (c - a) 0 else s.byteAt c := by
  induction bs generalizing a s with
  | nil => rw [if_neg (by simp only [List.length_nil]; omega)]; rfl
  | cons b bs ih =>
    rw [writeBytes_run_cons, ih (State.eff_wf hs _), List.length_cons]
    obtain hlt | rfl | hgt := Nat.lt_trichotomy c a
    · rw [if_neg (by omega), if_neg (by omega), State.byteAt_byte_other _ _ (Nat.ne_of_lt hlt)]
    · rw [if_neg (by omega), if_pos (by omega), State.byteAt_byte_same hs, Nat.sub_self, List.getD_cons_zero]
    · rw [State.byteAt_byte_other _ _ (Nat.ne_of_gt hgt), show c - a = c - (a + 1) + 1 by omega, List.getD_cons_succ]
      exact ite_of_iff (by omega) rfl rfl

theorem presAt_writeBytes (s : State) (a : Nat) (bs : List Byte) (c : Nat) :
    ((writeBytes a bs).run s).presAt c = s.presAt c := by
  induction bs generalizing a s with
  | nil => rfl
  | cons b bs ih => rw [writeBytes_run_cons, ih]; rfl

/-- A range that reads as a list, byte by byte, reads as that list. -/
theorem State.bytesAt_eq {s : State} {a : Nat} {bs : List Byte} (h : ∀ i < bs.length, s.byteAt (a + i) = bs.getD i 0) :
    s.bytesAt a bs.length = bs := by
  induction bs generalizing a with
  | nil => rfl
  | cons b bs ih =>
    rw [List.length_cons, bytesAt, ih fun i hi => ?_]
    · exact congrArg (· :: bs) (h 0 (Nat.succ_pos _))
    · rw [Nat.add_assoc, Nat.add_comm 1 i, h (i + 1) (Nat.succ_lt_succ hi), List.getD_cons_succ]

/-- A number written little-endian is read back, modulo what its bytes hold. -/
theorem nat_writeBytes {s : State} (hs : s.wf) (a n x : Nat) : ((writeBytes a (leBytes n x)).run s).nat a n = x % 2 ^ (8 * n) := by
  have hlen : (leBytes n x).length = n := leBytes_length n x
  have hread : ((writeBytes a (leBytes n x)).run s).bytesAt a (leBytes n x).length = leBytes n x :=
    State.bytesAt_eq fun i hi => by
      rw [byteAt_writeBytes hs, if_pos ⟨Nat.le_add_right a i, Nat.add_lt_add_left hi a⟩, Nat.add_sub_cancel_left]
  rw [hlen] at hread
  rw [State.nat, hread, leNat_leBytes]

/-! ## Presence -/

theorem setPres_run_cons (w : Nat) (ws : List Nat) (p : Pres) (s : State) :
    (setPres (w :: ws) p).run s = (setPres ws p).run (s.eff (.pres w p)) := rfl

theorem presAt_setPres {s : State} (hs : s.wf) (ws : List Nat) (p : Pres) (c : Nat) :
    ((setPres ws p).run s).presAt c = if c / 4 ∈ ws then p else s.presAt c := by
  induction ws generalizing s with
  | nil => rw [if_neg List.not_mem_nil]; rfl
  | cons w ws ih =>
    rw [setPres_run_cons, ih (State.eff_wf hs _)]
    by_cases hw : c / 4 = w
    · subst hw
      rw [State.presAt_pres_same hs, ite_self, if_pos List.mem_cons_self]
    · rw [State.presAt_pres_other _ _ hw]
      exact ite_of_iff (by simp [hw]) rfl rfl

theorem byteAt_setPres (s : State) (ws : List Nat) (p : Pres) (c : Nat) : ((setPres ws p).run s).byteAt c = s.byteAt c := by
  induction ws generalizing s with
  | nil => rfl
  | cons w ws ih => rw [setPres_run_cons, ih, State.byteAt_pres]

/-- Settles O10, from the reads after a write of bytes and after a change of presence. -/
theorem writtenBytesAreRead : Obligations.WrittenBytesAreRead := by
  unfold Obligations.WrittenBytesAreRead
  exact ⟨fun s t => State.tables_ext, fun s a bs hs => ⟨byteAt_writeBytes hs a bs, presAt_writeBytes s a bs,
    fun n x => nat_writeBytes hs a n x, fun ws p c => ⟨presAt_setPres hs ws p c, byteAt_setPres s ws p c⟩⟩⟩

end Sys2Proof.Machine
end

section
/-! PROOF of O11, O12, O13 and O14. What decides before an instruction executes: its operands, its gate, its predicate, and the
kinds and widths of its operands (01 R20, R21, R29). -/

namespace Sys2Proof.Machine

/-- Settles O11: without a latched slot, or with one that may not fire, the firing is quiet. -/
theorem unreadySlotChangesNothing : Obligations.UnreadySlotChangesNothing := by
  unfold Obligations.UnreadySlotChangesNothing
  intro i o f s hi h
  obtain ⟨body, hb⟩ := exec_fire hi
  rw [hb s]
  cases hc : ctx? s with
  | none => rw [fire_none hc]
  | some x => rw [fire_quiet hc (h x hc)]

/-- What a nullified instruction does beside its null outputs, by its opcode. -/
theorem nul_apply (o : BitVec 9) (x : Ctx) :
    (if isExitOp o.toNat then exitNull else if isMemOp o.toNat then memNull else if o = 0x164 then twaitDone else noNull) x =
      if isExitOp o.toNat then exitNull x else if isMemOp o.toNat then memNull x else if o = 0x164 then twaitDone x else .quiet := by
  (repeat' split) <;> rfl

/-- Settles O12, from the firing of a slot that its predicate turns off. -/
theorem falsePredicateNullifies : Obligations.FalsePredicateNullifies := by
  unfold Obligations.FalsePredicateNullifies
  intro i o f s x p hi hc hr hg hk hp hpm hb hl
  obtain ⟨body, hbody⟩ := exec_fire hi
  rw [hbody s, fire_off hc hr hg (.inr ⟨p, hp, hpm, hb, hl⟩), nul_apply]

/-- Settles O13, from the firing of a slot whose predicate is bad. -/
theorem badPredicatePasses : Obligations.BadPredicatePasses := by
  unfold Obligations.BadPredicatePasses
  intro i o f s x p hi hc hr hg hk hp hpm hb
  obtain ⟨body, hbody⟩ := exec_fire hi
  rw [hbody s, fire_bad hc hr hg hk hp hpm hb, nul_apply]

/-! ## Precedence among operands (01 R17, R21, R29) -/

section
variable {x : Ctx} {l r : Token}

theorem Ctx.early_pair_poison_left (hl : l.kind = .poison) : x.early [l, r] none = some (x.pass l) := by
  simp [early, hl]

theorem Ctx.early_pair_poison_right (hl : l.kind ≠ .poison) (hr : r.kind = .poison) : x.early [l, r] none = some (x.pass r) := by
  simp [early, hl, hr]

theorem Ctx.early_pair_error_left (hl : l.kind = .error) (hr : r.kind ≠ .poison) : x.early [l, r] none = some (x.pass l) := by
  simp [early, hl, hr]

theorem Ctx.early_pair_error_right (hl : l.isBad = false) (hr : r.kind = .error) : x.early [l, r] none = some (x.pass r) := by
  simp only [Token.isBad, Bool.or_eq_false_iff, decide_eq_false_iff_not] at hl
  simp [early, hl, hr]

/-- Neither error nor poison: the stop rule and the widths decide. -/
theorem Ctx.early_pair_mixed (hl : l.isBad = false) (hr : r.isBad = false) : x.early [l, r] none = x.mixed [l, r] := by
  simp only [Token.isBad, Bool.or_eq_false_iff, decide_eq_false_iff_not] at hl hr
  simp [early, hl, hr]

theorem Ctx.mixed_stops (hl : l.kind = .stop) (hr : r.kind = .stop) :
    x.mixed [l, r] = some (x.stopTok (max l.stopLevel r.stopLevel)) := by
  simp [mixed, hl, hr, maxLevel]

theorem Ctx.mixed_stop_left (hl : l.kind = .stop) (hr : r.kind = .data) : x.mixed [l, r] = some (x.errOf l errStopMix) := by
  simp [mixed, hl, hr]

theorem Ctx.mixed_stop_right (hl : l.kind = .data) (hr : r.kind = .stop) : x.mixed [l, r] = some (x.errOf r errStopMix) := by
  simp [mixed, hl, hr]

theorem Ctx.mixed_width_left (hl : l.kind = .data) (hr : r.kind = .data) (hw : l.lanes.length ≠ x.width) :
    x.mixed [l, r] = some (x.errOf l errWidth) := by
  simp [mixed, hl, hr, hw]

theorem Ctx.mixed_width_right (hl : l.kind = .data) (hr : r.kind = .data) (hlw : l.lanes.length = x.width)
    (hrw : r.lanes.length ≠ x.width) : x.mixed [l, r] = some (x.errOf r errWidth) := by
  simp [mixed, hl, hr, hlw, hrw]

theorem Ctx.early_single_bad (hl : l.isBad = true) : x.early [l] none = some (x.pass l) := by
  simp only [Token.isBad, Bool.or_eq_true, decide_eq_true_eq] at hl
  rcases hl with hl | hl <;> simp [early, hl]

theorem Ctx.early_single_stop (hl : l.kind = .stop) : x.early [l] none = some (x.stopTok l.stopLevel) := by
  simp [early, mixed, hl, maxLevel]

theorem Ctx.early_single_width (hl : l.kind = .data) (hw : l.lanes.length ≠ x.width) :
    x.early [l] none = some (x.errOf l errWidth) := by
  simp [early, mixed, hl, hw]

theorem Token.isBad_of_kind {k : Kind} (h : l.kind = k) (hk : k ≠ .error := by decide) (hp : k ≠ .poison := by decide) :
    l.isBad = false := by
  simp [Token.isBad, h, hk, hp]

end

section
variable {i : FormA → Instr} {f : FormA} {s : State} {x : Ctx} {l r t : Token} (h : firing (i f) s = some x)
include h

/-- What two operands emit before they reach `execute` leaves on both targets. -/
theorem exec_pair_early (hi : i ∈ pairOps) (hl : x.fields.l = some l) (hr : x.fields.r = some r)
    (ht : x.early [l, r] none = some t) : exec (i f) s = .next (x.after s (x.emit f.c t)) := by
  obtain ⟨o, op, ho, he⟩ := exec_pair hi f
  have hops : x.opL ++ x.opR = [l, r] := by simp [Ctx.opL, Ctx.opR, hl, hr]
  rw [he, alu2_fire ho h, hops, ht, Option.getD_some]

/-- What one operand emits before it reaches `execute` leaves on both targets. -/
theorem exec_single_early (hi : i ∈ singleOps) (hl : x.fields.l = some l) (ht : x.early [l] none = some t) :
    exec (i f) s = .next (x.after s (x.emit f.c t)) := by
  obtain ⟨o, op, ho, he⟩ := exec_single hi f
  have hops : x.opL = [l] := by simp [Ctx.opL, hl]
  rw [he, alu1_fire ho h, hops, ht, Option.getD_some]

end

/-- Settles O14, clause by clause, from what `early` gives for two operands and for one. -/
theorem operandsDecideBeforeExecution : Obligations.OperandsDecideBeforeExecution := by
  unfold Obligations.OperandsDecideBeforeExecution
  refine ⟨fun i hi f s x l r h _ hl hr => ?pair, fun i hi f s x l h hl => ?single⟩
  case pair =>
    have early {t : Token} := exec_pair_early (t := t) h hi hl hr
    have mixed {t : Token} (bl : l.isBad = false) (br : r.isBad = false) (ht : x.mixed [l, r] = some t) :=
      early ((Ctx.early_pair_mixed bl br).trans ht)
    exact ⟨fun kl => early (Ctx.early_pair_poison_left kl), fun kl kr => early (Ctx.early_pair_poison_right kl kr),
      fun kr kl => early (Ctx.early_pair_error_left kl kr), fun bl kr => early (Ctx.early_pair_error_right bl kr),
      fun kl kr => mixed (Token.isBad_of_kind kl) (Token.isBad_of_kind kr) (Ctx.mixed_stops kl kr),
      fun kl kr => mixed (Token.isBad_of_kind kl) (Token.isBad_of_kind kr) (Ctx.mixed_stop_left kl kr),
      fun kl kr => mixed (Token.isBad_of_kind kl) (Token.isBad_of_kind kr) (Ctx.mixed_stop_right kl kr),
      fun kl kr wl => mixed (Token.isBad_of_kind kl) (Token.isBad_of_kind kr) (Ctx.mixed_width_left kl kr wl),
      fun kl kr wl wr => mixed (Token.isBad_of_kind kl) (Token.isBad_of_kind kr) (Ctx.mixed_width_right kl kr wl wr)⟩
  case single =>
    have early {t : Token} := exec_single_early (t := t) h hi hl
    exact ⟨fun bl => early (Ctx.early_single_bad bl), fun kl => early (Ctx.early_single_stop kl),
      fun kl wl => early (Ctx.early_single_width kl wl)⟩

end Sys2Proof.Machine
end

section
/-! PROOF of O17, O18, O19 and O20. The elements of a type as bit vectors, what an element-wise operation gives for them, and each
integer instruction's operation on one element (03 R63, 05 R107, R108). -/

namespace Sys2Proof.Machine

/-! ## Elements as bit vectors (03 R63) -/

theorem eltBits_pos (ty : Nat) : 0 < eltBits ty := by
  unfold eltBits
  split <;> decide

theorem eltBits_pair : eltBits 1 = 64 := rfl

theorem lt_of_mem_splitNat {n k x y : Nat} (h : y ∈ splitNat n k x) : y < 2 ^ n := by
  induction k generalizing x with
  | zero => cases h
  | succ k ih =>
    rcases List.mem_cons.mp h with rfl | h
    · exact Nat.mod_lt _ (Nat.two_pow_pos n)
    · exact ih h

theorem lt_of_mem_lanePairs {ls : List Lane} {y : Nat} (h : y ∈ lanePairs ls) : y < 2 ^ 64 := by
  induction ls using lanePairs.induct with
  | case1 a b rest ih =>
    rcases List.mem_cons.mp h with rfl | h
    · have := a.isLt; have := b.isLt; omega
    · exact ih h
  | case2 ls hne => rw [lanePairs.eq_2 ls hne] at h; cases h

/-- Every element fits its type. -/
theorem lt_of_mem_elems {ty : Nat} {ls : List Lane} {y : Nat} (h : y ∈ elems ty ls) : y < 2 ^ eltBits ty := by
  unfold elems at h
  split at h
  · next ht => subst ht; exact lt_of_mem_lanePairs h
  · obtain ⟨l, -, hl⟩ := List.mem_flatMap.mp h
    exact lt_of_mem_splitNat hl

/-- The elements are those of the bit vectors. -/
theorem elems_eq_bvElems (ty : Nat) (ls : List Lane) : elems ty ls = (bvElems ty ls).map BitVec.toNat := by
  have hid : ∀ y ∈ elems ty ls, (BitVec.toNat ∘ BitVec.ofNat (eltBits ty)) y = id y := fun y hy => by
    rw [Function.comp_apply, BitVec.toNat_ofNat, Nat.mod_eq_of_lt (lt_of_mem_elems hy), id]
  rw [bvElems, List.map_map, List.map_congr_left hid, List.map_id]

theorem zip3_pair (g : Nat → Nat → Except ErrCode Nat) (xs ys : List Nat) :
    zip3 (fun x y _ => g x y) xs ys ys = List.zipWith g xs ys := by
  induction xs generalizing ys with
  | nil => rfl
  | cons x xs ih =>
    cases ys with
    | nil => rfl
    | cons y ys => rw [zip3, ih, List.zipWith_cons_cons]

theorem zip3_single (g : Nat → Except ErrCode Nat) (xs : List Nat) : zip3 (fun x _ _ => g x) xs xs xs = xs.map g := by
  rw [zip3_pair (fun x _ => g x), List.zipWith_self]

theorem allOk_ok {α : Type} (xs : List α) : allOk (xs.map .ok) = .ok xs := by
  induction xs with
  | nil => rfl
  | cons x xs ih => rw [List.map_cons, allOk, ih, Except.map]

/-- An element-wise result on two operands. -/
theorem elementwise_pair (ty : Nat) (g : Nat → Nat → Except ErrCode Nat) (a b : List Lane) :
    elementwise ty (fun x y _ => g x y) a b b = (allOk (List.zipWith g (elems ty a) (elems ty b))).map (ofElems ty) := by
  rw [elementwise, zip3_pair]

/-- An element-wise result on one operand. -/
theorem elementwise_single (ty : Nat) (g : Nat → Except ErrCode Nat) (a : List Lane) :
    elementwise ty (fun x _ _ => g x) a a a = (allOk ((elems ty a).map g)).map (ofElems ty) := by
  rw [elementwise, zip3_single]

section
variable {ty : Nat}

theorem intOp_single {g : Nat → Nat} {h : BitVec (eltBits ty) → BitVec (eltBits ty)} (hg : ∀ x, g x.toNat = (h x).toNat)
    (a : List Lane) : intOp ty (fun x _ _ => g x) a a a = .ok (onElems1 ty h a) := by
  have hmap : (elems ty a).map (fun x => (.ok (g x) : Except ErrCode Nat)) = (((bvElems ty a).map h).map BitVec.toNat).map .ok := by
    rw [elems_eq_bvElems, List.map_map, List.map_map, List.map_map]
    exact List.map_congr_left fun x _ => by simp only [Function.comp_apply, hg]
  rw [intOp, elementwise_single, hmap, allOk_ok]
  rfl

theorem intOp_pair {g : Nat → Nat → Nat} {h : BitVec (eltBits ty) → BitVec (eltBits ty) → BitVec (eltBits ty)}
    (hg : ∀ x y, g x.toNat y.toNat = (h x y).toNat) (a b : List Lane) :
    intOp ty (fun x y _ => g x y) a b b = .ok (onElems2 ty h a b) := by
  have hzip : List.zipWith (fun x y => (.ok (g x y) : Except ErrCode Nat)) (elems ty a) (elems ty b) =
      ((List.zipWith h (bvElems ty a) (bvElems ty b)).map BitVec.toNat).map .ok := by
    rw [elems_eq_bvElems, elems_eq_bvElems, List.zipWith_map, List.map_zipWith, List.map_zipWith]
    simp only [hg]
  rw [intOp, elementwise_pair, hzip, allOk_ok]
  rfl

/-! ## Numbers of elements and lanes (02 R44, 03 R63) -/

theorem splitNat_length (n k x : Nat) : (splitNat n k x).length = k := by
  induction k generalizing x with
  | zero => rfl
  | succ k ih => rw [splitNat, List.length_cons, ih]

theorem lanePairs_length (ls : List Lane) : (lanePairs ls).length = ls.length / 2 := by
  induction ls using lanePairs.induct with
  | case1 a b rest ih => rw [lanePairs, List.length_cons, ih, List.length_cons, List.length_cons]; omega
  | case2 ls hne =>
    rw [lanePairs.eq_2 ls hne]
    match ls with
    | [] => rfl
    | [_] => simp
    | a :: b :: rest => exact absurd rfl (hne a b rest)

theorem elems_length (ty : Nat) (ls : List Lane) :
    (elems ty ls).length = if ty = 1 then ls.length / 2 else ls.length * (32 / eltBits ty) := by
  unfold elems
  split
  · exact lanePairs_length ls
  · rw [List.length_flatMap]
    simp only [splitNat_length, List.map_const', List.sum_replicate_nat]

theorem bvElems_length_congr {a b : List Lane} (h : a.length = b.length) : (bvElems ty a).length = (bvElems ty b).length := by
  rw [bvElems, bvElems, List.length_map, List.length_map, elems_length, elems_length, h]

theorem immLane_ne_nil (ty : Nat) (imm : BitVec 25) : immLane ty imm ≠ [] := by
  unfold immLane
  split <;> exact List.cons_ne_nil _ _

theorem immLanes_length (ty : Nat) (imm : BitVec 25) (w : Nat) : (immLanes ty imm w).length = w := by
  have hpos : 0 < (immLane ty imm).length := List.length_pos_iff.mpr (immLane_ne_nil ty imm)
  have hle : w ≤ ((List.replicate w (immLane ty imm)).flatten).length := by
    rw [List.length_flatten, List.map_replicate, List.sum_replicate_nat]
    exact Nat.le_mul_of_pos_right w hpos
  rw [immLanes, List.length_take, Nat.min_eq_left hle]

theorem Ctx.length_of_dataL {x : Ctx} {a : List Lane} (h : x.dataL a) : a.length = x.width := by
  obtain ⟨t, -, -, -, hw⟩ := h
  exact hw

theorem Ctx.length_of_dataB {x : Ctx} {f : FormA} {b : List Lane} (h : x.dataB f b) : b.length = x.width := by
  obtain ⟨-, -, rfl⟩ | ⟨-, t, -, -, -, hw⟩ := h
  · exact immLanes_length _ _ _
  · exact hw

/-! ## Reading and wrapping (03 R63) -/

theorem wrap_eq_toNat_ofInt (n : Nat) (z : Int) : wrap n z = (BitVec.ofInt n z).toNat := by
  rw [wrap, BitVec.toNat_ofInt, Int.natCast_pow]
  rfl

theorem sInt_toNat {n : Nat} (x : BitVec n) : sInt n x.toNat = x.toInt := by
  have hmod : x.toNat % 2 ^ n = x.toNat := Nat.mod_eq_of_lt x.isLt
  rw [sInt, hmod, BitVec.toInt_eq_msb_cond, BitVec.msb_eq_decide]
  cases n with
  | zero => simp [BitVec.of_length_zero]
  | succ n => simp

/-- An element as the integer that its type reads. -/
theorem readElem_toNat (x : BitVec (eltBits ty)) : readElem ty x.toNat = bvInt (tySigned ty) x := by
  rw [readElem, bvInt, sInt_toNat, Nat.mod_eq_of_lt x.isLt]

theorem ofInt_bvInt {n : Nat} (signed : Bool) (x : BitVec n) : BitVec.ofInt n (bvInt signed x) = x := by
  cases signed
  · exact (BitVec.ofInt_natCast n x.toNat).trans (BitVec.ofNat_toNat _ _ |>.trans (BitVec.setWidth_eq x))
  · exact BitVec.ofInt_toInt

theorem wrapOp_single {g : Int → Int} {h : BitVec (eltBits ty) → BitVec (eltBits ty)}
    (hg : ∀ x, BitVec.ofInt (eltBits ty) (g (bvInt (tySigned ty) x)) = h x) (a : List Lane) :
    wrapOp ty (fun x _ _ => g x) a a a = .ok (onElems1 ty h a) := by
  rw [wrapOp]
  exact intOp_single (fun x => by rw [readElem_toNat, wrap_eq_toNat_ofInt, hg]) a

theorem wrapOp_pair {g : Int → Int → Int} {h : BitVec (eltBits ty) → BitVec (eltBits ty) → BitVec (eltBits ty)}
    (hg : ∀ x y, BitVec.ofInt (eltBits ty) (g (bvInt (tySigned ty) x) (bvInt (tySigned ty) y)) = h x y) (a b : List Lane) :
    wrapOp ty (fun x y _ => g x y) a b b = .ok (onElems2 ty h a b) := by
  rw [wrapOp]
  exact intOp_pair (fun x y => by rw [readElem_toNat, readElem_toNat, wrap_eq_toNat_ofInt, hg]) a b

/-- A shift or a rotation by b mod n. -/
theorem shiftOp_pair {g : Nat → Nat → Nat} {h : BitVec (eltBits ty) → Nat → BitVec (eltBits ty)}
    (hg : ∀ x s, s < eltBits ty → g x.toNat s % 2 ^ eltBits ty = (h x s).toNat) (a b : List Lane) :
    shiftOp ty g a b b = .ok (onElems2 ty (fun x y => h x (y.toNat % eltBits ty)) a b) := by
  rw [shiftOp]
  exact intOp_pair (fun x y => hg x _ (Nat.mod_lt _ (eltBits_pos ty))) a b

end

/-! ## One element of each operation (05 R108) -/

section
variable {n : Nat} (x y : BitVec n) (s : Bool)

theorem ofInt_add_bvInt : BitVec.ofInt n (bvInt s x + bvInt s y) = x + y := by
  rw [BitVec.ofInt_add, ofInt_bvInt, ofInt_bvInt]

theorem ofInt_sub_bvInt : BitVec.ofInt n (bvInt s x - bvInt s y) = x - y := by
  rw [Int.sub_eq_add_neg, BitVec.ofInt_add, BitVec.ofInt_neg, ofInt_bvInt, ofInt_bvInt, BitVec.sub_eq_add_neg]

theorem ofInt_mul_bvInt : BitVec.ofInt n (bvInt s x * bvInt s y) = x * y := by
  rw [BitVec.ofInt_mul, ofInt_bvInt, ofInt_bvInt]

theorem ofInt_neg_bvInt : BitVec.ofInt n (-bvInt s x) = -x := by rw [BitVec.ofInt_neg, ofInt_bvInt]

/-- The upper half of a number of 2n bits. -/
theorem ofInt_ediv_two_pow (z : Int) : BitVec.ofInt n (z / (2 : Int) ^ n) = (BitVec.ofInt (2 * n) z >>> n).setWidth n := by
  have hpow : ((2 ^ (2 * n) : Nat) : Int) = 2 ^ n * 2 ^ n := by rw [Nat.two_mul, Int.natCast_pow, Int.pow_add]; rfl
  have hcast : ((2 ^ n : Nat) : Int) = 2 ^ n := Int.natCast_pow 2 n
  have hne : (2 : Int) ^ n ≠ 0 := Int.ne_of_gt (Int.pow_pos (by decide))
  have hlow : ((BitVec.ofInt (2 * n) z).toNat : Int) = z % (2 ^ n * 2 ^ n) := by
    rw [BitVec.toNat_ofInt, hpow, Int.toNat_of_nonneg (Int.emod_nonneg _ (Int.mul_ne_zero hne hne))]
  have hz : z / 2 ^ n = ((BitVec.ofInt (2 * n) z).toNat / 2 ^ n : Nat) + 2 ^ n * (z / (2 ^ n * 2 ^ n)) := by
    have hsplit : z % (2 ^ n * 2 ^ n) + 2 ^ n * (2 ^ n * (z / (2 ^ n * 2 ^ n))) = z := by
      rw [← Int.mul_assoc, Int.emod_add_mul_ediv]
    push_cast
    rw [hlow, ← Int.add_mul_ediv_left _ _ hne, hsplit]
  apply BitVec.eq_of_toNat_eq
  rw [hz, BitVec.toNat_ofInt, hcast, Int.add_mul_emod_self_left, BitVec.toNat_setWidth,
    BitVec.toNat_ushiftRight, Nat.shiftRight_eq_div_pow]
  norm_cast

theorem toNat_sub_and : x.toNat - (x.toNat &&& y.toNat) = (x &&& ~~~y).toNat := by
  have hz : (x &&& ~~~y) &&& (x &&& y) = 0#n := by
    ext i hi
    simp only [BitVec.getElem_and, BitVec.getElem_not, BitVec.getElem_zero]
    cases x[i] <;> cases y[i] <;> rfl
  have hu : x &&& ~~~y ||| x &&& y = x := by
    ext i hi
    simp only [BitVec.getElem_and, BitVec.getElem_not, BitVec.getElem_or]
    cases x[i] <;> cases y[i] <;> rfl
  have hsum := BitVec.toNat_add_of_and_eq_zero hz
  rw [BitVec.add_eq_or_of_and_eq_zero _ _ hz, hu, BitVec.toNat_and x y] at hsum
  omega

end

section
variable {n : Nat} (x : BitVec n) {k : Nat}

theorem toNat_shl : x.toNat * 2 ^ k % 2 ^ n = (x <<< k).toNat := by rw [BitVec.toNat_shiftLeft, Nat.shiftLeft_eq]

theorem toNat_shr : x.toNat / 2 ^ k % 2 ^ n = (x >>> k).toNat := by
  rw [BitVec.toNat_ushiftRight, Nat.shiftRight_eq_div_pow, Nat.mod_eq_of_lt (Nat.lt_of_le_of_lt (Nat.div_le_self _ _) x.isLt)]

theorem sarElem_eq : sarElem n x.toNat k % 2 ^ n = (x.sshiftRight k).toNat := by
  have h : BitVec.ofInt n (x.toInt / (2 : Int) ^ k) = x.sshiftRight k := by
    rw [← BitVec.ofInt_toInt (x := x.sshiftRight k), BitVec.toInt_sshiftRight, Int.shiftRight_eq_div_pow, Int.natCast_pow]
    rfl
  rw [sarElem, sInt_toNat, wrap_eq_toNat_ofInt, h, Nat.mod_eq_of_lt (BitVec.isLt _)]

/-- The two parts of a rotation do not overlap. -/
theorem rolElem_eq_or (hk : k ≤ n) : rolElem n x.toNat k = x.toNat <<< k % 2 ^ n ||| x.toNat >>> (n - k) := by
  have hn : 2 ^ n = 2 ^ k * 2 ^ (n - k) := by rw [← Nat.pow_add, Nat.add_sub_cancel' hk]
  have hlow : x.toNat / 2 ^ (n - k) < 2 ^ k := Nat.div_lt_of_lt_mul (by rw [Nat.mul_comm, ← hn]; exact x.isLt)
  have hhigh : x.toNat * 2 ^ k % 2 ^ n = 2 ^ k * (x.toNat % 2 ^ (n - k)) := by rw [Nat.mul_comm, hn, Nat.mul_mod_mul_left]
  rw [rolElem, Nat.shiftLeft_eq, Nat.shiftRight_eq_div_pow, hhigh, Nat.two_pow_add_eq_or_of_lt hlow]

theorem rolElem_eq (hk : k < n) : rolElem n x.toNat k % 2 ^ n = (x.rotateLeft k).toNat := by
  have h : rolElem n x.toNat k = (x.rotateLeft k).toNat := by
    rw [rolElem_eq_or x (Nat.le_of_lt hk), BitVec.toNat_rotateLeft, Nat.mod_eq_of_lt hk]
  rw [h, Nat.mod_eq_of_lt (BitVec.isLt _)]

theorem rolElem_sub_eq (hk : k < n) : rolElem n x.toNat (n - k) % 2 ^ n = (x.rotateRight k).toNat := by
  have h : rolElem n x.toNat (n - k) = (x.rotateRight k).toNat := by
    rw [rolElem_eq_or x (Nat.sub_le n k), BitVec.toNat_rotateRight, Nat.mod_eq_of_lt hk, Nat.sub_sub_self (Nat.le_of_lt hk),
      Nat.or_comm]
  rw [h, Nat.mod_eq_of_lt (BitVec.isLt _)]

end

/-! ## The upper half of a product (05 R108) -/

section
variable {n : Nat} (x y : BitVec n)

theorem mulHigh_signed : BitVec.ofInt n (bvInt true x * bvInt true y / (2 : Int) ^ n) =
    ((x.signExtend (2 * n) * y.signExtend (2 * n)) >>> n).setWidth n := by
  have hx : ∀ a : BitVec n, BitVec.ofInt (2 * n) (bvInt true a) = a.signExtend (2 * n) := fun _ => rfl
  rw [ofInt_ediv_two_pow, BitVec.ofInt_mul, hx, hx]

theorem mulHigh_unsigned : BitVec.ofInt n (bvInt false x * bvInt false y / (2 : Int) ^ n) =
    ((x.zeroExtend (2 * n) * y.zeroExtend (2 * n)) >>> n).setWidth n := by
  have hx : ∀ a : BitVec n, BitVec.ofInt (2 * n) (bvInt false a) = a.zeroExtend (2 * n) := fun a => by
    apply BitVec.eq_of_toNat_eq
    simp [bvInt]
  rw [ofInt_ediv_two_pow, BitVec.ofInt_mul, hx, hx]

/-! ## Order, magnitude and division (05 R108) -/

theorem ofInt_min_signed : BitVec.ofInt n (min (bvInt true x) (bvInt true y)) = if x.sle y then x else y := by
  have h : (x.sle y = true) ↔ bvInt true x ≤ bvInt true y := BitVec.sle_iff_toInt_le
  by_cases hle : bvInt true x ≤ bvInt true y
  · rw [Int.min_eq_left hle, if_pos (h.mpr hle), ofInt_bvInt]
  · rw [Int.min_eq_right (Int.le_of_lt (Int.not_le.mp hle)), if_neg (mt h.mp hle), ofInt_bvInt]

theorem ofInt_max_signed : BitVec.ofInt n (max (bvInt true x) (bvInt true y)) = if x.sle y then y else x := by
  have h : (x.sle y = true) ↔ bvInt true x ≤ bvInt true y := BitVec.sle_iff_toInt_le
  by_cases hle : bvInt true x ≤ bvInt true y
  · rw [Int.max_eq_right hle, if_pos (h.mpr hle), ofInt_bvInt]
  · rw [Int.max_eq_left (Int.le_of_lt (Int.not_le.mp hle)), if_neg (mt h.mp hle), ofInt_bvInt]

theorem ule_iff_bvInt : (x.ule y = true) ↔ bvInt false x ≤ bvInt false y := by
  rw [BitVec.ule_iff_toNat_le]
  exact Int.ofNat_le.symm

theorem ofInt_min_unsigned : BitVec.ofInt n (min (bvInt false x) (bvInt false y)) = if x.ule y then x else y := by
  by_cases hle : bvInt false x ≤ bvInt false y
  · rw [Int.min_eq_left hle, if_pos ((ule_iff_bvInt x y).mpr hle), ofInt_bvInt]
  · rw [Int.min_eq_right (Int.le_of_lt (Int.not_le.mp hle)), if_neg (mt (ule_iff_bvInt x y).mp hle), ofInt_bvInt]

theorem ofInt_max_unsigned : BitVec.ofInt n (max (bvInt false x) (bvInt false y)) = if x.ule y then y else x := by
  by_cases hle : bvInt false x ≤ bvInt false y
  · rw [Int.max_eq_right hle, if_pos ((ule_iff_bvInt x y).mpr hle), ofInt_bvInt]
  · rw [Int.max_eq_left (Int.le_of_lt (Int.not_le.mp hle)), if_neg (mt (ule_iff_bvInt x y).mp hle), ofInt_bvInt]

theorem ofInt_abs_signed : BitVec.ofInt n (if bvInt true x < 0 then -bvInt true x else bvInt true x) = if x.msb then -x else x := by
  have h : (x.msb = true) ↔ bvInt true x < 0 := BitVec.msb_eq_toInt (x := x) ▸ decide_eq_true_iff
  rw [apply_ite (BitVec.ofInt n), ofInt_neg_bvInt, ofInt_bvInt]
  exact ite_of_iff h.symm rfl rfl

theorem ofInt_tdiv_signed : BitVec.ofInt n ((bvInt true x).tdiv (bvInt true y)) = x.sdiv y := by
  apply BitVec.eq_of_toInt_eq
  rw [BitVec.toInt_ofInt, BitVec.toInt_sdiv]
  rfl

theorem ofInt_tdiv_unsigned : BitVec.ofInt n ((bvInt false x).tdiv (bvInt false y)) = x / y := by
  have h : (bvInt false x).tdiv (bvInt false y) = ((x.toNat / y.toNat : Nat) : Int) := (Int.ofNat_tdiv _ _).symm
  apply BitVec.eq_of_toNat_eq
  rw [h, BitVec.ofInt_natCast, BitVec.toNat_ofNat, BitVec.toNat_udiv,
    Nat.mod_eq_of_lt (Nat.lt_of_le_of_lt (Nat.div_le_self _ _) x.isLt)]

theorem ofInt_tmod_signed : BitVec.ofInt n ((bvInt true x).tmod (bvInt true y)) = x.srem y := by
  rw [← BitVec.ofInt_toInt (x := x.srem y), BitVec.toInt_srem]
  rfl

theorem ofInt_tmod_unsigned : BitVec.ofInt n ((bvInt false x).tmod (bvInt false y)) = x % y := by
  have h : (bvInt false x).tmod (bvInt false y) = ((x.toNat % y.toNat : Nat) : Int) := (Int.ofNat_tmod _ _).symm
  apply BitVec.eq_of_toNat_eq
  rw [h, BitVec.ofInt_natCast, BitVec.toNat_ofNat, BitVec.toNat_umod,
    Nat.mod_eq_of_lt (Nat.lt_of_le_of_lt (Nat.mod_le _ _) x.isLt)]

/-! ## Counts of bits (05 R108) -/

/-- The top bit of a number that is not 0 is bounded on both sides by the zeros before it. -/
theorem clzElem_eq : clzElem n x.toNat = x.clz.toNat := by
  unfold clzElem
  split
  · next h =>
    rw [BitVec.clz_eq_iff_eq_zero.mpr (BitVec.eq_of_toNat_eq (h.trans BitVec.toNat_zero.symm))]
    simp
  · next h =>
    have hx : x ≠ 0#n := fun h0 => h (by rw [h0]; rfl)
    have hlt : x.clz.toNat < n := by
      have := BitVec.clz_lt_iff_ne_zero.mpr hx
      rw [BitVec.lt_def] at this
      simpa using this
    have hlog : x.toNat.log2 = n - 1 - x.clz.toNat := by
      refine (Nat.log2_eq_iff h).mpr ⟨BitVec.two_pow_sub_clz_le_toNat_of_ne_zero (by omega) hx, ?_⟩
      rw [show n - 1 - x.clz.toNat + 1 = n - x.clz.toNat by omega]
      exact BitVec.toNat_lt_two_pow_sub_clz
    omega

/-- The trailing zeros of the low n bits: zeros up to there, and then a one. -/
theorem ctzElem_spec (n v : Nat) : ctzElem n v ≤ n ∧ (∀ i < ctzElem n v, v.testBit i = false) ∧
    (ctzElem n v < n → v.testBit (ctzElem n v) = true) := by
  induction n generalizing v with
  | zero => exact ⟨Nat.le_refl _, fun i hi => absurd hi (Nat.not_lt_zero i), fun h => absurd h (Nat.lt_irrefl _)⟩
  | succ n ih =>
    obtain ⟨hle, hzero, hone⟩ := ih (v / 2)
    by_cases hodd : v % 2 = 1
    · have h0 : ctzElem (n + 1) v = 0 := if_pos hodd
      rw [h0]
      exact ⟨Nat.zero_le _, fun i hi => absurd hi (Nat.not_lt_zero i), fun _ => by simp [Nat.testBit_zero, hodd]⟩
    · have h1 : ctzElem (n + 1) v = ctzElem n (v / 2) + 1 := (if_neg hodd).trans (Nat.add_comm _ _)
      rw [h1]
      refine ⟨Nat.succ_le_succ hle, fun i hi => ?_, fun h => ?_⟩
      · cases i with
        | zero => simp [Nat.testBit_zero, hodd]
        | succ i => rw [Nat.testBit_succ]; exact hzero i (Nat.lt_of_succ_lt_succ hi)
      · rw [Nat.testBit_succ]; exact hone (Nat.lt_of_succ_lt_succ h)

theorem ctzElem_eq : ctzElem n x.toNat = x.ctz.toNat := by
  obtain ⟨hle, hzero, hone⟩ := ctzElem_spec n x.toNat
  by_cases hx : x = 0#n
  · have hn : ctzElem n x.toNat = n := by
      refine Nat.le_antisymm hle (Nat.not_lt.mp fun hlt => ?_)
      have := hone hlt
      rw [hx] at this
      simp at this
    have hc : x.ctz = BitVec.ofNat n n := by
      rw [BitVec.ctz_eq_reverse_clz, BitVec.clz_eq_iff_eq_zero.mpr (by rw [hx]; simp)]
      simp
    rw [hn, hc]
    simp
  · have hbit : x.toNat.testBit x.ctz.toNat = true := BitVec.getLsbD_true_ctz_of_ne_zero hx
    have hlt : x.ctz.toNat < n := Nat.lt_of_not_le fun hge => by
      rw [BitVec.testBit_toNat, BitVec.getLsbD_of_ge _ _ hge] at hbit
      cases hbit
    refine Nat.le_antisymm (Nat.not_lt.mp fun h => ?_) (Nat.not_lt.mp fun h => ?_)
    · rw [hzero _ h] at hbit; cases hbit
    · have hz : x.toNat.testBit (ctzElem n x.toNat) = false := BitVec.getLsbD_false_of_lt_ctz h
      rw [hone (Nat.lt_trans h hlt)] at hz; cases hz

theorem popElem_succ (n v : Nat) : popElem (n + 1) v = popElem n v + (v.testBit n).toNat := by
  induction n generalizing v with
  | zero => rcases Nat.mod_two_eq_zero_or_one v with h | h <;> simp [popElem, Nat.testBit_zero, h]
  | succ n ih => rw [popElem, ih (v / 2), ← Nat.add_assoc, ← popElem, Nat.testBit_succ]

theorem popElem_eq : popElem n x.toNat = x.cpop.toNat := by
  have h : ∀ k, popElem k x.toNat = x.cpopNatRec k 0 := fun k => by
    induction k with
    | zero => rfl
    | succ k ih =>
      rw [popElem_succ, ih, BitVec.cpopNatRec_succ, BitVec.cpopNatRec_eq (0 + (x.getLsbD k).toNat), Nat.zero_add,
        BitVec.testBit_toNat]
  rw [h, BitVec.toNat_cpop]

end

/-! ## Types that a row accepts (02 R42, R43) -/

theorem ty_mem_of_chkA {f : FormA} {tys : List Nat} {sub : BitVec 5 → Bool} {immf : Bool} {tg : Common → Bool}
    (h : chkA f tys sub immf tg = true) : f.ty.toNat ∈ tys := by
  simp only [chkA, Bool.and_eq_true, List.contains_iff_mem] at h
  obtain ⟨⟨⟨hty, -⟩, -⟩, -⟩ := h
  exact hty

theorem tySigned_of_mem_tyI {ty : Nat} (h : ty ∈ tyI ++ ty64) : tySigned ty = true := by
  simp only [tyI, ty64, List.cons_append, List.nil_append, List.mem_cons, List.not_mem_nil, or_false] at h
  rcases h with rfl | rfl | rfl | rfl <;> rfl

theorem tySigned_of_mem_tyN {ty : Nat} (h : ty ∈ tyN) : tySigned ty = false := by
  simp only [tyN, List.mem_cons, List.not_mem_nil, or_false] at h
  rcases h with rfl | rfl | rfl <;> rfl

/-- Only the paired type can meet an odd width. -/
theorem oddPair_of_not_mem {ty w : Nat} {tys : List Nat} (h : ty ∈ tys) (h1 : 1 ∉ tys := by decide) :
    oddPair ty w = false := by
  have hne : ty ≠ 1 := fun he => h1 (he ▸ h)
  simp [oddPair, hne]

/-! ## Instructions that compute, on data of the context's width (01 R21, 05 R103) -/

section
variable {i : Instr} {o : BitVec 9} {f : FormA} {s : State} {x : Ctx} {op : List Lane → List Lane → List Lane → Result}
  {a b ls : List Lane} {e : ErrCode}
variable (hi : i.opForm = some (o, .a f)) (h : firing i s = some x) (ha : x.dataL a)
include hi h ha

theorem exec_alu1_data (he : ∀ s, exec i s = .next ((alu1 o.toNat f op).run s)) (hodd : oddPair f.ty.toNat x.width = false) :
    exec i s = .next (x.after s (x.emit f.c (x.result (op a a a)))) := by
  rw [he, alu1_fire hi h, Ctx.early_data1 ha, hodd, Ctx.lanesL_data ha]
  rfl

theorem exec_alu1_ok (he : ∀ s, exec i s = .next ((alu1 o.toNat f op).run s)) (hodd : oddPair f.ty.toNat x.width = false)
    (hop : op a a a = .ok ls) : exec i s = .next (x.after s (x.emit f.c (x.tok .data ls))) := by
  rw [exec_alu1_data hi h ha he hodd, hop, Ctx.result_ok]

variable (hb : x.dataB f b)
include hb

theorem exec_alu2_data (he : ∀ s, exec i s = .next ((alu2 o.toNat f op).run s)) (hodd : oddPair f.ty.toNat x.width = false) :
    exec i s = .next (x.after s (x.emit f.c (x.result (op a b b)))) := by
  rw [he, alu2_fire hi h, Ctx.early_data2 ha hb, hodd, Ctx.lanesL_data ha, Ctx.lanesR_data hb]
  rfl

theorem exec_alu2_ok (he : ∀ s, exec i s = .next ((alu2 o.toNat f op).run s)) (hodd : oddPair f.ty.toNat x.width = false)
    (hop : op a b b = .ok ls) : exec i s = .next (x.after s (x.emit f.c (x.tok .data ls))) := by
  rw [exec_alu2_data hi h ha hb he hodd, hop, Ctx.result_ok]

theorem exec_alu2_error (he : ∀ s, exec i s = .next ((alu2 o.toNat f op).run s)) (hodd : oddPair f.ty.toNat x.width = false)
    (hop : op a b b = .error e) : exec i s = .next (x.after s (x.emit f.c (x.err e))) := by
  rw [exec_alu2_data hi h ha hb he hodd, hop, Ctx.result_error]

end

/-! ## The instructions -/

/-- Settles O17, from the operation of each instruction on one pair of elements. -/
theorem integerPairsCompute : Obligations.IntegerPairsCompute := by
  unfold Obligations.IntegerPairsCompute
  intro p hp f s x a b h hwf ha hb hodd
  have signed {tys : List Nat} {sub : BitVec 5 → Bool} {immf : Bool} {tg : Common → Bool} (hc : chkA f tys sub immf tg = true)
      (hsub : tys ⊆ tyI ++ ty64 := by decide) : tySigned f.ty.toNat = true := tySigned_of_mem_tyI (hsub (ty_mem_of_chkA hc))
  have natural {sub : BitVec 5 → Bool} {immf : Bool} {tg : Common → Bool} (hc : chkA f tyN sub immf tg = true) :
      tySigned f.ty.toNat = false := tySigned_of_mem_tyN (ty_mem_of_chkA hc)
  simp only [List.mem_cons, List.not_mem_nil, or_false] at hp
  obtain rfl | rfl | rfl | rfl | rfl | rfl | rfl | rfl | rfl | rfl | rfl | rfl | rfl | rfl | rfl | rfl | rfl | rfl := hp
  · exact exec_alu2_ok (o := 0x060) rfl h ha hb (fun _ => rfl) hodd (wrapOp_pair (fun x y => ofInt_add_bvInt x y _) a b)
  · exact exec_alu2_ok (o := 0x061) rfl h ha hb (fun _ => rfl) hodd (wrapOp_pair (fun x y => ofInt_sub_bvInt x y _) a b)
  · exact exec_alu2_ok (o := 0x062) rfl h ha hb (fun _ => rfl) hodd (wrapOp_pair (fun x y => ofInt_mul_bvInt x y _) a b)
  · exact exec_alu2_ok (o := 0x063) rfl h ha hb (fun _ => rfl) hodd
      (wrapOp_pair (fun x y => by rw [signed hwf]; exact mulHigh_signed x y) a b)
  · exact exec_alu2_ok (o := 0x064) rfl h ha hb (fun _ => rfl) hodd
      (wrapOp_pair (fun x y => by rw [natural hwf]; exact mulHigh_unsigned x y) a b)
  · exact exec_alu2_ok (o := 0x06A) rfl h ha hb (fun _ => rfl) hodd (intOp_pair (fun x y => (BitVec.toNat_and x y).symm) a b)
  · exact exec_alu2_ok (o := 0x06B) rfl h ha hb (fun _ => rfl) hodd (intOp_pair (fun x y => (BitVec.toNat_or x y).symm) a b)
  · exact exec_alu2_ok (o := 0x06C) rfl h ha hb (fun _ => rfl) hodd (intOp_pair (fun x y => (BitVec.toNat_xor x y).symm) a b)
  · exact exec_alu2_ok (o := 0x06D) rfl h ha hb (fun _ => rfl) hodd (intOp_pair (fun x y => toNat_sub_and x y) a b)
  · exact exec_alu2_ok (o := 0x06F) rfl h ha hb (fun _ => rfl) hodd (shiftOp_pair (h := (· <<< ·)) (fun x _ _ => toNat_shl x) a b)
  · exact exec_alu2_ok (o := 0x070) rfl h ha hb (fun _ => rfl) hodd (shiftOp_pair (h := (· >>> ·)) (fun x _ _ => toNat_shr x) a b)
  · exact exec_alu2_ok (o := 0x071) rfl h ha hb (fun _ => rfl) hodd
      (shiftOp_pair (h := BitVec.sshiftRight) (fun x _ _ => sarElem_eq x) a b)
  · exact exec_alu2_ok (o := 0x072) rfl h ha hb (fun _ => rfl) hodd
      (shiftOp_pair (h := BitVec.rotateLeft) (fun x _ hk => rolElem_eq x hk) a b)
  · exact exec_alu2_ok (o := 0x073) rfl h ha hb (fun _ => rfl) hodd
      (shiftOp_pair (h := BitVec.rotateRight) (fun x _ hk => rolElem_sub_eq x hk) a b)
  · exact exec_alu2_ok (o := 0x074) rfl h ha hb (fun _ => rfl) hodd
      (wrapOp_pair (fun x y => by rw [signed hwf]; exact ofInt_min_signed x y) a b)
  · exact exec_alu2_ok (o := 0x075) rfl h ha hb (fun _ => rfl) hodd
      (wrapOp_pair (fun x y => by rw [signed hwf]; exact ofInt_max_signed x y) a b)
  · exact exec_alu2_ok (o := 0x076) rfl h ha hb (fun _ => rfl) hodd
      (wrapOp_pair (fun x y => by rw [natural hwf]; exact ofInt_min_unsigned x y) a b)
  · exact exec_alu2_ok (o := 0x077) rfl h ha hb (fun _ => rfl) hodd
      (wrapOp_pair (fun x y => by rw [natural hwf]; exact ofInt_max_unsigned x y) a b)

/-! ## Division (05 R108) -/

theorem allOk_eq_ok_of_forall {α β : Type} {g : α → Except ErrCode β} {h : α → β} {xs : List α} (hg : ∀ x ∈ xs, g x = .ok (h x)) :
    allOk (xs.map g) = .ok (xs.map h) := by
  rw [← allOk_ok, List.map_map]
  exact congrArg allOk (List.map_congr_left hg)

/-- A list with an error has an error as its result, whichever comes first, where all its errors are alike. -/
theorem allOk_eq_error {α : Type} {e : ErrCode} {rs : List (Except ErrCode α)} (he : .error e ∈ rs)
    (hall : ∀ e', .error e' ∈ rs → e' = e) : allOk rs = .error e := by
  induction rs with
  | nil => cases he
  | cons r rs ih =>
    cases r with
    | error e' => rw [allOk, hall e' List.mem_cons_self]
    | ok v =>
      have he' : .error e ∈ rs := (List.mem_cons.mp he).resolve_left nofun
      rw [allOk, ih he' fun e' h' => hall e' (List.mem_cons_of_mem _ h'), Except.map]

section
variable {ty : Nat} {g : Int → Int → Int} {h : BitVec (eltBits ty) → BitVec (eltBits ty) → BitVec (eltBits ty)}

/-- What a division gives for one pair of elements. -/
def divElem (ty : Nat) (h : BitVec (eltBits ty) → BitVec (eltBits ty) → BitVec (eltBits ty)) (x y : BitVec (eltBits ty)) :
    Except ErrCode Nat := if y = 0 then .error errArithDiv0 else .ok (h x y).toNat

theorem divOp_eq (hg : ∀ x y, BitVec.ofInt (eltBits ty) (g (bvInt (tySigned ty) x) (bvInt (tySigned ty) y)) = h x y)
    (a b : List Lane) :
    divOp ty g a b b = (allOk (List.zipWith (divElem ty h) (bvElems ty a) (bvElems ty b))).map (ofElems ty) := by
  rw [divOp, elementwise_pair, elems_eq_bvElems, elems_eq_bvElems, List.zipWith_map]
  congr 3
  funext x y
  have hz : (y.toNat % 2 ^ eltBits ty = 0) = (y = 0) := by
    rw [Nat.mod_eq_of_lt y.isLt, ← BitVec.toNat_zero (w := eltBits ty), BitVec.toNat_inj]
    rfl
  simp only [divElem, hz, readElem_toNat, wrap_eq_toNat_ofInt, hg]

theorem divOp_ok (hg : ∀ x y, BitVec.ofInt (eltBits ty) (g (bvInt (tySigned ty) x) (bvInt (tySigned ty) y)) = h x y)
    {a b : List Lane} (hb : ∀ e ∈ bvElems ty b, e ≠ 0) : divOp ty g a b b = .ok (onElems2 ty h a b) := by
  have hall : ∀ p ∈ (bvElems ty a).zip (bvElems ty b), divElem ty h p.1 p.2 = .ok (h p.1 p.2).toNat := fun p hp =>
    if_neg (hb p.2 (List.of_mem_zip hp).2)
  have hzip : List.zipWith (divElem ty h) (bvElems ty a) (bvElems ty b) =
      ((bvElems ty a).zip (bvElems ty b)).map fun p => divElem ty h p.1 p.2 :=
    (List.map_zip_eq_zipWith (f := fun p => divElem ty h p.1 p.2)).symm
  have hres : (((bvElems ty a).zip (bvElems ty b)).map fun p => (h p.1 p.2).toNat) =
      (List.zipWith h (bvElems ty a) (bvElems ty b)).map BitVec.toNat := by
    rw [List.map_zipWith, List.map_zip_eq_zipWith]
    rfl
  rw [divOp_eq hg, hzip, allOk_eq_ok_of_forall hall, hres]
  rfl

theorem divOp_error (hg : ∀ x y, BitVec.ofInt (eltBits ty) (g (bvInt (tySigned ty) x) (bvInt (tySigned ty) y)) = h x y)
    {a b : List Lane} (hlen : a.length = b.length) (hb : ∃ e ∈ bvElems ty b, e = 0) : divOp ty g a b b = .error errArithDiv0 := by
  obtain ⟨e, he, h0⟩ := hb
  obtain ⟨k, hk, hke⟩ := List.mem_iff_getElem.mp he
  have hka : k < (bvElems ty a).length := by rw [bvElems_length_congr hlen]; exact hk
  have hmem : .error errArithDiv0 ∈ List.zipWith (divElem ty h) (bvElems ty a) (bvElems ty b) := by
    refine List.mem_iff_getElem.mpr ⟨k, by rw [List.length_zipWith]; exact Nat.lt_min.mpr ⟨hka, hk⟩, ?_⟩
    rw [List.getElem_zipWith, divElem, if_pos (hke.trans h0)]
  have hall : ∀ e', .error e' ∈ List.zipWith (divElem ty h) (bvElems ty a) (bvElems ty b) → e' = errArithDiv0 := fun e' he' => by
    obtain ⟨j, hj, hje⟩ := List.mem_iff_getElem.mp he'
    rw [List.getElem_zipWith, divElem] at hje
    split at hje <;> cases hje
    rfl
  rw [divOp_eq hg, allOk_eq_error hmem hall]
  rfl

end

section
variable {i : Instr} {o : BitVec 9} {f : FormA} {s : State} {x : Ctx} {g : Int → Int → Int} {a b : List Lane}
  {h : BitVec (eltBits f.ty.toNat) → BitVec (eltBits f.ty.toNat) → BitVec (eltBits f.ty.toNat)}

/-- What a division instruction delivers. -/
theorem exec_div_data (hi : i.opForm = some (o, .a f)) (he : ∀ s, exec i s = .next ((alu2 o.toNat f (divOp f.ty.toNat g)).run s))
    (hf : firing i s = some x) (ha : x.dataL a) (hb : x.dataB f b) (hodd : oddPair f.ty.toNat x.width = false)
    (hg : ∀ u v, BitVec.ofInt (eltBits f.ty.toNat) (g (bvInt (tySigned f.ty.toNat) u) (bvInt (tySigned f.ty.toNat) v)) = h u v) :
    ((∀ e ∈ bvElems f.ty.toNat b, e ≠ 0) →
      exec i s = .next (x.after s (x.emit f.c (x.tok .data (onElems2 f.ty.toNat h a b))))) ∧
    ((∃ e ∈ bvElems f.ty.toNat b, e = 0) → exec i s = .next (x.after s (x.emit f.c (x.err errArithDiv0)))) :=
  ⟨fun hn => exec_alu2_ok hi hf ha hb he hodd (divOp_ok hg hn),
    fun hz => exec_alu2_error hi hf ha hb he hodd (divOp_error hg ((Ctx.length_of_dataL ha).trans (Ctx.length_of_dataB hb).symm) hz)⟩

end

/-- Settles O18, from the quotients and remainders of one pair of elements. -/
theorem divisionComputes : Obligations.DivisionComputes := by
  unfold Obligations.DivisionComputes
  intro p hp f s x a b h hwf ha hb
  simp only [List.mem_cons, List.not_mem_nil, or_false] at hp
  obtain rfl | rfl | rfl | rfl := hp
  · have hty := ty_mem_of_chkA hwf
    refine exec_div_data (o := 0x066) rfl (fun _ => rfl) h ha hb (oddPair_of_not_mem hty) fun u v => ?_
    rw [tySigned_of_mem_tyI (List.mem_append_left _ hty)]
    exact ofInt_tdiv_signed u v
  · have hty := ty_mem_of_chkA hwf
    refine exec_div_data (o := 0x067) rfl (fun _ => rfl) h ha hb (oddPair_of_not_mem hty) fun u v => ?_
    rw [tySigned_of_mem_tyN hty]
    exact ofInt_tdiv_unsigned u v
  · have hty := ty_mem_of_chkA hwf
    refine exec_div_data (o := 0x068) rfl (fun _ => rfl) h ha hb (oddPair_of_not_mem hty) fun u v => ?_
    rw [tySigned_of_mem_tyI (List.mem_append_left _ hty)]
    exact ofInt_tmod_signed u v
  · have hty := ty_mem_of_chkA hwf
    refine exec_div_data (o := 0x069) rfl (fun _ => rfl) h ha hb (oddPair_of_not_mem hty) fun u v => ?_
    rw [tySigned_of_mem_tyN hty]
    exact ofInt_tmod_unsigned u v

/-! ## One operand (05 R108) -/

theorem toNat_complement {n : Nat} (x : BitVec n) : 2 ^ n - 1 - x.toNat = (~~~x).toNat := by rw [BitVec.toNat_not]

/-- Settles O19, from the operation of each instruction on one element. -/
theorem integerSinglesCompute : Obligations.IntegerSinglesCompute := by
  unfold Obligations.IntegerSinglesCompute
  intro p hp f s x a h hwf ha hodd
  simp only [List.mem_cons, List.not_mem_nil, or_false] at hp
  obtain rfl | rfl | rfl | rfl | rfl | rfl := hp
  · exact exec_alu1_ok (o := 0x06E) rfl h ha (fun _ => rfl) hodd (intOp_single (fun x => toNat_complement x) a)
  · exact exec_alu1_ok (o := 0x078) rfl h ha (fun _ => rfl) hodd
      (wrapOp_single (fun x => by rw [tySigned_of_mem_tyI (ty_mem_of_chkA hwf)]; exact ofInt_abs_signed x) a)
  · exact exec_alu1_ok (o := 0x079) rfl h ha (fun _ => rfl) hodd (wrapOp_single (fun x => ofInt_neg_bvInt x _) a)
  · exact exec_alu1_ok (o := 0x07A) rfl h ha (fun _ => rfl) hodd (intOp_single (fun x => clzElem_eq x) a)
  · exact exec_alu1_ok (o := 0x07B) rfl h ha (fun _ => rfl) hodd (intOp_single (fun x => ctzElem_eq x) a)
  · exact exec_alu1_ok (o := 0x07C) rfl h ha (fun _ => rfl) hodd (intOp_single (fun x => popElem_eq x) a)

/-! ## Conditions, scaled sums and clamped sums (02 R45, 05 R108) -/

/-- A condition on the integers that a type reads is the condition on the bit vectors. -/
theorem condInt_bvInt {n : Nat} (cond : Nat) (s : Bool) (x y : BitVec n) : condInt cond (bvInt s x) (bvInt s y) = bvCond cond s x y := by
  have hlt : decide (bvInt s x < bvInt s y) = if s then x.slt y else x.ult y := by
    cases s
    · exact decide_eq_decide.mpr Int.ofNat_lt
    · rfl
  have heq : decide (bvInt s x = bvInt s y) = (x == y) := by
    have hiff : bvInt s x = bvInt s y ↔ x = y :=
      ⟨fun h => by rw [← ofInt_bvInt s x, h, ofInt_bvInt], fun h => by rw [h]⟩
    rw [decide_eq_decide.mpr hiff]
    rfl
  rw [condInt, hlt, heq]
  rfl

theorem ofInt_scaled {n : Nat} (s : Bool) (x y : BitVec n) (k : Nat) :
    BitVec.ofInt n (bvInt s x + bvInt s y * 2 ^ k) = x + y <<< k := by
  have hpow : BitVec.ofInt n ((2 : Int) ^ k) = BitVec.twoPow n k := by
    apply BitVec.eq_of_toNat_eq
    rw [BitVec.toNat_twoPow, show (2 : Int) ^ k = ((2 ^ k : Nat) : Int) by norm_cast, BitVec.ofInt_natCast, BitVec.toNat_ofNat]
  rw [BitVec.ofInt_add, BitVec.ofInt_mul, ofInt_bvInt, ofInt_bvInt, hpow, BitVec.mul_twoPow_eq_shiftLeft]

theorem clampElem_eq (ty : Nat) (z : Int) : clampElem ty z = (bvClamp (eltBits ty) (tySigned ty) z).toNat := by
  rw [clampElem, wrap_eq_toNat_ofInt, bvClamp]
  cases tySigned ty <;> rfl

/-- Settles O20, from the operation of each instruction on one pair of elements. -/
theorem compareScaleAndClampCompute : Obligations.CompareScaleAndClampCompute := by
  unfold Obligations.CompareScaleAndClampCompute
  intro f s x a b ha hb hodd
  refine ⟨fun h _ => ?cmp, fun h _ => ?lea, fun h _ => ?sadd, fun h _ => ?ssub⟩
  case cmp =>
    refine exec_alu2_ok (o := 0x080) rfl h ha hb (fun _ => rfl) hodd (intOp_pair (fun x y => ?_) a b)
    rw [readElem_toNat, readElem_toNat, condInt_bvInt]
    cases bvCond f.sub.toNat (tySigned f.ty.toNat) x y
    · rfl
    · exact (Nat.mod_eq_of_lt (Nat.one_lt_two_pow (Nat.ne_of_gt (eltBits_pos _)))).symm
  case lea => exact exec_alu2_ok (o := 0x082) rfl h ha hb (fun _ => rfl) hodd (wrapOp_pair (fun x y => ofInt_scaled _ x y _) a b)
  case sadd =>
    refine exec_alu2_ok (o := 0x083) rfl h ha hb (fun _ => rfl) hodd (intOp_pair (fun x y => ?_) a b)
    rw [readElem_toNat, readElem_toNat, clampElem_eq]
  case ssub =>
    refine exec_alu2_ok (o := 0x084) rfl h ha hb (fun _ => rfl) hodd (intOp_pair (fun x y => ?_) a b)
    rw [readElem_toNat, readElem_toNat, clampElem_eq]

end Sys2Proof.Machine
end

section
/-! PROOF of O21. The fields that `bfx` and `bfi` name, and the operations with a third operand in a frame slot (05 R104, R108, R109). -/

namespace Sys2Proof.Machine

/-! ## Three operands -/

theorem zip3_eq_zipWith (g : Nat → Nat → Nat → Except ErrCode Nat) (xs ys zs : List Nat) :
    zip3 g xs ys zs = List.zipWith (fun h z => h z) (List.zipWith g xs ys) zs := by
  induction xs generalizing ys zs with
  | nil => rfl
  | cons x xs ih =>
    cases ys with
    | nil => rfl
    | cons y ys =>
      cases zs with
      | nil => rfl
      | cons z zs => rw [zip3, ih, List.zipWith_cons_cons, List.zipWith_cons_cons]

theorem intOp_triple {ty : Nat} {g : Nat → Nat → Nat → Nat}
    {h : BitVec (eltBits ty) → BitVec (eltBits ty) → BitVec (eltBits ty) → BitVec (eltBits ty)}
    (hg : ∀ x y z, g x.toNat y.toNat z.toNat = (h x y z).toNat) (a b c : List Lane) :
    intOp ty g a b c = .ok (onElems3 ty h a b c) := by
  have hzip : zip3 (fun x y z => (.ok (g x y z) : Except ErrCode Nat)) (elems ty a) (elems ty b) (elems ty c) =
      ((List.zipWith (fun (u : BitVec (eltBits ty) → BitVec (eltBits ty)) z => u z)
        (List.zipWith h (bvElems ty a) (bvElems ty b)) (bvElems ty c)).map BitVec.toNat).map .ok := by
    rw [zip3_eq_zipWith, elems_eq_bvElems, elems_eq_bvElems, elems_eq_bvElems]
    generalize bvElems ty a = xs, bvElems ty b = ys, bvElems ty c = zs
    induction xs generalizing ys zs with
    | nil => rfl
    | cons x xs ih =>
      cases ys with
      | nil => rfl
      | cons y ys =>
        cases zs with
        | nil => rfl
        | cons z zs => simp only [List.map_cons, List.zipWith_cons_cons, hg, ih]
  rw [intOp, elementwise, hzip, allOk_ok]
  rfl

theorem wrapOp_triple {ty : Nat} {g : Int → Int → Int → Int}
    {h : BitVec (eltBits ty) → BitVec (eltBits ty) → BitVec (eltBits ty) → BitVec (eltBits ty)}
    (hg : ∀ x y z, BitVec.ofInt (eltBits ty)
      (g (bvInt (tySigned ty) x) (bvInt (tySigned ty) y) (bvInt (tySigned ty) z)) = h x y z) (a b c : List Lane) :
    wrapOp ty g a b c = .ok (onElems3 ty h a b c) := by
  rw [wrapOp]
  exact intOp_triple (fun x y z => by rw [readElem_toNat, readElem_toNat, readElem_toNat, wrap_eq_toNat_ofInt, hg]) a b c

section
variable {i : Instr} {o : BitVec 9} {f : FormA} {s : State} {x : Ctx} {op : List Lane → List Lane → List Lane → Result}
  {a b c ls : List Lane}
variable (hi : i.opForm = some (o, .a f)) (h : firing i s = some x) (ha : x.dataL a) (hb : x.dataB f b)
  (hc : x.dataC f.sub.toNat c)
include hi h ha hb hc

theorem exec_alu3_data (he : ∀ s, exec i s = .next ((alu3 o.toNat f op).run s)) (hodd : oddPair f.ty.toNat x.width = false) :
    exec i s = .next (x.after s (x.emit f.c (x.result (op a b c)))) := by
  obtain ⟨-, hlanes, hw⟩ := id hc
  rw [he, alu3_fire hi h, Ctx.early_data3 ha hb hc, hodd, Ctx.lanesL_data ha, Ctx.lanesR_data hb, hlanes, padLanes_self hw]
  rfl

theorem exec_alu3_ok (he : ∀ s, exec i s = .next ((alu3 o.toNat f op).run s)) (hodd : oddPair f.ty.toNat x.width = false)
    (hop : op a b c = .ok ls) : exec i s = .next (x.after s (x.emit f.c (x.tok .data ls))) := by
  rw [exec_alu3_data hi h ha hb hc he hodd, hop, Ctx.result_ok]

end

/-! ## Elements that are lanes (02 R43) -/

section
variable {ty : Nat} (hty : eltBits ty = 32) (h1 : ty ≠ 1)
include hty h1

theorem elems_lanes (ls : List Lane) : elems ty ls = ls.map BitVec.toNat := by
  have hone : ∀ l : Lane, splitNat (eltBits ty) (32 / eltBits ty) l.toNat = [l.toNat] := fun l => by
    rw [hty]
    exact congrArg (· :: []) (Nat.mod_eq_of_lt l.isLt)
  rw [elems, if_neg h1]
  induction ls with
  | nil => rfl
  | cons l ls ih => rw [List.flatMap_cons, hone, ih, List.map_cons, List.singleton_append]

theorem ofElems_lanes (xs : List Nat) : ofElems ty xs = xs.map (BitVec.ofNat 32) := by
  rw [ofElems, if_neg h1, hty]
  show (chunks 1 (xs.length / 1) xs).map _ = _
  rw [Nat.div_one]
  induction xs with
  | nil => rfl
  | cons x xs ih =>
    have hx : BitVec.ofNat 32 (joinNat 32 [x]) = BitVec.ofNat 32 x := by
      apply BitVec.eq_of_toNat_eq
      simp [joinNat]
    rw [List.length_cons, chunks, List.map_cons, List.map_cons, List.take_succ_cons, List.take_zero, List.drop_succ_cons,
      List.drop_zero, ih, hx]

theorem intOp_lanes_pair (g : Nat → Nat → Nat) (a b : List Lane) :
    intOp ty (fun x y _ => g x y) a b b = .ok (List.zipWith (fun x y : Lane => BitVec.ofNat 32 (g x.toNat y.toNat)) a b) := by
  have hzip : List.zipWith (fun x y => (.ok (g x y) : Except ErrCode Nat)) (elems ty a) (elems ty b) =
      (List.zipWith (fun x y : Lane => g x.toNat y.toNat) a b).map .ok := by
    rw [elems_lanes hty h1, elems_lanes hty h1, List.zipWith_map, List.map_zipWith]
  rw [intOp, elementwise_pair, hzip, allOk_ok, Except.map, ofElems_lanes hty h1, List.map_zipWith]

theorem intOp_lanes_triple (g : Nat → Nat → Nat → Nat) (a b c : List Lane) :
    intOp ty g a b c = .ok (List.zipWith (fun (u : Lane → Lane) z => u z)
      (List.zipWith (fun x y z : Lane => BitVec.ofNat 32 (g x.toNat y.toNat z.toNat)) a b) c) := by
  have hzip : zip3 (fun x y z => (.ok (g x y z) : Except ErrCode Nat)) (elems ty a) (elems ty b) (elems ty c) =
      (List.zipWith (fun (u : Lane → Nat) z => u z) (List.zipWith (fun x y z : Lane => g x.toNat y.toNat z.toNat) a b) c).map .ok ∧
      (List.zipWith (fun (u : Lane → Nat) z => u z) (List.zipWith (fun x y z : Lane => g x.toNat y.toNat z.toNat) a b) c).map
        (BitVec.ofNat 32) = List.zipWith (fun (u : Lane → Lane) z => u z)
      (List.zipWith (fun x y z : Lane => BitVec.ofNat 32 (g x.toNat y.toNat z.toNat)) a b) c := by
    rw [zip3_eq_zipWith, elems_lanes hty h1, elems_lanes hty h1, elems_lanes hty h1]
    induction a generalizing b c with
    | nil => exact ⟨rfl, rfl⟩
    | cons x a ih =>
      cases b with
      | nil => exact ⟨rfl, rfl⟩
      | cons y b =>
        cases c with
        | nil => exact ⟨rfl, rfl⟩
        | cons z c =>
          obtain ⟨ih1, ih2⟩ := ih b c
          simp only [List.map_cons, List.zipWith_cons_cons, ih1, ih2, and_self]
  obtain ⟨hok, hlanes⟩ := hzip
  rw [intOp, elementwise, hok, allOk_ok, Except.map, ofElems_lanes hty h1, hlanes]

end

/-! ## Fields of a lane (05 R109) -/

section
variable (a b c : Lane)

theorem fieldOf_toNat : fieldOf b.toNat = (fieldPos b, fieldLen b) := by
  have hpos : b.toNat % 32 = fieldPos b := by simp [fieldPos, BitVec.extractLsb'_toNat]
  have hlen : b.toNat / 2 ^ 8 % 2 ^ 6 = (b.extractLsb' 8 6).toNat := by
    rw [BitVec.extractLsb'_toNat, Nat.shiftRight_eq_div_pow]
  rw [fieldOf, hpos, hlen]
  rfl

/-- A field ends at the top bit or below it. -/
theorem fieldPos_add_fieldLen_le : fieldPos b + fieldLen b ≤ 32 := by
  have hpos : fieldPos b < 2 ^ 5 := BitVec.isLt _
  have hlen : fieldLen b ≤ 32 - fieldPos b := Nat.min_le_right _ _
  omega

theorem getLsbD_fieldMask (i : Nat) :
    (fieldMask b).getLsbD i = (decide (fieldPos b ≤ i) && decide (i < fieldPos b + fieldLen b)) := by
  have hle := fieldPos_add_fieldLen_le b
  rw [fieldMask, BitVec.getLsbD_ofNat, Nat.testBit_mul_two_pow, Nat.testBit_two_pow_sub_one]
  by_cases hp : fieldPos b ≤ i <;> by_cases hi : i < fieldPos b + fieldLen b <;> simp [hp, hi] <;> omega

/-- The field that `bfx` extracts, as a number. -/
theorem toNat_extracted_field :
    ((a &&& fieldMask b) >>> fieldPos b).toNat = a.toNat / 2 ^ fieldPos b % 2 ^ fieldLen b := by
  refine Nat.eq_of_testBit_eq fun i => ?_
  rw [BitVec.testBit_toNat, BitVec.getLsbD_ushiftRight, BitVec.getLsbD_and, getLsbD_fieldMask, Nat.testBit_mod_two_pow,
    Nat.testBit_div_two_pow, BitVec.testBit_toNat]
  simp [Bool.and_comm, Nat.add_comm]

theorem bfxElem_eq (signed : Bool) : BitVec.ofNat 32 (bfxElem signed a.toNat b.toNat) =
    let v := (a &&& fieldMask b) >>> fieldPos b
    if signed = true ∧ 0 < fieldLen b ∧ v.getLsbD (fieldLen b - 1) = true then v ||| ~~~(BitVec.ofNat 32 (2 ^ fieldLen b - 1))
    else v := by
  have hle := fieldPos_add_fieldLen_le b
  have hv := toNat_extracted_field a b
  have hlt : ((a &&& fieldMask b) >>> fieldPos b).toNat < 2 ^ fieldLen b := hv ▸ Nat.mod_lt _ (Nat.two_pow_pos _)
  simp only [bfxElem, fieldOf_toNat, ← hv]
  generalize (a &&& fieldMask b) >>> fieldPos b = v at hlt
  generalize fieldLen b = n at hlt hle
  have hsign : 0 < n → (v.toNat / 2 ^ (n - 1) == 1) = v.getLsbD (n - 1) := fun hn => by
    have h2 : v.toNat / 2 ^ (n - 1) < 2 := Nat.div_lt_of_lt_mul (by rwa [← Nat.pow_succ, Nat.succ_eq_add_one, Nat.sub_add_cancel hn])
    rw [← BitVec.testBit_toNat, Nat.testBit_eq_decide_div_mod_eq, Nat.mod_eq_of_lt h2]
    rfl
  have hval : BitVec.ofNat 32 (v.toNat + (2 ^ 32 - 2 ^ n)) = v ||| ~~~(BitVec.ofNat 32 (2 ^ n - 1)) := by
    have hn : n ≤ 32 := by omega
    have hpow : 2 ^ n ≤ 2 ^ 32 := Nat.pow_le_pow_right (by decide) hn
    have hones : 2 ^ 32 - 1 - (2 ^ n - 1) % 2 ^ 32 = 2 ^ n * (2 ^ (32 - n) - 1) := by
      rw [Nat.mul_sub, ← Nat.pow_add, Nat.add_sub_cancel' hn, Nat.mod_eq_of_lt (by omega)]
      omega
    apply BitVec.eq_of_toNat_eq
    rw [BitVec.toNat_or, BitVec.toNat_not, BitVec.toNat_ofNat, BitVec.toNat_ofNat, hones, Nat.or_comm,
      ← Nat.two_pow_add_eq_or_of_lt hlt, Nat.mul_sub, ← Nat.pow_add, Nat.add_sub_cancel' hn, Nat.add_comm, Nat.mul_one]
    exact Nat.mod_eq_of_lt (by omega)
  by_cases hc : signed = true ∧ 0 < n ∧ v.getLsbD (n - 1) = true
  · obtain ⟨hs, hn, hb⟩ := hc
    rw [if_pos (by simp only [hs, hn, hsign hn, hb, decide_true, Bool.and_self]), if_pos ⟨hs, hn, hb⟩]
    exact hval
  · rw [if_neg hc, if_neg, BitVec.ofNat_toNat, BitVec.setWidth_eq]
    rw [Bool.and_eq_true, Bool.and_eq_true, decide_eq_true_eq]
    exact fun ⟨⟨hs, hn⟩, hb⟩ => hc ⟨hs, hn, (hsign hn).symm.trans hb⟩

/-- The three parts of an inserted field do not overlap. -/
theorem testBit_bfiElem (i : Nat) : (bfiElem a.toNat b.toNat c.toNat).testBit i =
    if fieldPos b ≤ i ∧ i < fieldPos b + fieldLen b then a.toNat.testBit (i - fieldPos b) else c.toNat.testBit i := by
  simp only [bfiElem, fieldOf_toNat]
  generalize fieldPos b = p
  generalize fieldLen b = n
  have hlow : c.toNat % 2 ^ p < 2 ^ p := Nat.mod_lt _ (Nat.two_pow_pos p)
  have hfield : 2 ^ p * (a.toNat % 2 ^ n) + c.toNat % 2 ^ p < 2 ^ (p + n) := by
    have ha : a.toNat % 2 ^ n + 1 ≤ 2 ^ n := Nat.mod_lt _ (Nat.two_pow_pos n)
    calc 2 ^ p * (a.toNat % 2 ^ n) + c.toNat % 2 ^ p < 2 ^ p * (a.toNat % 2 ^ n + 1) := by rw [Nat.mul_succ]; omega
      _ ≤ 2 ^ p * 2 ^ n := Nat.mul_le_mul_left _ ha
      _ = 2 ^ (p + n) := (Nat.pow_add 2 p n).symm
  have hsum : c.toNat % 2 ^ p + a.toNat % 2 ^ n * 2 ^ p + c.toNat / 2 ^ (p + n) * 2 ^ (p + n) =
      2 ^ (p + n) * (c.toNat / 2 ^ (p + n)) + (2 ^ p * (a.toNat % 2 ^ n) + c.toNat % 2 ^ p) := by
    rw [Nat.mul_comm (a.toNat % 2 ^ n), Nat.mul_comm (c.toNat / 2 ^ (p + n)), Nat.add_comm _ (2 ^ (p + n) * _),
      Nat.add_comm (c.toNat % 2 ^ p)]
  rw [hsum, Nat.testBit_two_pow_mul_add _ hfield, Nat.testBit_two_pow_mul_add _ hlow, Nat.testBit_mod_two_pow,
    Nat.testBit_mod_two_pow, Nat.testBit_div_two_pow]
  obtain hi | hi := Nat.lt_or_ge i p
  · rw [if_pos (Nat.lt_add_right n hi), if_pos hi, if_neg fun h => absurd h.1 (Nat.not_le.mpr hi), decide_eq_true hi, Bool.true_and]
  · obtain hn | hn := Nat.lt_or_ge i (p + n)
    · rw [if_pos hn, if_neg (Nat.not_lt.mpr hi), if_pos ⟨hi, hn⟩, decide_eq_true (show i - p < n by omega), Bool.true_and]
    · rw [if_neg (Nat.not_lt.mpr hn), if_neg fun h => absurd h.2 (Nat.not_lt.mpr hn), Nat.sub_add_cancel hn]

theorem bfiElem_eq : BitVec.ofNat 32 (bfiElem a.toNat b.toNat c.toNat) =
    (c &&& ~~~(fieldMask b)) ||| (a <<< fieldPos b &&& fieldMask b) := by
  apply BitVec.eq_of_getLsbD_eq
  intro i hi
  rw [BitVec.getLsbD_ofNat, testBit_bfiElem, BitVec.getLsbD_or, BitVec.getLsbD_and, BitVec.getLsbD_and, BitVec.getLsbD_not,
    BitVec.getLsbD_shiftLeft, getLsbD_fieldMask, BitVec.testBit_toNat, BitVec.testBit_toNat]
  by_cases hp : fieldPos b ≤ i <;> by_cases hn : i < fieldPos b + fieldLen b <;> simp [hi, hp, hn]

end

/-! ## The instructions -/

theorem eltBits_of_mem_words {ty : Nat} (h : ty ∈ [0, 4]) : eltBits ty = 32 ∧ ty ≠ 1 := by
  simp only [List.mem_cons, List.not_mem_nil, or_false] at h
  obtain rfl | rfl := h <;> exact ⟨rfl, by decide⟩

/-- Settles O21: `bfx` and `bfi` lane by lane, `mad` and `sel` element by element. -/
theorem fieldsAndFrameOperandsCompute : Obligations.FieldsAndFrameOperandsCompute := by
  unfold Obligations.FieldsAndFrameOperandsCompute
  intro f s x a b c ha hb
  refine ⟨fun h hwf => ?bfx, fun hc => ⟨fun h hwf => ?bfi, fun h hwf => ?mad, fun h hwf hodd => ?sel⟩⟩
  case bfx =>
    have hty := ty_mem_of_chkA hwf
    obtain ⟨he, h1⟩ := eltBits_of_mem_words hty
    refine exec_alu2_ok (o := 0x07D) rfl h ha hb (fun _ => rfl) (oddPair_of_not_mem hty) ((intOp_lanes_pair he h1 _ a b).trans ?_)
    simp only [bfxElem_eq, beq_iff_eq]
  case bfi =>
    have hty := ty_mem_of_chkA hwf
    obtain ⟨he, h1⟩ := eltBits_of_mem_words hty
    refine exec_alu3_ok (o := 0x07E) rfl h ha hb hc (fun _ => rfl) (oddPair_of_not_mem hty) ((intOp_lanes_triple he h1 _ a b c).trans ?_)
    simp only [bfiElem_eq]
  case mad =>
    refine exec_alu3_ok (o := 0x065) rfl h ha hb hc (fun _ => rfl) (oddPair_of_not_mem (ty_mem_of_chkA hwf))
      (wrapOp_triple (fun x y z => ?_) a b c)
    rw [BitVec.ofInt_add, ofInt_mul_bvInt, ofInt_bvInt]
  case sel =>
    refine exec_alu3_ok (o := 0x07F) rfl h ha hb hc (fun _ => rfl) hodd (intOp_triple (fun x y z => ?_) a b c)
    have hzero : x.toNat ≠ 0 ↔ ¬ x = 0 := not_congr (by rw [← BitVec.toNat_inj]; rfl)
    rw [ite_of_iff hzero rfl rfl, ite_not, apply_ite BitVec.toNat]

end Sys2Proof.Machine
end

section
/-! PROOF of O23, O24 and O25. Float operations element by element, with NAN_IN where an operand is a NaN pattern (05 R112, R113). -/

namespace Sys2Proof.Machine

/-! ## NaN patterns among the operands (03 R66, 05 R112) -/

section
variable (g : FFmt) (u v w : Nat) (r : Except ErrCode Nat)

theorem noNan_one : noNan g [u] r = if (g.decode u).isNan then .error errNanIn else r := by simp [noNan]

theorem noNan_two : noNan g [u, v] r = if (g.decode u).isNan || (g.decode v).isNan then .error errNanIn else r := by
  simp [noNan]

theorem noNan_three : noNan g [u, v, w] r =
    if (g.decode u).isNan || (g.decode v).isNan || (g.decode w).isNan then .error errNanIn else r := by
  simp [noNan, or_assoc]

end

/-! ## Operations on values and on patterns -/

section
variable {ty : Nat}

theorem floatOp1_floats (g : FFmt → FVal → Except ErrCode Nat) (a : List Lane) :
    floatOp1 ty (fun k u => g k (k.decode u)) a a a = floats1 ty (g (tyFloat ty)) a := by
  rw [floatOp1, elementwise_single, floats1]
  simp only [noNan_one]

theorem floatOp2_floats (g : FFmt → FVal → FVal → Except ErrCode Nat) (a b : List Lane) :
    floatOp2 ty (fun k u v => g k (k.decode u) (k.decode v)) a b b = floats2 ty (g (tyFloat ty)) a b := by
  rw [floatOp2, elementwise_pair, floats2]
  simp only [noNan_two]

theorem floatOp1_pats {g : FFmt → Nat → Except ErrCode Nat} {h : Nat → Except ErrCode Nat}
    (hg : ∀ u < 2 ^ eltBits ty, g (tyFloat ty) u = h u) (a : List Lane) : floatOp1 ty g a a a = pats1 ty h a := by
  rw [floatOp1, elementwise_single, pats1]
  refine congrArg (fun rs => (allOk rs).map (ofElems ty)) (List.map_congr_left fun u hu => ?_)
  rw [noNan_one, hg u (lt_of_mem_elems hu)]

theorem floatOp2_pats {g : FFmt → Nat → Nat → Except ErrCode Nat} {h : Nat → Nat → Except ErrCode Nat}
    (hg : ∀ u v, g (tyFloat ty) u v = h u v) (a b : List Lane) : floatOp2 ty g a b b = pats2 ty h a b := by
  rw [floatOp2, elementwise_pair, pats2]
  simp only [noNan_two, hg]

/-- The fused product and sum on three operands. -/
theorem ffmaOp_eq (a b c : List Lane) : ffmaOp ty a b c = (allOk (List.zipWith (fun (h : Nat → Except ErrCode Nat) z => h z)
    (List.zipWith (fun u v z =>
      if ((tyFloat ty).decode u).isNan || ((tyFloat ty).decode v).isNan || ((tyFloat ty).decode z).isNan then .error errNanIn
      else (tyFloat ty).sum [((tyFloat ty).decode u).mul ((tyFloat ty).decode v), (tyFloat ty).decode z]) (elems ty a) (elems ty b))
    (elems ty c))).map (ofElems ty) := by
  rw [ffmaOp, elementwise, zip3_eq_zipWith]
  simp only [noNan_three]

end

/-- Settles O23, from the float operations on values. -/
theorem floatArithmeticComputes : Obligations.FloatArithmeticComputes := by
  unfold Obligations.FloatArithmeticComputes
  intro f s x a b c ha hb
  refine ⟨fun h hwf => ?fadd, fun h hwf => ?fsub, fun h hwf => ?fmul, fun h hwf hc => ?ffma⟩
  case fadd =>
    rw [exec_alu2_data (o := 0x0C0) rfl h ha hb (fun _ => rfl) (oddPair_of_not_mem (ty_mem_of_chkA hwf))]
    rw [← floatOp2_floats fun k u v => k.sum [u, v]]
    rfl
  case fsub =>
    rw [exec_alu2_data (o := 0x0C1) rfl h ha hb (fun _ => rfl) (oddPair_of_not_mem (ty_mem_of_chkA hwf)),
      ← floatOp2_floats fun k u v => k.sum [u, v.neg]]
    rfl
  case fmul =>
    rw [exec_alu2_data (o := 0x0C2) rfl h ha hb (fun _ => rfl) (oddPair_of_not_mem (ty_mem_of_chkA hwf)),
      ← floatOp2_floats fun k u v => k.result (u.mul v)]
    rfl
  case ffma =>
    rw [exec_alu3_data (o := 0x0C3) rfl h ha hb hc (fun _ => rfl) (oddPair_of_not_mem (ty_mem_of_chkA hwf)), ← ffmaOp_eq]

/-! ## Selection, sign and class (05 R112) -/

theorem eltBits_of_mem_tyF {ty : Nat} (h : ty ∈ tyF) : eltBits ty = (tyFloat ty).bits := by
  simp only [tyF, List.mem_cons, List.not_mem_nil, or_false] at h
  obtain rfl | rfl | rfl := h <;> rfl

theorem fminElem_eq (g : FFmt) (u v : Nat) : fminElem g u v =
    if (g.decode u).lt (g.decode v) ∨ (¬ (g.decode v).lt (g.decode u) ∧ (g.decode u).signBit) then u else v := by
  by_cases h1 : (g.decode u).lt (g.decode v) = true
  · rw [if_pos (.inl h1)]; exact if_pos h1
  · by_cases h2 : (g.decode v).lt (g.decode u) = true
    · rw [if_neg (by simp [h1, h2])]; exact (if_neg h1).trans (if_pos h2)
    · simp [fminElem, h1, h2]

/-- The order of R45 is asymmetric. -/
theorem FVal.lt_asymm {a b : FVal} (h : a.lt b = true) : b.lt a = false := by
  have fin (u v : FVal) (huv : decide (u.atScale (min u.exp v.exp) < v.atScale (min u.exp v.exp)) = true) :
      decide (v.atScale (min v.exp u.exp) < u.atScale (min v.exp u.exp)) = false := by
    rw [decide_eq_true_eq] at huv
    rw [Int.min_comm v.exp u.exp, decide_eq_false_iff_not]
    omega
  rcases a with _ | (_ | _) | _ <;> rcases b with _ | (_ | _) | _ <;> simp only [FVal.lt, Bool.false_eq_true] at h ⊢ <;>
    exact fin _ _ h

theorem fmaxElem_eq (g : FFmt) (u v : Nat) : fmaxElem g u v =
    if (g.decode v).lt (g.decode u) ∨ (¬ (g.decode u).lt (g.decode v) ∧ ¬ (g.decode u).signBit) then u else v := by
  by_cases h1 : (g.decode u).lt (g.decode v) = true
  · by_cases h2 : (g.decode v).lt (g.decode u) = true
    · exact absurd h2 (by rw [FVal.lt_asymm h1]; exact Bool.false_ne_true)
    · rw [if_neg (by simp [h1, h2])]; exact if_pos h1
  · by_cases h2 : (g.decode v).lt (g.decode u) = true
    · rw [if_pos (.inl h2)]; exact (if_neg h1).trans (if_pos h2)
    · cases hs : (g.decode u).signBit <;> simp [fmaxElem, h1, h2, hs]

/-- The sign bit inverted. -/
theorem fnegElem_eq (g : FFmt) {u : Nat} (hu : u < 2 ^ g.bits) :
    fnegElem g u = if u < 2 ^ (g.bits - 1) then u + 2 ^ (g.bits - 1) else u - 2 ^ (g.bits - 1) := by
  have hbits : g.bits = g.bits - 1 + 1 := by rw [FFmt.bits]; omega
  rw [hbits, Nat.pow_succ] at hu
  rw [fnegElem]
  generalize 2 ^ (g.bits - 1) = t at hu
  by_cases hlt : u < t
  · rw [if_pos hlt, Nat.div_eq_of_lt hlt]; rfl
  · have ht : 0 < t := by omega
    have hdiv : u / t = 1 := Nat.div_eq_of_lt_le (by omega) (by omega)
    rw [if_neg hlt, hdiv, if_pos rfl, Nat.mod_eq_sub_mod (by omega), Nat.mod_eq_of_lt (by omega)]

/-- Settles O24, from the float operations on patterns. -/
theorem floatSelectionComputes : Obligations.FloatSelectionComputes := by
  unfold Obligations.FloatSelectionComputes
  intro f s x a b ha
  refine ⟨fun hb => ⟨fun h hwf => ?fmin, fun h hwf => ?fmax, fun h hwf => ?fcmp⟩, fun h hwf => ?fabs, fun h hwf => ?fneg,
    fun h hwf => ?fclass⟩
  case fmin =>
    rw [exec_alu2_data (o := 0x0C4) rfl h ha hb (fun _ => rfl) (oddPair_of_not_mem (ty_mem_of_chkA hwf)),
      floatOp2_pats fun u v => by rw [fminElem_eq]]
  case fmax =>
    rw [exec_alu2_data (o := 0x0C5) rfl h ha hb (fun _ => rfl) (oddPair_of_not_mem (ty_mem_of_chkA hwf)),
      floatOp2_pats fun u v => by rw [fmaxElem_eq]]
  case fcmp =>
    rw [exec_alu2_data (o := 0x0C8) rfl h ha hb (fun _ => rfl) (oddPair_of_not_mem (ty_mem_of_chkA hwf)),
      floatOp2_floats fun _ u v => .ok (if condFloat f.sub.toNat u v then 1 else 0)]
    rfl
  case fabs =>
    rw [exec_alu1_data (o := 0x0C6) rfl h ha (fun _ => rfl) (oddPair_of_not_mem (ty_mem_of_chkA hwf)),
      floatOp1_pats fun u _ => rfl]
    rfl
  case fneg =>
    have hty := ty_mem_of_chkA hwf
    rw [exec_alu1_data (o := 0x0C7) rfl h ha (fun _ => rfl) (oddPair_of_not_mem hty),
      floatOp1_pats fun u hu => by rw [fnegElem_eq _ (eltBits_of_mem_tyF hty ▸ hu)]]
  case fclass =>
    refine exec_alu1_ok (o := 0x0C9) rfl h ha (fun _ => rfl) (oddPair_of_not_mem (ty_mem_of_chkA hwf)) ?_
    have hok : (elems f.ty.toNat a).map (fun u => (.ok (classMask (tyFloat f.ty.toNat) u) : Except ErrCode Nat)) =
        ((elems f.ty.toNat a).map (classMask (tyFloat f.ty.toNat))).map .ok := by rw [List.map_map]; rfl
    rw [intOp, elementwise_single, hok, allOk_ok, Except.map]

/-- Settles O25: each opcode's function, on values or, for `fround`, on patterns. -/
theorem specialFunctionsCompute : Obligations.SpecialFunctionsCompute := by
  unfold Obligations.SpecialFunctionsCompute
  refine ⟨fun p hp f s x a h hwf ha => ?special, fun f s x a h hwf ha => ?fround⟩
  case special =>
    have float {o : BitVec 9} {i : Instr} (g : FFmt → FVal → Except ErrCode Nat) (hi : i.opForm = some (o, .a f))
        (he : ∀ s, exec i s = .next ((alu1 o.toNat f (floatOp1 f.ty.toNat fun k u => g k (k.decode u))).run s))
        (hf : firing i s = some x) (hty : f.ty.toNat ∈ tyF) :
        exec i s = .next (x.after s (x.emit f.c (x.result (floats1 f.ty.toNat (g (tyFloat f.ty.toNat)) a)))) := by
      rw [exec_alu1_data hi hf ha he (oddPair_of_not_mem hty), floatOp1_floats]
    simp only [List.mem_cons, List.not_mem_nil, or_false] at hp
    obtain rfl | rfl | rfl | rfl | rfl | rfl | rfl | rfl | rfl | rfl := hp
    · exact float frcpVal (o := 0x0CA) rfl (fun _ => rfl) h (ty_mem_of_chkA hwf)
    · exact float frsqVal (o := 0x0CB) rfl (fun _ => rfl) h (ty_mem_of_chkA hwf)
    · exact float fsqrtVal (o := 0x0CC) rfl (fun _ => rfl) h (ty_mem_of_chkA hwf)
    · exact float Special.exp2 (o := 0x0CD) rfl (fun _ => rfl) h (ty_mem_of_chkA hwf)
    · exact float Special.log2 (o := 0x0CE) rfl (fun _ => rfl) h (ty_mem_of_chkA hwf)
    · exact float Special.tanh (o := 0x0CF) rfl (fun _ => rfl) h (ty_mem_of_chkA hwf)
    · exact float Special.sig (o := 0x0D0) rfl (fun _ => rfl) h (ty_mem_of_chkA hwf)
    · exact float Special.sin (o := 0x0D1) rfl (fun _ => rfl) h (ty_mem_of_chkA hwf)
    · exact float Special.cos (o := 0x0D2) rfl (fun _ => rfl) h (ty_mem_of_chkA hwf)
    · exact float Special.erf (o := 0x0D3) rfl (fun _ => rfl) h (ty_mem_of_chkA hwf)
  case fround =>
    rw [exec_alu1_data (o := 0x0D4) rfl h ha (fun _ => rfl) (oddPair_of_not_mem (ty_mem_of_chkA hwf)),
      floatOp1_pats fun u _ => rfl]

end Sys2Proof.Machine
end

section
/-! PROOF of O26. The table of special inputs (05 R113). -/

namespace Sys2Proof.Machine

/-- The pattern of 1 or -1 in the three formats. -/
theorem encode_one {g : FFmt} (hg : g ∈ [FFmt.f32, FFmt.bf16, FFmt.f16]) (n : Bool) :
    g.encode .rne n 1 1 = g.signed n (g.bias * 2 ^ g.fbits) := by
  simp only [List.mem_cons, List.not_mem_nil, or_false] at hg
  obtain rfl | rfl | rfl := hg <;> cases n <;> decide

/-- The pattern of 1/2. -/
theorem encode_half {g : FFmt} (hg : g ∈ [FFmt.f32, FFmt.bf16, FFmt.f16]) :
    g.encode .rne false 1 2 = (g.bias - 1) * 2 ^ g.fbits := by
  simp only [List.mem_cons, List.not_mem_nil, or_false] at hg
  obtain rfl | rfl | rfl := hg <;> decide

namespace Special

theorem ofVal_zero (n : Bool) (e : Int) : ofVal n 0 e = 0 := by
  cases n <;> simp [ofVal]

/-- 2 to the power of zero, of either sign. -/
theorem exp2_zero {g : FFmt} (hg : g ∈ [FFmt.f32, FFmt.bf16, FFmt.f16]) (n : Bool) (e : Int) :
    exp2 g (.fin n 0 e) = .ok (g.signed false (g.bias * 2 ^ g.fbits)) := by
  have hpos : 0 < one := Int.natCast_pos.mpr (Nat.two_pow_pos _)
  have hclamp : clamp (-400 * one) (400 * one) 0 = 0 := by rw [clamp, if_neg (by omega), if_neg (by omega)]
  rw [← encode_one hg]
  simp only [exp2, ofVal_zero, hclamp, Int.zero_ediv, Int.zero_mul, Int.sub_zero, if_true]
  rfl

end Special

/-- A square root, its inverse and a logarithm have no value below zero. -/
theorem negative_invalid (g : FFmt) {m : Nat} (hm : 0 < m) (e : Int) : frsqVal g (.fin true m e) = .error errArithInv ∧
    fsqrtVal g (.fin true m e) = .error errArithInv ∧ Special.log2 g (.fin true m e) = .error errArithInv := by
  cases m with
  | zero => exact absurd hm (Nat.lt_irrefl 0)
  | succ m => exact ⟨rfl, rfl, rfl⟩

/-- Settles O26: the table's rows by evaluation, where a row names 1 or 1/2 with its pattern in the format. -/
theorem specialInputsOfFunctions : Obligations.SpecialInputsOfFunctions := by
  unfold Obligations.SpecialInputsOfFunctions
  intro g hg e
  have hone := encode_one hg
  exact ⟨fun _ => ⟨rfl, rfl⟩, ⟨rfl, fun _ => rfl, rfl⟩, ⟨rfl, fun _ => rfl, rfl⟩, fun m hm => negative_invalid g hm e,
    ⟨rfl, fun n => Special.exp2_zero hg n e, rfl⟩, ⟨rfl, fun _ => rfl, rfl⟩, fun n => ⟨congrArg Except.ok (hone n), rfl⟩,
    ⟨rfl, fun _ => congrArg Except.ok (encode_half hg), congrArg Except.ok (hone false)⟩, fun _ => ⟨rfl, rfl⟩,
    fun _ => ⟨rfl, congrArg Except.ok (hone false)⟩, fun n => ⟨congrArg Except.ok (hone n), rfl⟩⟩

end Sys2Proof.Machine
end

section
/-! PROOF of O27. Dot products lane by lane (05 R108, R112). -/

namespace Sys2Proof.Machine

/-! ## Three lists of lanes -/

theorem zipLanes_eq_zipWith (g : Lane → Lane → Lane → Except ErrCode Lane) (xs ys zs : List Lane) :
    zipLanes g xs ys zs = List.zipWith (fun h z => h z) (List.zipWith g xs ys) zs := by
  induction xs generalizing ys zs with
  | nil => rfl
  | cons x xs ih =>
    cases ys with
    | nil => rfl
    | cons y ys =>
      cases zs with
      | nil => rfl
      | cons z zs => rw [zipLanes, ih, List.zipWith_cons_cons, List.zipWith_cons_cons]

/-- A third list that an operation does not read may be any of no smaller length. -/
theorem zipLanes_pair (g : Lane → Lane → Except ErrCode Lane) {xs ys zs : List Lane} (h : xs.length ≤ zs.length) :
    zipLanes (fun x y _ => g x y) xs ys zs = List.zipWith g xs ys := by
  induction xs generalizing ys zs with
  | nil => rfl
  | cons x xs ih =>
    cases zs with
    | nil => exact absurd h (Nat.not_succ_le_zero _)
    | cons z zs =>
      cases ys with
      | nil => rfl
      | cons y ys => rw [zipLanes, ih (Nat.le_of_succ_le_succ h), List.zipWith_cons_cons]

theorem padLanes_length (w : Nat) (ls : List Lane) : (padLanes w ls).length = w := by
  simp [padLanes]

/-! ## Elements of a lane -/

theorem splitNat_eq_map (n k x : Nat) : splitNat n k x = (List.range k).map fun i => x / 2 ^ (n * i) % 2 ^ n := by
  induction k generalizing x with
  | zero => rfl
  | succ k ih =>
    rw [splitNat, ih, List.range_succ_eq_map, List.map_cons, List.map_map, Nat.mul_zero, Nat.pow_zero, Nat.div_one]
    congr 1
    refine List.map_congr_left fun i _ => ?_
    simp only [Function.comp_apply, Nat.div_div_eq_div_mul, ← Nat.pow_add, Nat.mul_succ, Nat.add_comm n]

theorem elems_lane {ty : Nat} (h1 : ty ≠ 1) (l : Lane) :
    elems ty [l] = (List.range (32 / eltBits ty)).map fun k => (l.extractLsb' (eltBits ty * k) (eltBits ty)).toNat := by
  rw [elems, if_neg h1, List.flatMap_singleton, splitNat_eq_map]
  refine List.map_congr_left fun k _ => ?_
  rw [BitVec.extractLsb'_toNat, Nat.shiftRight_eq_div_pow]

/-- An element of a lane as the 32 bits that its type reads. -/
theorem ofInt_bvInt_laneElem (signed : Bool) (m k : Nat) (l : Lane) :
    BitVec.ofInt 32 (bvInt signed (l.extractLsb' (m * k) m)) = laneElem signed m k l := by
  cases signed
  · simp only [bvInt, laneElem, Bool.false_eq_true, if_false]
    rw [BitVec.ofInt_natCast, BitVec.ofNat_toNat]
  · rfl

/-- An operation on a pair's result and a third value, in two passes. -/
theorem zipWith_apply_zipWith {α β γ δ ε : Type} (k : α → β → γ) (op : γ → δ → ε) (as : List α) (bs : List β) (cs : List δ) :
    List.zipWith (fun (h : δ → ε) z => h z) (List.zipWith (fun x y => op (k x y)) as bs) cs =
      List.zipWith op (List.zipWith k as bs) cs := by
  rw [← List.map_zipWith (f := op) (g := k), List.zipWith_map_left]

/-! ## Integer dot products -/

/-- The sum of products of the first elements of two lanes. -/
def laneDot (signed : Bool) (m n : Nat) (u v : Lane) : Lane :=
  ((List.range n).map fun k => laneElem signed m k u * laneElem signed m k v).foldl (· + ·) 0

theorem ofInt_foldl_add {n : Nat} (zs : List Int) (z : Int) :
    BitVec.ofInt n (zs.foldl (· + ·) z) = (zs.map (BitVec.ofInt n)).foldl (· + ·) (BitVec.ofInt n z) := by
  induction zs generalizing z with
  | nil => rfl
  | cons y zs ih => rw [List.foldl_cons, ih, BitVec.ofInt_add, List.map_cons, List.foldl_cons]

theorem ofNat_wrap (z : Int) : BitVec.ofNat 32 (wrap 32 z) = BitVec.ofInt 32 z := by
  rw [wrap_eq_toNat_ofInt, BitVec.ofNat_toNat, BitVec.setWidth_eq]

section
variable {ty : Nat} (h1 : ty ≠ 1)
include h1

theorem ofInt_dot_products (u v : Lane) :
    BitVec.ofInt 32 ((((elems ty [u]).map (readElem ty)).zipWith (· * ·) ((elems ty [v]).map (readElem ty))).foldl (· + ·) 0) =
      laneDot (tySigned ty) (eltBits ty) (32 / eltBits ty) u v := by
  rw [ofInt_foldl_add, elems_lane h1, elems_lane h1, laneDot, List.map_map, List.map_map, List.zipWith_map,
    List.zipWith_self, List.map_map]
  congr 1
  refine List.map_congr_left fun k _ => ?_
  simp only [Function.comp_apply, readElem_toNat, BitVec.ofInt_mul, ofInt_bvInt_laneElem]

theorem dotInt_plain {a b c : List Lane} (hc : a.length ≤ c.length) :
    dotInt ty false a b c = .ok (List.zipWith (laneDot (tySigned ty) (eltBits ty) (32 / eltBits ty)) a b) := by
  have hlane : (fun (x y : Lane) => (.ok (BitVec.ofNat 32 (wrap 32 ((((elems ty [x]).map (readElem ty)).zipWith (· * ·)
      ((elems ty [y]).map (readElem ty))).foldl (· + ·) 0 + 0))) : Except ErrCode Lane)) =
      fun x y => .ok (laneDot (tySigned ty) (eltBits ty) (32 / eltBits ty) x y) := by
    funext x y
    rw [ofNat_wrap, Int.add_zero, ofInt_dot_products h1]
  refine (congrArg allOk ((zipLanes_pair _ hc).trans (congrArg (fun g => List.zipWith g a b) hlane))).trans ?_
  rw [← List.map_zipWith, allOk_ok]

theorem dotInt_acc (a b c : List Lane) :
    dotInt ty true a b c =
      .ok (List.zipWith (· + ·) (List.zipWith (laneDot (tySigned ty) (eltBits ty) (32 / eltBits ty)) a b) c) := by
  have hlane : (fun (x y z : Lane) => (.ok (BitVec.ofNat 32 (wrap 32 ((((elems ty [x]).map (readElem ty)).zipWith (· * ·)
      ((elems ty [y]).map (readElem ty))).foldl (· + ·) 0 + (z.toNat : Int)))) : Except ErrCode Lane)) =
      fun x y z => .ok (laneDot (tySigned ty) (eltBits ty) (32 / eltBits ty) x y + z) := by
    funext x y z
    rw [ofNat_wrap, BitVec.ofInt_add, ofInt_dot_products h1, BitVec.ofInt_natCast, BitVec.ofNat_toNat, BitVec.setWidth_eq]
  refine (congrArg allOk ((zipLanes_eq_zipWith _ a b c).trans
    (congrArg (fun g => List.zipWith (fun h z => h z) (List.zipWith g a b) c) hlane))).trans ?_
  rw [zipWith_apply_zipWith (laneDot (tySigned ty) (eltBits ty) (32 / eltBits ty)) (fun l z => (.ok (l + z) : Except ErrCode Lane)),
    ← List.map_zipWith, allOk_ok]

end

/-! ## Float dot products -/

/-- The products of a lane's float elements and further summands: exact, rounded once, NAN_IN first. -/
def laneFloatDot (ty : Nat) (cs : List FVal) (u v : Lane) : Except ErrCode Lane :=
  if ((elems ty [u]).map (tyFloat ty).decode ++ (elems ty [v]).map (tyFloat ty).decode ++ cs).any FVal.isNan then .error errNanIn
  else (FFmt.f32.sum (List.zipWith FVal.mul ((elems ty [u]).map (tyFloat ty).decode) ((elems ty [v]).map (tyFloat ty).decode) ++
    cs)).map (BitVec.ofNat 32)

theorem dotFloat_plain (ty : Nat) {a b c : List Lane} (hc : a.length ≤ c.length) :
    dotFloat ty false a b c = allOk (List.zipWith (laneFloatDot ty []) a b) :=
  congrArg allOk (zipLanes_pair (laneFloatDot ty []) hc)

theorem dotFloat_acc (ty : Nat) (a b c : List Lane) :
    dotFloat ty true a b c = allOk (List.zipWith (fun (h : Lane → Except ErrCode Lane) z => h z)
      (List.zipWith (fun u v z => laneFloatDot ty [FFmt.f32.decode z.toNat] u v) a b) c) :=
  congrArg allOk (zipLanes_eq_zipWith _ a b c)

/-! ## The instructions -/

section
variable {i : Instr} {o : BitVec 9} {f : FormA} {s : State} {x : Ctx} {op : Bool → List Lane → List Lane → List Lane → Result}
  {a b c : List Lane}
variable (hi : i.opForm = some (o, .a f)) (h : firing i s = some x) (ha : x.dataL a) (hb : x.dataB f b)
  (he : ∀ s, exec i s = .next ((aluDot o.toNat f op).run s))
include hi h ha hb he

theorem exec_dot_plain (hacc : f.sub.getLsbD 4 = false) :
    exec i s = .next (x.after s (x.emit f.c (x.result (op false a b
      (padLanes x.width (x.a.slotTok (f.sub.toNat % 16)).lanes))))) := by
  have hearly := Ctx.early_data2 ha hb
  simp only [he, aluDot, firing_fire hi rfl h, hacc, Bool.false_eq_true, if_false, hearly, Ctx.lanesL_data ha,
    Ctx.lanesR_data hb, Option.getD_none]

theorem exec_dot_acc (hacc : f.sub.getLsbD 4 = true) (hc : x.dataC (f.sub.toNat % 16) c) :
    exec i s = .next (x.after s (x.emit f.c (x.result (op true a b c)))) := by
  obtain ⟨-, hlanes, hw⟩ := id hc
  have hearly := Ctx.early_data3 ha hb hc
  simp only [he, aluDot, firing_fire hi rfl h, hacc, if_true, hearly, Ctx.lanesL_data ha,
    Ctx.lanesR_data hb, hlanes, padLanes_self hw, Option.getD_none]

end

section
variable {i : Instr} {o : BitVec 9} {f : FormA} {s : State} {x : Ctx} {a b : List Lane} {m n : Nat}
variable (hi : i.opForm = some (o, .a f)) (h : firing i s = some x) (ha : x.dataL a) (hb : x.dataB f b)
include hi h ha hb

theorem exec_dotInt (he : ∀ s, exec i s = .next ((aluDot o.toNat f (dotInt f.ty.toNat)).run s)) (h1 : f.ty.toNat ≠ 1)
    (hm : eltBits f.ty.toNat = m) (hn : 32 / m = n) :
    (f.sub.getLsbD 4 = false → exec i s = .next (x.after s (x.emit f.c (x.tok .data
      (List.zipWith (laneDot (tySigned f.ty.toNat) m n) a b))))) ∧
    (∀ c, f.sub.getLsbD 4 = true → x.dataC (f.sub.toNat % 16) c → exec i s = .next (x.after s (x.emit f.c (x.tok .data
      (List.zipWith (· + ·) (List.zipWith (laneDot (tySigned f.ty.toNat) m n) a b) c))))) := by
  subst hm hn
  refine ⟨fun hacc => ?_, fun c hacc hc => ?_⟩
  · rw [exec_dot_plain hi h ha hb he hacc, dotInt_plain h1 (by rw [padLanes_length]; exact Nat.le_of_eq (Ctx.length_of_dataL ha)),
      Ctx.result_ok]
  · rw [exec_dot_acc hi h ha hb he hacc hc, dotInt_acc h1, Ctx.result_ok]

theorem exec_dotFloat (he : ∀ s, exec i s = .next ((aluDot o.toNat f (dotFloat f.ty.toNat)).run s)) :
    (f.sub.getLsbD 4 = false → exec i s = .next (x.after s (x.emit f.c (x.result
      (allOk (List.zipWith (laneFloatDot f.ty.toNat []) a b)))))) ∧
    (∀ c, f.sub.getLsbD 4 = true → x.dataC (f.sub.toNat % 16) c → exec i s = .next (x.after s (x.emit f.c (x.result
      (allOk (List.zipWith (fun (g : Lane → Except ErrCode Lane) z => g z)
        (List.zipWith (fun u v z => laneFloatDot f.ty.toNat [FFmt.f32.decode z.toNat] u v) a b) c)))))) := by
  refine ⟨fun hacc => ?_, fun c hacc hc => ?_⟩
  · rw [exec_dot_plain hi h ha hb he hacc, dotFloat_plain _ (by rw [padLanes_length]; exact Nat.le_of_eq (Ctx.length_of_dataL ha))]
  · rw [exec_dot_acc hi h ha hb he hacc hc, dotFloat_acc]

end

theorem eltBits_of_mem {tys : List Nat} {m ty : Nat} (h : ty ∈ tys) (hm : ∀ t ∈ tys, eltBits t = m := by decide) :
    eltBits ty = m := hm ty h

/-- Settles O27, from one lane of each kind of product. -/
theorem dotProductsCompute : Obligations.DotProductsCompute := by
  unfold Obligations.DotProductsCompute
  refine ⟨fun p hp f s x a b c h hwf ha hb => ?ints, fun i hi f s x a b c h _ ha hb => ?floats⟩
  case ints =>
    simp only [List.mem_cons, List.not_mem_nil, or_false] at hp
    rcases hp with rfl | rfl
    · have hty := ty_mem_of_chkA hwf
      obtain ⟨plain, acc⟩ := exec_dotInt (o := 0x085) (m := 16) (n := 2) rfl h ha hb (fun _ => rfl)
        (fun h1 => absurd (h1 ▸ hty) (by decide)) (eltBits_of_mem hty) rfl
      exact ⟨plain, acc c⟩
    · have hty := ty_mem_of_chkA hwf
      obtain ⟨plain, acc⟩ := exec_dotInt (o := 0x086) (m := 8) (n := 4) rfl h ha hb (fun _ => rfl)
        (fun h1 => absurd (h1 ▸ hty) (by decide)) (eltBits_of_mem hty) rfl
      exact ⟨plain, acc c⟩
  case floats =>
    simp only [List.mem_cons, List.not_mem_nil, or_false] at hi
    rcases hi with rfl | rfl
    · obtain ⟨plain, acc⟩ := exec_dotFloat (o := 0x0D5) rfl h ha hb (fun _ => rfl)
      exact ⟨plain, acc c⟩
    · obtain ⟨plain, acc⟩ := exec_dotFloat (o := 0x0D6) rfl h ha hb (fun _ => rfl)
      exact ⟨plain, acc c⟩

end Sys2Proof.Machine
end

section
/-! PROOF of O28. The lane operations (06 R126). -/

namespace Sys2Proof.Machine

theorem getD_of_lt {α : Type} {ls : List α} {i : Nat} (d : α) (h : i < ls.length) : ls.getD i d = ls[i] := by
  rw [List.getD_eq_getElem?_getD, List.getElem?_eq_getElem h, Option.getD_some]

/-- Rotated lanes, lane by lane. -/
theorem drop_append_take_eq_map {w n : Nat} {a : List Lane} (h : a.length = w) :
    a.drop (n % a.length) ++ a.take (n % a.length) = (List.range w).map fun i => a.getD ((i + n) % w) 0 := by
  subst h
  have hlen : (a.drop (n % a.length) ++ a.take (n % a.length)).length = a.length := by
    rw [List.length_append, List.length_drop, List.length_take]
    omega
  refine List.ext_getElem (by rw [hlen, List.length_map, List.length_range]) fun i h1 h2 => ?_
  rw [hlen] at h1
  have hk : n % a.length < a.length := Nat.mod_lt _ (by omega)
  rw [List.getElem_map, List.getElem_range, ← Nat.add_mod_mod i n a.length, getD_of_lt _ (Nat.mod_lt _ (Nat.zero_lt_of_lt hk))]
  by_cases hi : i < a.length - n % a.length
  · rw [List.getElem_append_left (by rw [List.length_drop]; exact hi), List.getElem_drop]
    congr 1
    rw [Nat.mod_eq_of_lt (a := i + n % a.length) (by omega), Nat.add_comm]
  · rw [List.getElem_append_right (by rw [List.length_drop]; omega), List.getElem_take]
    congr 1
    rw [List.length_drop, Nat.mod_eq_sub_mod (a := i + n % a.length) (by omega),
      Nat.mod_eq_of_lt (a := i + n % a.length - a.length) (by omega)]
    omega

theorem testBit_maskOf (a : List Lane) (k : Nat) : (maskOf a).testBit k = decide (a.getD k 0 ≠ 0) := by
  induction a generalizing k with
  | nil => simp [maskOf]
  | cons l ls ih =>
    cases k with
    | zero =>
      rw [maskOf, Nat.testBit_zero, Nat.add_mul_mod_self_left, List.getD_cons_zero]
      by_cases hl : l = 0#32 <;> simp [hl]
    | succ k =>
      rw [List.getD_cons_succ, ← ih, maskOf, Nat.testBit_succ]
      congr 1
      split <;> omega

/-- Lane 0 of the mask, whose bits are those of at most 32 lanes. -/
theorem getLsbD_maskOf {a : List Lane} (h : a.length ≤ 32) (k : Nat) :
    (BitVec.ofNat 32 (maskOf a)).getLsbD k = decide (a.getD k 0 ≠ 0) := by
  rw [BitVec.getLsbD_ofNat, testBit_maskOf]
  by_cases hk : k < 32
  · simp [hk]
  · rw [List.getD_eq_getElem?_getD, List.getElem?_eq_none (by omega)]
    simp [hk]

/-- The selected lanes, lane by lane. -/
theorem compact_eq_filter {w : Nat} {a b : List Lane} (ha : a.length = w) (hb : b.length = w) :
    compact a b = ((List.range w).filter fun i => decide (b.getD i 0 ≠ 0)).map fun i => a.getD i 0 := by
  have hzip : a.zip b = (List.range w).map fun i => (a.getD i 0, b.getD i 0) := by
    refine List.ext_getElem (by simp [ha, hb]) fun i h1 h2 => ?_
    simp only [List.length_map, List.length_range] at h2
    rw [List.getElem_zip, List.getElem_map, List.getElem_range, getD_of_lt _ (by omega), getD_of_lt _ (by omega)]
  rw [compact, hzip, List.filter_map, List.map_map]
  rfl

/-- Settles O28, from each operation on lists of lanes. -/
theorem lanesCompute : Obligations.LanesCompute := by
  unfold Obligations.LanesCompute
  intro f s x a b hw
  refine ⟨fun h => ?lidx, fun ha hwf => ⟨fun h => ?bcast, fun h => ?lrot, fun h => ?lmask⟩, fun ha hb hwf h => ?shuf,
    fun ha hb h => ?lcomp⟩
  case lidx =>
    change Host.Outcome.next (Act.run _ s) = _
    rw [firing_fire (o := 0x034) (n := 0x034) rfl rfl h]
  case bcast =>
    refine exec_alu1_ok (o := 0x02D) rfl h ha (fun _ => rfl) (oddPair_of_not_mem (ty_mem_of_chkA hwf)) ?_
    rw [Ctx.length_of_dataL ha]
  case lrot =>
    refine exec_alu1_ok (o := 0x02F) rfl h ha (fun _ => rfl) (oddPair_of_not_mem (ty_mem_of_chkA hwf)) ?_
    rw [drop_append_take_eq_map (Ctx.length_of_dataL ha)]
  case lmask =>
    refine ⟨_, getLsbD_maskOf (Ctx.length_of_dataL ha ▸ hw), ?_⟩
    refine exec_alu1_ok (o := 0x035) rfl h ha (fun _ => rfl) (oddPair_of_not_mem (ty_mem_of_chkA hwf)) ?_
    rw [Ctx.length_of_dataL ha, padLanes]
    cases x.width with
    | zero => rfl
    | succ w => simp [List.take_replicate]
  case shuf =>
    refine exec_alu2_ok (o := 0x02E) rfl h ha hb (fun _ => rfl) (oddPair_of_not_mem (ty_mem_of_chkA hwf))
      (congrArg Except.ok (List.map_congr_left fun i _ => ?_))
    have hi : (i.extractLsb' 0 5).toNat = i.toNat % 32 := by rw [BitVec.extractLsb'_toNat]; rfl
    rw [hi]
    split
    · rfl
    · rw [List.getD_eq_getElem?_getD, List.getElem?_eq_none (by rw [Ctx.length_of_dataL ha]; omega), Option.getD_none]
  case lcomp =>
    obtain ⟨t, ht, -, hlanes, hlen⟩ := id hb
    change Host.Outcome.next (Act.run _ s) = _
    rw [firing_fire (o := 0x036) (n := 0x036) rfl rfl h, Ctx.withData_two ha hb, Ctx.lanesL_data ha, Ctx.selTok_some ht, hlanes,
      compact_eq_filter (Ctx.length_of_dataL ha) hlen]

end Sys2Proof.Machine
end

section
/-! PROOF of O29. Reductions and scans over the lanes (03 R82, 06 R127). -/

namespace Sys2Proof.Machine

/-! ## The pairwise tree of an operation without errors -/

section
variable {α : Type} (op : α → α → α)

/-- One level of the tree. -/
def pairUp : List α → List α
  | a :: b :: rest => op a b :: pairUp rest
  | [a] => [a]
  | [] => []

theorem pairUp_length (us : List α) : (pairUp op us).length = (us.length + 1) / 2 := by
  fun_induction pairUp op us with
  | case1 a b rest ih => simp only [List.length_cons, ih]; omega
  | case2 => simp
  | case3 => simp

variable (hop : ∀ u v w, op (op u v) w = op u (op v w))
include hop

theorem foldl_pairUp (us : List α) (z : α) : (pairUp op us).foldl op z = us.foldl op z := by
  fun_induction pairUp op us generalizing z with
  | case1 a b rest ih => rw [List.foldl_cons, ih, List.foldl_cons, List.foldl_cons, hop]
  | case2 => rfl
  | case3 => rfl

/-- The fold of a list that is not empty does not change from one level to the next. -/
theorem foldl1_pairUp (u : α) (us : List α) :
    ∃ v vs, pairUp op (u :: us) = v :: vs ∧ vs.foldl op v = us.foldl op u := by
  cases us with
  | nil => exact ⟨u, [], rfl, rfl⟩
  | cons v us => exact ⟨op u v, pairUp op us, rfl, foldl_pairUp op hop us (op u v)⟩

end

section
variable {n : Nat} {f : Nat → Nat → Except ErrCode Nat} {op : BitVec n → BitVec n → BitVec n}
variable (hf : ∀ u v, f u.toNat v.toNat = .ok (op u v).toNat)
include hf

theorem treeLevel_toNat (us : List (BitVec n)) : treeLevel f (us.map BitVec.toNat) = .ok ((pairUp op us).map BitVec.toNat) := by
  fun_induction pairUp op us with
  | case1 a b rest ih => rw [List.map_cons, List.map_cons, treeLevel, hf, ih]; rfl
  | case2 => rfl
  | case3 => rfl

/-- The tree of an associative operation is its fold. -/
theorem tree_toNat (hop : ∀ u v w, op (op u v) w = op u (op v w)) (k : Nat) (u : BitVec n) (us : List (BitVec n))
    (hk : us.length + 1 ≤ 2 ^ k) : tree f k ((u :: us).map BitVec.toNat) = .ok (us.foldl op u).toNat := by
  induction k generalizing u us with
  | zero =>
    have hnil : us = [] := List.length_eq_zero_iff.mp (by omega)
    subst hnil
    rfl
  | succ k ih =>
    cases us with
    | nil => rfl
    | cons v us =>
      have hlevel := treeLevel_toNat hf (u :: v :: us)
      obtain ⟨y, ys, hpair, hfold⟩ := foldl1_pairUp op hop u (v :: us)
      have hlen : ys.length + 1 ≤ 2 ^ k := by
        have := congrArg List.length hpair
        rw [pairUp_length] at this
        simp only [List.length_cons, Nat.pow_succ] at *
        omega
      rw [List.map_cons, List.map_cons] at hlevel
      rw [List.map_cons, List.map_cons, tree]
      · simp only [hlevel, hpair]
        rw [ih y ys hlen, hfold]
      · simp

theorem scanFrom_toNat (u : BitVec n) (us : List (BitVec n)) :
    (scanFrom f u.toNat (us.map BitVec.toNat)).map (u.toNat :: ·) = .ok ((us.scanl op u).map BitVec.toNat) := by
  induction us generalizing u with
  | nil => rfl
  | cons v us ih =>
    have := ih (op u v)
    rw [List.map_cons, scanFrom, hf, List.scanl_cons, List.map_cons]
    simp only
    rw [this]
    rfl

end

/-! ## Columns of elements -/

section
variable {ty : Nat}

theorem mem_range_elems {k : Nat} (hk : k ∈ List.range (32 / eltBits ty)) : ty ≠ 1 := by
  rintro rfl
  exact absurd (List.mem_range.mp hk) (Nat.not_lt_zero k)

theorem column_eq_bvColumn {k : Nat} (hk : k ∈ List.range (32 / eltBits ty)) (a : List Lane) :
    column ty a k = (bvColumn ty a k).map BitVec.toNat := by
  rw [column, bvColumn, List.map_map]
  refine List.map_congr_left fun l _ => ?_
  rw [elems_lane (mem_range_elems hk), getD_of_lt _ (by simpa using hk), List.getElem_map, List.getElem_range]
  rfl

theorem bvColumn_length (a : List Lane) (k : Nat) : (bvColumn ty a k).length = a.length := by rw [bvColumn, List.length_map]

theorem anyNan_of_not_float (h : isFloatTy ty = false) (a : List Lane) : anyNan ty a = false := by rw [anyNan, h, Bool.false_and]

variable {f : Nat → Nat → Except ErrCode Nat} {op : BitVec (eltBits ty) → BitVec (eltBits ty) → BitVec (eltBits ty)}
  {g : List (BitVec (eltBits ty)) → BitVec (eltBits ty)} {a : List Lane}
variable (hf : ∀ u v, f u.toNat v.toNat = .ok (op u v).toNat) (hint : isFloatTy ty = false) (hpos : 0 < a.length)
include hf hint hpos

theorem reduce_toNat (hop : ∀ u v w, op (op u v) w = op u (op v w)) (hg : ∀ u us, g (u :: us) = us.foldl op u) (h32 : a.length ≤ 32)
    (all : Bool) : reduce ty all f a = .ok (if all then List.replicate a.length (packColumns ty g a)
      else packColumns ty g a :: List.replicate (a.length - 1) 0) := by
  have hcol : (List.range (32 / eltBits ty)).map (fun k => tree f 6 (column ty a k)) =
      (((List.range (32 / eltBits ty)).map fun k => g (bvColumn ty a k)).map BitVec.toNat).map .ok := by
    rw [List.map_map, List.map_map]
    refine List.map_congr_left fun k hk => ?_
    have hlen := bvColumn_length (ty := ty) a k
    rw [column_eq_bvColumn hk]
    cases hc : bvColumn ty a k with
    | nil => rw [hc, List.length_nil] at hlen; omega
    | cons u us =>
      rw [hc, List.length_cons] at hlen
      rw [tree_toNat hf hop 6 u us (by omega), Function.comp_apply, Function.comp_apply, hc, hg]
  rw [reduce, anyNan_of_not_float hint, hcol, allOk_ok]
  rfl

omit hint in
theorem scans_toNat (hg : ∀ u us, g (u :: us) = us.foldl op u) :
    (allOk ((List.range (32 / eltBits ty)).map fun k => scan f (column ty a k))).map (rowsOf ty a.length) =
      .ok ((List.range a.length).map fun i => packColumns ty (fun c => g (c.take (i + 1))) a) := by
  have hcol : (List.range (32 / eltBits ty)).map (fun k => scan f (column ty a k)) =
      ((List.range (32 / eltBits ty)).map fun k =>
        ((bvColumn ty a k).tail.scanl op ((bvColumn ty a k).headD 0)).map BitVec.toNat).map .ok := by
    rw [List.map_map]
    refine List.map_congr_left fun k hk => ?_
    have hlen := bvColumn_length (ty := ty) a k
    rw [column_eq_bvColumn hk]
    cases hc : bvColumn ty a k with
    | nil => rw [hc, List.length_nil] at hlen; omega
    | cons u us =>
      rw [Function.comp_apply, hc]
      exact scanFrom_toNat hf u us
  rw [hcol, allOk_ok]
  refine congrArg Except.ok (List.map_congr_left fun i hi => ?_)
  rw [packColumns, packLane, List.map_map, List.map_map]
  refine congrArg (fun xs => BitVec.ofNat 32 (joinNat (eltBits ty) xs)) (List.map_congr_left fun k _ => ?_)
  have hlen := bvColumn_length (ty := ty) a k
  have hlt := List.mem_range.mp hi
  simp only [Function.comp_apply]
  cases hc : bvColumn ty a k with
  | nil => rw [hc, List.length_nil] at hlen; omega
  | cons u us =>
    rw [hc, List.length_cons] at hlen
    rw [List.take_succ_cons, hg, getD_of_lt _ (by simp; omega), List.getElem_map]
    exact congrArg BitVec.toNat (List.getElem_scanl _)

end

/-! ## The combining functions on integers -/

section
variable {ty : Nat} (hint : isFloatTy ty = false) (u v w : BitVec (eltBits ty))

/-- The order of the type's elements, and the greater and the lesser of two. -/
def bvLess (ty : Nat) (u v : BitVec (eltBits ty)) : Bool := if tySigned ty then u.slt v else u.ult v
def bvMax (ty : Nat) (u v : BitVec (eltBits ty)) : BitVec (eltBits ty) := if bvLess ty u v then v else u
def bvMin (ty : Nat) (u v : BitVec (eltBits ty)) : BitVec (eltBits ty) := if bvLess ty v u then v else u

theorem bvLess_iff : bvLess ty u v = true ↔ bvInt (tySigned ty) u < bvInt (tySigned ty) v := by
  rw [bvLess]
  cases tySigned ty
  · simp [bvInt, BitVec.ult]
  · simp [bvInt, BitVec.slt]

theorem bvInt_injective {n : Nat} (signed : Bool) : Function.Injective (bvInt (n := n) signed) :=
  Function.LeftInverse.injective (g := BitVec.ofInt n) (ofInt_bvInt signed)

theorem bvInt_bvMax : bvInt (tySigned ty) (bvMax ty u v) = max (bvInt (tySigned ty) u) (bvInt (tySigned ty) v) := by
  rw [bvMax]
  by_cases h : bvLess ty u v = true
  · rw [if_pos h, Int.max_eq_right (Int.le_of_lt ((bvLess_iff u v).mp h))]
  · rw [if_neg h, Int.max_eq_left (Int.not_lt.mp (mt (bvLess_iff u v).mpr h))]

theorem bvInt_bvMin : bvInt (tySigned ty) (bvMin ty u v) = min (bvInt (tySigned ty) u) (bvInt (tySigned ty) v) := by
  rw [bvMin]
  by_cases h : bvLess ty v u = true
  · rw [if_pos h, Int.min_eq_right (Int.le_of_lt ((bvLess_iff v u).mp h))]
  · rw [if_neg h, Int.min_eq_left (Int.not_lt.mp (mt (bvLess_iff v u).mpr h))]

theorem bvMax_assoc : bvMax ty (bvMax ty u v) w = bvMax ty u (bvMax ty v w) :=
  bvInt_injective (tySigned ty) (by simp only [bvInt_bvMax, Int.max_assoc])

theorem bvMin_assoc : bvMin ty (bvMin ty u v) w = bvMin ty u (bvMin ty v w) :=
  bvInt_injective (tySigned ty) (by simp only [bvInt_bvMin, Int.min_assoc])

include hint

theorem addElem_toNat : addElem ty u.toNat v.toNat = .ok (u + v).toNat := by
  rw [addElem, hint, readElem_toNat, readElem_toNat, wrap_eq_toNat_ofInt, ofInt_add_bvInt]
  rfl

theorem maxElem_toNat : maxElem ty u.toNat v.toNat = .ok (bvMax ty u v).toNat := by
  simp only [maxElem, hint, Bool.false_eq_true, if_false, readElem_toNat, ← bvLess_iff, bvMax, apply_ite BitVec.toNat]

theorem minElem_toNat : minElem ty u.toNat v.toNat = .ok (bvMin ty u v).toNat := by
  simp only [minElem, hint, Bool.false_eq_true, if_false, readElem_toNat, ← bvLess_iff, bvMin, apply_ite BitVec.toNat]

end

/-- Settles O29: the tree of an associative operation is its fold, and the scan is its folds over the first lanes. -/
theorem reductionsCompute : Obligations.ReductionsCompute := by
  unfold Obligations.ReductionsCompute
  intro f s x a ha hpos h32 hodd
  have hw := Ctx.length_of_dataL ha
  have hsum (u : BitVec (eltBits f.ty.toNat)) us : (u :: us).foldl (· + ·) 0 = us.foldl (· + ·) u := by
    exact congrArg (us.foldl (· + ·)) (BitVec.zero_add u)
  have hmax (u : BitVec (eltBits f.ty.toNat)) us : (u :: us).foldl (bvMax f.ty.toNat) u = us.foldl (bvMax f.ty.toNat) u := by
    rw [List.foldl_cons, bvMax, ite_self]
  have hmin (u : BitVec (eltBits f.ty.toNat)) us : (u :: us).foldl (bvMin f.ty.toNat) u = us.foldl (bvMin f.ty.toNat) u := by
    rw [List.foldl_cons, bvMin, ite_self]
  refine ⟨fun hint => ⟨fun h _ => ?_, fun h _ => ?_, fun h _ => ?_, fun h _ => ?_⟩,
    fun _ => ⟨fun h => ?_, fun h => ?_, fun h => ?_, fun h => ?_⟩⟩
  · refine exec_alu1_ok (o := 0x030) rfl h ha (fun _ => rfl) hodd ?_
    rw [reduce_toNat (addElem_toNat hint) hint (hw ▸ hpos) BitVec.add_assoc hsum (hw ▸ h32), hw]
  · refine exec_alu1_ok (o := 0x031) rfl h ha (fun _ => rfl) hodd ?_
    rw [reduce_toNat (g := fun c => c.foldl (bvMax f.ty.toNat) (c.headD 0)) (maxElem_toNat hint) hint (hw ▸ hpos) bvMax_assoc hmax
      (hw ▸ h32), hw]
    rfl
  · refine exec_alu1_ok (o := 0x032) rfl h ha (fun _ => rfl) hodd ?_
    rw [reduce_toNat (g := fun c => c.foldl (bvMin f.ty.toNat) (c.headD 0)) (minElem_toNat hint) hint (hw ▸ hpos) bvMin_assoc hmin
      (hw ▸ h32), hw]
    rfl
  · refine exec_alu1_ok (o := 0x033) rfl h ha (fun _ => rfl) hodd ?_
    rw [anyNan_of_not_float hint, if_neg Bool.false_ne_true,
      scans_toNat (g := fun c => c.foldl (· + ·) 0) (addElem_toNat hint) (hw ▸ hpos) hsum, hw]
  · rw [exec_alu1_data (o := 0x030) rfl h ha (fun _ => rfl) hodd]
  · rw [exec_alu1_data (o := 0x031) rfl h ha (fun _ => rfl) hodd]
  · rw [exec_alu1_data (o := 0x032) rfl h ha (fun _ => rfl) hodd]
  · rw [exec_alu1_data (o := 0x033) rfl h ha (fun _ => rfl) hodd, apply_ite x.result, hw, Ctx.result_error]

end Sys2Proof.Machine
end

section
/-! PROOF of O30 to O34. Exits, routing, control tokens, activations and conversions (06 R119 to R125). -/

namespace Sys2Proof.Machine

/-! ## An instruction that fires does what its body says -/

/-- An instruction whose meaning is one firing leaves what its body leaves. -/
theorem exec_firing {i : Instr} {o : BitVec 9} {form : Form} {s : State} {x : Ctx} {n : Nat} {nul body : Ctx → Act}
    (hi : i.opForm = some (o, form)) (hn : o.toNat = n) (h : firing i s = some x)
    (he : exec i s = .next ((fire n form nul body).run s)) : exec i s = .next (x.after s (body x)) := by
  rw [he, firing_fire hi hn h]

@[simp] theorem Ctx.after_look (x : Ctx) (s : State) (f : State → Act) :
    x.after s (.look f) = x.after s (f (x.consume.run s)) := by
  simp only [Ctx.after, Act.run_look]

theorem Ctx.after_quiet (x : Ctx) (s : State) : x.after s .quiet = x.consume.run s := by rw [Ctx.after, Act.run_quiet]

theorem Token.kind_of_isBad {t : Token} (h : t.isBad = true) : t.kind = .error ∨ t.kind = .poison := by
  simpa [Token.isBad] using h

/-! ## Exits (R119) -/

section
variable {x : Ctx} {f : FormC} {pick : Lane → BitVec 6} {t : Token}
variable (ht : x.fields.l = some t)
include ht

theorem Ctx.exitBy_data (hk : t.kind = .data) : x.exitBy f pick = x.exitTo (.block (pick t.lane0)) := by
  rw [Ctx.exitBy, Ctx.opTok_some ht]
  simp [Token.isBad, hk]

theorem Ctx.exitBy_stop (hk : t.kind = .stop) : x.exitBy f pick = x.exitTo (.block f.bt1) := by
  rw [Ctx.exitBy, Ctx.opTok_some ht]
  simp [Token.isBad, hk]

theorem Ctx.exitBy_bad (hb : t.isBad = true) :
    x.exitBy f pick = (x.exitTo (.block f.bt1)).andThen (x.unless (x.record .errCount)) := by
  rw [Ctx.exitBy, Ctx.opTok_some ht]
  simp [hb]

end

theorem Ctx.exitTo_again {s : State} {x y : Ctx} (e : Exit) (hy : x.again s = some y) :
    (y.w.exit.isSome = true → (x.exitTo e).run s = (x.fault Code.multiExit).run s) ∧
    (y.w.exit = none → (x.exitTo e).run s = ((x.mod fun w => { w with exit := some e }).andThen
      (modAct x.core x.frame fun a => if x.idx + 1 = a.count then
        { a with next := match e with
            | .block b => .block b
            | _ => .ended }
        else a)).run s) := by
  refine ⟨fun h => ?_, fun h => ?_⟩
  · simp only [Ctx.exitTo, Act.run_look, hy, h, if_true]
  · simp only [Ctx.exitTo, Act.run_look, hy, h, Option.isSome_none, Bool.false_eq_true, if_false] <;> rfl

/-- Settles O30: each exit is `exitTo` of the block that its operand picks. -/
theorem exitsComplete : Obligations.ExitsComplete := by
  unfold Obligations.ExitsComplete
  refine ⟨fun f s x h => ?nop, fun f s x => ⟨fun h => ?bro, fun h => ?retire, fun t ht => ⟨fun h => ?brp, fun h => ?bri, fun h => ?ret⟩⟩,
    fun s x y e hy => Ctx.exitTo_again e hy⟩
  case nop => rw [exec_firing (o := 0x000) rfl rfl h rfl, Ctx.after_quiet]
  case bro => exact exec_firing (o := 0x001) rfl rfl h rfl
  case retire => exact exec_firing (o := 0x006) rfl rfl h rfl
  case brp =>
    rw [exec_firing (o := 0x002) rfl rfl h rfl]
    exact ⟨fun hk => by rw [Ctx.exitBy_data ht hk], fun hk => by rw [Ctx.exitBy_stop ht hk], fun hb => by rw [Ctx.exitBy_bad ht hb]⟩
  case bri =>
    rw [exec_firing (o := 0x003) rfl rfl h rfl]
    refine ⟨fun hk hle => ?_, fun hk hb hlt => ?_, fun hk => by rw [Ctx.exitBy_stop ht hk], fun hb => by rw [Ctx.exitBy_bad ht hb]⟩
    · rw [Ctx.exitBy_data ht hk, if_pos (by omega)]
    · have hb' : f.bt0.toNat ≤ f.bt1.toNat := hb
      rw [Ctx.exitBy_data ht hk, if_neg (by omega)]
  case ret =>
    rw [exec_firing (o := 0x005) rfl rfl h rfl, Ctx.opTok_some ht]
    exact ⟨fun hk => by rw [if_neg hk], fun hk => by rw [if_pos hk]⟩

/-! ## Routing (R122, R123) -/

section
variable {x : Ctx} {c : Common} {act : Token → Act} {l r u : Token}
variable (hl : x.fields.l = some l) (hr : x.fields.r = some r)
include hl hr

/-- A data token of the context's width, or a stop token, is routed under a data selector. -/
theorem Ctx.routed_act (hrk : r.kind = .data)
    (hu : (∃ a, x.dataTok l a ∧ u = x.tok .data a) ∨ (l.kind = .stop ∧ u = x.stopTok l.stopLevel)) :
    x.routed c act = act u := by
  rw [Ctx.routed, Ctx.opTok_some hl, Ctx.selTok_some hr, Token.isBad_of_kind hrk]
  obtain ⟨a, ha, rfl⟩ | ⟨hlk, rfl⟩ := hu
  · obtain ⟨hk, hlanes, hw⟩ := id ha
    simp [hrk, hk, hlanes, hw, Ctx.pass_data ha]
  · simp [hrk, hlk]

end

theorem ofNat_bits (k n x : Nat) : BitVec.ofNat n (bits x k n) = BitVec.ofNat n (x / 2 ^ k) := by
  apply BitVec.eq_of_toNat_eq
  simp [bits]

theorem extractLsb'_eq_ofNat_bits (l : Lane) (k n : Nat) : l.extractLsb' k n = BitVec.ofNat n (bits l.toNat k n) := by
  rw [ofNat_bits]
  apply BitVec.eq_of_toNat_eq
  rw [BitVec.extractLsb'_toNat, Nat.shiftRight_eq_div_pow, BitVec.toNat_ofNat]

theorem toNat_extractLsb'_eq_bits (l : Lane) (k n : Nat) : (l.extractLsb' k n).toNat = bits l.toNat k n := by
  rw [BitVec.extractLsb'_toNat, Nat.shiftRight_eq_div_pow, bits]

/-- Settles O31, from what each routing instruction does with its operands. -/
theorem routingCompletes : Obligations.RoutingCompletes := by
  unfold Obligations.RoutingCompletes
  intro f s x
  refine ⟨fun h hwf => ?ldf, fun h => ?drop, fun a ha => ⟨fun h => ?mov, fun h => ?unpack, fun b hb h => ?pack,
    fun r p hr ht0 h => ?send⟩, fun l r u hl hr hrk hu => ⟨fun h => ?steer, fun h => ?merge, fun h => ?gate⟩⟩
  case ldf =>
    have hty : f.ty.toNat % 4 = f.ty.toNat := by
      have := ty_mem_of_chkA hwf
      simp only [List.mem_cons, List.not_mem_nil, or_false] at this
      omega
    rw [exec_firing (o := 0x021) rfl rfl h rfl, hty]
  case drop => exact exec_firing (o := 0x026) rfl rfl h rfl
  case mov =>
    obtain ⟨t, ht, hd⟩ := id ha
    rw [exec_firing (o := 0x020) rfl rfl h rfl, Ctx.withData_one ha, Ctx.opTok_some ht, Ctx.pass_data hd]
  case unpack => rw [exec_firing (o := 0x00B) rfl rfl h rfl, Ctx.withData_one ha, Ctx.lanesL_data ha]
  case pack =>
    obtain ⟨u, hu, -, hlanes, -⟩ := id hb
    rw [exec_firing (o := 0x00A) rfl rfl h rfl, Ctx.withData_two ha hb, Ctx.lanesL_data ha, Ctx.selTok_some hu, hlanes]
  case send =>
    obtain ⟨t, ht, hd⟩ := id ha
    rw [exec_firing (o := 0x022) rfl rfl h rfl, Ctx.early_data1 ha, Ctx.opTok_some ht, Ctx.selTok_some hr, Ctx.pass_data hd, ht0]
    refine ⟨fun hk => ?_, fun hb => ?_, fun hk => ?_⟩
    · simp [Token.isBad, hk, extractLsb'_eq_ofNat_bits]
    · simp [hb]
    · simp [Token.isBad, hk]
  case steer =>
    rw [exec_firing (o := 0x023) rfl rfl h rfl, Ctx.routed_act hl hr hrk hu, Ctx.selTok_some hr]
    exact ⟨fun hb => by rw [if_pos hb], fun hb => by rw [if_neg (Bool.eq_false_iff.mp hb)]⟩
  case merge => rw [exec_firing (o := 0x024) rfl rfl h rfl, Ctx.routed_act hl hr hrk hu]
  case gate =>
    rw [exec_firing (o := 0x025) rfl rfl h rfl, Ctx.routed_act hl hr hrk hu, Ctx.selTok_some hr]
    exact ⟨fun hb => by rw [if_pos hb], fun hb => by rw [if_neg (not_not_intro hb)]⟩

/-! ## Control tokens (R124) -/

/-- A second operand that is data or the immediate stops no `dmd`. -/
theorem Ctx.selTok_data {x : Ctx} {f : FormA} {b : List Lane} (hb : x.dataB f b) :
    f.immf = true ∨ (x.selTok.isBad = false ∧ x.selTok.kind ≠ .stop) := by
  obtain ⟨hi, -, -⟩ | ⟨-, t, ht, hk, -, -⟩ := hb
  · exact .inl hi
  · rw [Ctx.selTok_some ht, hk]
    exact .inr ⟨Token.isBad_of_kind hk, by decide⟩

/-- Settles O32, from what each control instruction sends. -/
theorem controlTokensComplete : Obligations.ControlTokensComplete := by
  unfold Obligations.ControlTokensComplete
  intro f s x port
  refine ⟨fun h net p ht0 => ?eos, fun h => ?stop, fun h t ht hb => ?stopc, fun h b p hb ht0 => ?dmd⟩
  case eos =>
    rw [exec_firing (o := 0x027) rfl rfl h rfl, ht0]
    refine ⟨fun ht1 => ?_, fun net' p' ht1 => by rw [ht1]; rfl⟩
    rw [ht1]
    simp only [Ctx.eosTo, Ctx.after, Act.run_andThen, Act.run_quiet, port]
  case stop => exact exec_firing (o := 0x028) rfl rfl h rfl
  case stopc =>
    rw [exec_firing (o := 0x029) rfl rfl h rfl, Ctx.opTok_some ht]
    have hlevel : t.stopLevel = (t.lane0.extractLsb' 0 4).toNat := rfl
    rw [← hlevel]
    simp only [hb, Bool.false_eq_true, if_false]
    exact ⟨fun hn => by rw [if_neg hn], fun hn => by rw [if_pos hn]⟩
  case dmd =>
    have hn : bits ((x.lanesR f).headD 0).toNat 0 16 = (b.headD 0).toNat % 2 ^ 16 := by rw [Ctx.lanesR_data hb, bits, Nat.pow_zero, Nat.div_one]
    have hbad : (!f.immf && x.selTok.isBad) = false := by
      obtain hi | ⟨hr, -⟩ := Ctx.selTok_data hb
      · rw [hi]; rfl
      · rw [hr, Bool.and_false]
    have hstop : (!f.immf && decide (x.selTok.kind = .stop)) = false := by
      obtain hi | ⟨-, hr⟩ := Ctx.selTok_data hb
      · rw [hi]; rfl
      · rw [decide_eq_false hr, Bool.and_false]
    rw [exec_firing (o := 0x02A) rfl rfl h rfl]
    simp only [hn, hbad, hstop, ht0, Bool.false_eq_true, if_false, Bool.false_or, decide_eq_true_eq]
    exact ⟨fun h0 => by rw [if_neg h0], fun h0 => by rw [if_pos h0]⟩

/-! ## Activations (R121) -/

/-- Settles O33, from what each instruction records of an activation. -/
theorem contextInstructionsComplete : Obligations.ContextInstructionsComplete := by
  unfold Obligations.ContextInstructionsComplete
  refine ⟨fun f s x t a h ht hd => ?spawn, fun f s x t a ht hd => ⟨fun h => ?ctxa, fun h => ?ctxf⟩, fun f s x h => ?ctxq⟩
  case spawn =>
    rw [exec_firing (o := 0x004) rfl rfl h rfl, Ctx.withData_one ⟨t, ht, hd⟩, Ctx.opTok_some ht]
    rfl
  case ctxa =>
    rw [exec_firing (o := 0x007) rfl rfl h rfl, Ctx.withData_one ⟨t, ht, hd⟩, Ctx.opTok_some ht, Ctx.after_look]
    refine ⟨fun fr g hfr hg => ?_, fun hno => ?_⟩
    · simp only [hfr, hg]
    · obtain hfr | hg := hno
      · simp only [hfr]
      · simp only [hg]
        split
        · exact absurd ‹_› (by simp)
        · rfl
  case ctxf =>
    rw [exec_firing (o := 0x008) rfl rfl h rfl, toNat_extractLsb'_eq_bits]
    simp [Ctx.opTok_some ht, Token.isBad_of_kind hd.1, hd.1, Ctx.after]
  case ctxq => exact exec_firing (o := 0x009) rfl rfl h rfl

/-! ## Conversions (R125, 10 R191) -/

section
variable {f : FormA} {s : State} {x : Ctx} {t : Token} {a : List Lane} {act : Converted → Act}
variable (ht : x.fields.l = some t) (hd : x.dataTok t a)
include ht hd

theorem Ctx.after_converting_error {e : ErrCode} (he : convert (Conv.ofWord (x.n.info.cword.getD 0)) (f.imm.toNat % 32) f.sub.toNat
    (x.scaleOf (x.consume.run s) t) x.width a = .error e) : x.after s (x.converting f act) = x.after s (x.emit f.c (x.err e)) := by
  simp only [Ctx.converting, Ctx.withData_one ⟨t, ht, hd⟩, Ctx.after_look, Ctx.opTok_some ht, hd.2.1, he]

theorem Ctx.after_converting_ok {r : Converted} (hr : convert (Conv.ofWord (x.n.info.cword.getD 0)) (f.imm.toNat % 32) f.sub.toNat
    (x.scaleOf (x.consume.run s) t) x.width a = .ok r) : x.after s (x.converting f act) = x.after s (act r) := by
  simp only [Ctx.converting, Ctx.withData_one ⟨t, ht, hd⟩, Ctx.after_look, Ctx.opTok_some ht, hd.2.1, hr]

end

/-- Settles O34, from the result of the conversion and the format that it names. -/
theorem conversionsComplete : Obligations.ConversionsComplete := by
  unfold Obligations.ConversionsComplete
  intro f s x t a b ht hd from_ to_ res n blocks
  have ha : x.dataL a := ⟨t, ht, hd⟩
  refine ⟨fun e he => ⟨fun h => ?_, fun h => ?_⟩, fun r hr => ⟨fun h => ?cvt, fun h => ?cvts⟩, fun hb h => ?dec, fun h => ?enc⟩
  · rw [exec_firing (o := 0x02B) rfl rfl h rfl, Ctx.after_converting_error ht hd he]
  · rw [exec_firing (o := 0x02C) rfl rfl h rfl, Ctx.after_converting_error ht hd he]
  case cvt =>
    rw [exec_firing (o := 0x02B) rfl rfl h rfl, Ctx.after_converting_ok ht hd hr]
    refine ⟨fun hf => by rw [if_neg (Bool.eq_false_iff.mp hf)], fun hf htwo => ?_, fun hf htwo => ?_⟩
    · dsimp only
      rw [if_pos hf, if_pos htwo]
    · dsimp only
      rw [if_pos hf, if_neg htwo]
  case cvts => rw [exec_firing (o := 0x02C) rfl rfl h rfl, Ctx.after_converting_ok ht hd hr]
  case dec =>
    obtain ⟨u, hu, -, hlanes, -⟩ := id hb
    rw [exec_firing (o := 0x132) rfl rfl h rfl, Ctx.withData_two ha hb, Ctx.lanesL_data ha, Ctx.selTok_some hu, hlanes]
    rfl
  case enc =>
    rw [exec_firing (o := 0x133) rfl rfl h rfl, Ctx.withData_one ha, Ctx.after_look, Ctx.lanesL_data ha, Ctx.opTok_some ht]
    rfl

end Sys2Proof.Machine
end

section
/-! PROOF of O35 to O38. The memory operators of a task begin, and the channel table (10 R175 to R191). -/

namespace Sys2Proof.Machine

/-! ## An access begins (R177, log 40) -/

section
variable {x : Ctx} {sp : Space} {z : Size} {align : Nat} {kind : PendKind} {tok : Token}

theorem Ctx.begin_out_of_range {c : Nat} (h : rangeFault sp (addrIn sp x.lanesL 0) x.disp (sizeBytes z x.width) = some c) :
    x.begin sp z align kind tok [] =
      takeFault x.who c (if c = Code.xlate then XReason.range.code else 0) (x.va sp) x.seq 0 := by
  simp only [Ctx.begin, h]
  rfl

theorem Ctx.begin_misaligned (h : rangeFault sp (addrIn sp x.lanesL 0) x.disp (sizeBytes z x.width) = none)
    (ha : x.va sp % align ≠ 0) : x.begin sp z align kind tok [] = takeFault x.who Code.misalign 0 (x.va sp) x.seq 0 := by
  have ha' : addrSum sp (addrIn sp x.lanesL 0) x.disp % align ≠ 0 := ha
  simp only [Ctx.begin, h, if_pos ha']
  rfl

theorem Ctx.begin_access (h : x.mayAccess sp z align) : x.begin sp z align kind tok [] = x.access sp z kind tok := by
  obtain ⟨hr, ha⟩ := h
  have ha' : ¬ addrSum sp (addrIn sp x.lanesL 0) x.disp % align ≠ 0 := not_not_intro ha
  simp only [Ctx.begin, hr, if_neg ha']
  rfl

end

/-- Settles O35: the three outcomes of `Ctx.begin`. -/
theorem accessesBegin : Obligations.AccessesBegin := by
  unfold Obligations.AccessesBegin
  intro s x sp z align kind tok
  exact ⟨fun c hc => by rw [Ctx.begin_out_of_range hc], fun hr ha => by rw [Ctx.begin_misaligned hr ha],
    fun hm => by rw [Ctx.begin_access hm]⟩

/-! ## Loads (R180 to R183) -/

theorem sizeAlign_eq (z : Size) : sizeAlign z = if z = .ln then 4 else 1 := by cases z <;> rfl

theorem bits_low (x n : Nat) : bits x 0 n = x % 2 ^ n := by rw [bits, Nat.pow_zero, Nat.div_one]

theorem Ctx.early_dataLR {x : Ctx} {a b : List Lane} (ha : x.dataL a) (hb : x.dataR b) : x.early (x.opL ++ x.opR) none = none :=
  Ctx.early_data2 (f := ⟨⟨.always, .null, .null⟩, 0, 0, false, 0⟩) ha (.inr ⟨rfl, hb⟩)

/-- Settles O36, from the checks of each load. -/
theorem loadsComplete : Obligations.LoadsComplete := by
  unfold Obligations.LoadsComplete
  intro f s x t a ht hd tok
  have ha : x.dataL a := ⟨t, ht, hd⟩
  refine ⟨fun h _ => ⟨fun h8 h4 hm => ?ld, fun hz => ?dsb⟩, fun h b hb => ?link, fun h hm => ?ldp⟩
  case ld =>
    rw [exec_firing (o := 0x120) rfl rfl h rfl, Ctx.early_data1 ha, Ctx.opTok_some ht]
    simp only [decide_eq_false h8, decide_eq_false h4, Bool.or_self, Bool.false_eq_true, if_false, sizeAlign_eq, Ctx.begin_access hm]
    rfl
  case dsb =>
    have hor : (decide (f.sz = .dsb8) || decide (f.sz = .dsb4)) = true := by simpa using hz
    intro nb len e c he hc
    rw [exec_firing (o := 0x120) rfl rfl h rfl, Ctx.early_data1 ha, Ctx.opTok_some ht, Ctx.lanesL_data ha]
    dsimp only
    rw [if_pos hor]
    simp only [nb, len, e, c] at he hc
    simp only [he, hc]
    rfl
  case link =>
    obtain ⟨u, hu, -, hlanes, -⟩ := id hb
    rw [exec_firing (o := 0x120) rfl rfl h rfl, Ctx.early_dataLR ha hb, Ctx.opTok_some ht, Ctx.selTok_some hu, Token.lane0, hlanes,
      bits_low, Ctx.lanesL_data ha]
  case ldp =>
    rw [exec_firing (o := 0x122) rfl rfl h rfl, Ctx.early_data1 ha, Ctx.opTok_some ht]
    simp only [Ctx.begin_access hm]
    rfl

/-! ## Stores and atomics (R184 to R186) -/

theorem Ctx.widthed_kind {x : Ctx} {t : Token} (h : t.kind ≠ .data) : x.widthed t = t := by
  rw [Ctx.widthed, decide_eq_false h]
  rfl

/-- An atomic on data begins its access with its operation. -/
theorem exec_atomic {i : Instr} {o : BitVec 9} {op : AtomicOp} {f : FormM} {s : State} {x : Ctx} {t : Token} {a b : List Lane}
    (hi : i.opForm = some (o, .m f)) (he : ∀ s, exec i s = .next ((atomicAt o.toNat op f).run s)) (h : firing i s = some x)
    (ht : x.fields.l = some t) (hd : x.dataTok t a) (hb : x.dataR b) (hm : x.mayAccess f.sp f.sz (sizeScale f.sz)) :
    exec i s = .next (x.after s (x.access f.sp f.sz (.store (.atomic op b) f.sqo.toNat) { t with seq := x.seq })) := by
  obtain ⟨u, hu, -, hlanes, -⟩ := id hb
  rw [exec_firing hi rfl h (he s), Ctx.opTok_some ht, Ctx.selTok_some hu, hlanes]
  simp only [Ctx.early_dataLR ⟨t, ht, hd⟩ hb, Ctx.begin_access hm]

/-- Settles O37, from the operands of each store and atomic. -/
theorem storesAndAtomicsComplete : Obligations.StoresAndAtomicsComplete := by
  unfold Obligations.StoresAndAtomicsComplete
  refine ⟨fun f s x t r a ht hd => ⟨fun h hr => ?st, fun h hm => ?clr⟩, fun f s x t ht hk => ⟨fun h => ?nullSt, fun h => ?nullClr⟩,
    fun p hp f s x t a b h ht hd hb hm => ?atomic⟩
  case st =>
    rw [exec_firing (o := 0x121) rfl rfl h rfl, Ctx.opTok_some ht, Ctx.selTok_some hr, Ctx.widthed_data hd]
    refine ⟨fun b hb hm => ?_, fun hk hm => ?_, fun hk => ?_⟩
    · simp only [Ctx.widthed_data hb, hd.1, hb.1, hb.2.1, ne_eq, not_true_eq_false, if_false, sizeAlign_eq, Ctx.begin_access hm]
      rfl
    · rw [Ctx.widthed_kind (by rw [hk]; decide)]
      simp only [hd.1, hk, ne_eq, not_true_eq_false, if_false, sizeAlign_eq, Ctx.begin_access hm]
    · obtain hk | hk := hk <;>
      · rw [Ctx.widthed_kind (by rw [hk]; decide)]
        simp only [hd.1, hk, ne_eq, not_true_eq_false, if_false]
  case clr =>
    rw [exec_firing (o := 0x123) rfl rfl h rfl, Ctx.opTok_some ht, Ctx.widthed_data hd]
    simp only [hd.1, ne_eq, not_true_eq_false, if_false, sizeAlign_eq, Ctx.begin_access hm]
  case nullSt =>
    rw [exec_firing (o := 0x121) rfl rfl h rfl, Ctx.opTok_some ht, Ctx.widthed_kind hk]
    dsimp only
    rw [if_pos hk]
  case nullClr =>
    rw [exec_firing (o := 0x123) rfl rfl h rfl, Ctx.opTok_some ht, Ctx.widthed_kind hk]
    dsimp only
    rw [if_pos hk]
  case atomic =>
    simp only [List.mem_cons, List.not_mem_nil, or_false] at hp
    rcases hp with rfl | rfl | rfl | rfl | rfl | rfl | rfl | rfl | rfl | rfl | rfl
    · exact exec_atomic (o := 0x124) rfl (fun _ => rfl) h ht hd hb hm
    · exact exec_atomic (o := 0x125) rfl (fun _ => rfl) h ht hd hb hm
    · exact exec_atomic (o := 0x126) rfl (fun _ => rfl) h ht hd hb hm
    · exact exec_atomic (o := 0x127) rfl (fun _ => rfl) h ht hd hb hm
    · exact exec_atomic (o := 0x128) rfl (fun _ => rfl) h ht hd hb hm
    · exact exec_atomic (o := 0x129) rfl (fun _ => rfl) h ht hd hb hm
    · exact exec_atomic (o := 0x12A) rfl (fun _ => rfl) h ht hd hb hm
    · exact exec_atomic (o := 0x12B) rfl (fun _ => rfl) h ht hd hb hm
    · exact exec_atomic (o := 0x12C) rfl (fun _ => rfl) h ht hd hb hm
    · exact exec_atomic (o := 0x12D) rfl (fun _ => rfl) h ht hd hb hm
    · exact exec_atomic (o := 0x12E) rfl (fun _ => rfl) h ht hd hb hm

/-! ## The channel table and the fence (R187 to R190) -/

theorem Ctx.orCount_data {x : Ctx} {t : Token} {act : Act} (hk : t.kind = .data) : x.orCount t act = act := by
  simp [Ctx.orCount, Token.isBad, hk]

theorem Ctx.orCount_bad {x : Ctx} {t : Token} {act : Act} (hb : t.isBad = true) : x.orCount t act = x.record .errCount := by
  simp [Ctx.orCount, hb]

theorem Ctx.orCount_stop {x : Ctx} {t : Token} {act : Act} (hk : t.kind = .stop) : x.orCount t act = .quiet := by
  simp [Ctx.orCount, Token.isBad, hk]

/-- Settles O38, from the entry's control word and lock. -/
theorem channelTableAndFenceComplete : Obligations.ChannelTableAndFenceComplete := by
  unfold Obligations.ChannelTableAndFenceComplete
  refine ⟨fun f s x => ⟨fun t a ht hd => ⟨fun h => ?vcset, fun h => ?sclset⟩, fun h => ?vcget⟩, fun f s x h hins => ?fence⟩
  case vcset =>
    rw [exec_firing (o := 0x12F) rfl rfl h rfl, Ctx.opTok_some ht, Ctx.widthed_data hd]
    simp only [Ctx.orCount_data hd.1, Ctx.after_look, Token.lane0, hd.2.1]
    refine ⟨fun hv hl => ?_, fun hv => ?_, fun hv hl => ?_⟩
    · rw [hv, hl]
      rfl
    · rw [hv]
      rfl
    · rw [hv, hl]
      rfl
  case sclset =>
    rw [exec_firing (o := 0x131) rfl rfl h rfl, Ctx.opTok_some ht, Ctx.widthed_data hd]
    simp only [Ctx.orCount_data hd.1, hd.2.1]
  case vcget =>
    rw [exec_firing (o := 0x130) rfl rfl h rfl, Ctx.after_look]
    exact ⟨fun hty => by simp only [if_pos hty], fun hty => by simp only [if_neg hty]⟩
  case fence =>
    rw [exec_firing (o := 0x134) rfl rfl h rfl]
    simp only [Ctx.noAccess, Ctx.memForm, hins]

end Sys2Proof.Machine
end

section
/-! PROOF of O39 and O40. The capsule instructions (07 R136, R142, R144). -/

namespace Sys2Proof.Machine

/-! ## Changes recorded for the commit -/

section
variable {x : Ctx} {t : Token} {act : Act}

theorem Ctx.capData_data (hk : t.kind = .data) : x.capData [t] act = act := by
  simp [Ctx.capData, Token.isBad, hk]

theorem Ctx.capData_bad (hb : t.isBad = true) : x.capData [t] act = x.record .errCount := by
  simp [Ctx.capData, hb]

theorem Ctx.capData_stop (hk : t.kind = .stop) : x.capData [t] act = .quiet := by
  simp [Ctx.capData, Token.isBad, hk]

end

theorem entryOf_eq_append (t : Token) : entryOf t = (t.lanes.getD 1 0) ++ (t.lanes.getD 0 0) := by
  apply BitVec.eq_of_toNat_eq
  have h0 := (t.lanes.getD 0 0).isLt
  have h1 := (t.lanes.getD 1 0).isLt
  rw [entryOf, BitVec.toNat_ofNat, BitVec.toNat_append, Nat.shiftLeft_eq, ← Nat.mul_comm (2 ^ 32), ← Nat.two_pow_add_eq_or_of_lt h0]
  omega

theorem setWidth_eq_extractLsb' {n m : Nat} (v : BitVec n) : v.setWidth m = v.extractLsb' 0 m := by
  apply BitVec.eq_of_toNat_eq
  rw [BitVec.toNat_setWidth, BitVec.extractLsb'_toNat, Nat.shiftRight_zero]

/-- A change with an operand: recorded on data, else counted, or nothing. -/
theorem exec_capData {i : Instr} {o : BitVec 9} {n : Nat} {f : FormK} {s : State} {x : Ctx} {act : Ctx → Token → Act} {t : Token}
    (hi : i.opForm = some (o, .k f)) (hn : o.toNat = n) (h : firing i s = some x) (ht : x.fields.l = some t)
    (he : exec i s = .next ((fire n (.k f) noNull fun x =>
      let l := x.widthed x.opTok
      x.capData [l] (act x l)).run s)) :
    (∀ a, x.dataTok t a → exec i s = .next (x.after s (act x t))) ∧
    (t.isBad = true → exec i s = .next (x.after s (x.record .errCount))) ∧
    (t.kind = .stop → exec i s = .next (x.consume.run s)) := by
  have hx := exec_firing hi hn h he
  rw [Ctx.opTok_some ht] at hx
  refine ⟨fun a hd => ?_, fun hb => ?_, fun hk => ?_⟩
  · rw [hx, Ctx.widthed_data hd]
    dsimp only
    rw [Ctx.capData_data hd.1]
  · have hk : t.kind ≠ .data := by obtain hk | hk := Token.kind_of_isBad hb <;> rw [hk] <;> decide
    rw [hx, Ctx.widthed_kind hk]
    dsimp only
    rw [Ctx.capData_bad hb]
  · rw [hx, Ctx.widthed_kind (by rw [hk]; decide)]
    dsimp only
    rw [Ctx.capData_stop hk, Ctx.after_quiet]

/-- Settles O39, from the one shape of a change with an operand. -/
theorem capsuleChangesAreRecorded : Obligations.CapsuleChangesAreRecorded := by
  unfold Obligations.CapsuleChangesAreRecorded
  intro f s x
  have hlane (l : Lane) (n : Nat) : l.toNat % 2 ^ n = (l.extractLsb' 0 n).toNat := by rw [BitVec.extractLsb'_toNat, Nat.shiftRight_zero]
  refine ⟨fun h => ?go, fun h => ?park, fun h => ?del, fun h => ?fork, fun h => ?next, fun t ht => ?operand⟩
  case go => exact exec_firing (o := 0x101) rfl rfl h rfl
  case park => rw [exec_firing (o := 0x109) rfl rfl h rfl, setWidth_eq_extractLsb']
  case del => exact exec_firing (o := 0x106) rfl rfl h rfl
  case fork => exact exec_firing (o := 0x107) rfl rfl h rfl
  case next => exact exec_firing (o := 0x102) rfl rfl h rfl
  case operand =>
    have next (h : firing (.capnxOperand f) s = some x) := exec_capData (o := 0x102) (act := fun x l =>
      x.record (.cap (.next (l.lane0.toNat % 16)))) rfl rfl h ht rfl
    have push (h : firing (.cappush f) s = some x) := exec_capData (o := 0x103) (act := fun x l =>
      x.record (.cap (.push (entryOf l)))) rfl rfl h ht rfl
    have ins (h : firing (.capins f) s = some x) := exec_capData (o := 0x104) (act := fun x l =>
      x.record (.cap (.ins f.ent.toNat (entryOf l)))) rfl rfl h ht rfl
    have rep (h : firing (.caprepWhole f) s = some x) := exec_capData (o := 0x105) (act := fun x l =>
      x.record (.cap (.rep f.ent.toNat (entryOf l)))) rfl rfl h ht rfl
    have place (h : firing (.caprepPlace f) s = some x) := exec_capData (o := 0x105) (act := fun x l =>
      x.record (.cap (.repPlace f.ent.toNat (l.lane0.setWidth 16)))) rfl rfl h ht rfl
    have st (h : firing (.capst f) s = some x) := exec_capData (o := 0x10B) (act := fun x l =>
      x.record (.cap (.st l.lane0.toNat (x.widthed x.selTok)))) rfl rfl h ht rfl
    refine ⟨fun a hd => ⟨fun h => ?_, fun h => ?_, fun h => ?_, fun h => ?_, fun h => ?_, fun h r hr hw => ?_⟩, fun i hi h => ?_⟩
    · rw [(next h).1 a hd, ← hlane t.lane0 4] <;> rfl
    · rw [(push h).1 a hd, entryOf_eq_append]
    · rw [(ins h).1 a hd, entryOf_eq_append]
    · rw [(rep h).1 a hd, entryOf_eq_append]
    · rw [(place h).1 a hd, setWidth_eq_extractLsb']
    · have hr' : x.widthed r = r := by
        by_cases hk : r.kind = .data
        · exact Ctx.widthed_data ⟨hk, rfl, hw hk⟩
        · exact Ctx.widthed_kind hk
      rw [(st h).1 a hd, Ctx.selTok_some hr, hr']
    · simp only [List.mem_cons, List.not_mem_nil, or_false] at hi
      rcases hi with rfl | rfl | rfl | rfl | rfl | rfl
      · exact (next h).2
      · exact (push h).2
      · exact (ins h).2
      · exact (rep h).2
      · exact (place h).2
      · exact (st h).2

/-! ## Reads of a held capsule -/

theorem half_eq (hi : Bool) (w : Word) : half hi w = if hi then w.extractLsb' 32 32 else w.extractLsb' 0 32 := by
  cases hi
  · apply BitVec.eq_of_toNat_eq
    simp [half, BitVec.extractLsb'_toNat]
  · apply BitVec.eq_of_toNat_eq
    simp [half, BitVec.extractLsb'_toNat, Nat.shiftRight_eq_div_pow]

theorem ofNat_entryArg (e : Word) : BitVec.ofNat 32 (entryArg e) = (e.extractLsb' 0 26).zeroExtend 32 := by
  apply BitVec.eq_of_toNat_eq
  simp [entryArg, bits, BitVec.extractLsb'_toNat]

section
variable {f : FormK} {s : State} {x : Ctx}

theorem exec_caphd_held {i : Instr} {read : Capsule → Lane} {h : Held} (hi : i.opForm = some (0x10C, .k f))
    (he : exec i s = .next ((caphdAt f read).run s)) (hx : firing i s = some x) (hh : x.a.held = some h) :
    exec i s = .next (x.after s (x.emit f.c (x.data [read h.cap]))) := by
  rw [exec_firing hi rfl hx he, hh]

theorem exec_caphd_none {i : Instr} {read : Capsule → Lane} (hi : i.opForm = some (0x10C, .k f))
    (he : exec i s = .next ((caphdAt f read).run s)) (hx : firing i s = some x) (hh : x.a.held = none) :
    exec i s = .next (x.after s (x.fault Code.capNone)) := by
  rw [exec_firing hi rfl hx he, hh]

variable {t : Token} {a : List Lane} (ht : x.fields.l = some t) (hd : x.dataTok t a)
include ht hd

theorem exec_capld (hx : firing (.capld f) s = some x) :
    (x.a.held = none → exec (.capld f) s = .next (x.after s (x.fault Code.capNone))) ∧
    (∀ h, x.a.held = some h → exec (.capld f) s = .next (x.after s
      (if t.lane0.toNat < h.cap.chunks x.width then x.emit f.c (x.chunkTok h.cap t.lane0.toNat) else x.fault Code.capRange))) := by
  have he := exec_firing (o := 0x10A) rfl rfl hx rfl
  rw [Ctx.withData_one ⟨t, ht, hd⟩, Ctx.opTok_some ht] at he
  exact ⟨fun hh => by rw [he, hh], fun h hh => by rw [he, hh]⟩

theorem exec_capjoin_none (hx : firing (.capjoin f) s = some x) (hh : x.a.held = none) :
    exec (.capjoin f) s = .next (x.after s (x.fault Code.capNone)) := by
  rw [exec_firing (o := 0x108) rfl rfl hx rfl, Ctx.withData_one ⟨t, ht, hd⟩, hh]

/-- The part that a completed join names is read like the capsule that is held. -/
theorem exec_capjoin_part {h : Held} {c : Capsule} (hx : firing (.capjoin f) s = some x) (hh : x.a.held = some h)
    (hj : h.joined = true) (hp : h.cap.pidx = 0) (hle : f.kimm.toNat % 16 ≤ h.cap.parts)
    (hc : (if f.kimm.toNat % 16 = 0 then some h.cap else h.parts.find? fun c => c.pidx == f.kimm.toNat % 16) = some c) :
    exec (.capjoin f) s = .next (x.after s
      (if t.lane0.toNat < c.chunks x.width then x.emit f.c (x.chunkTok c t.lane0.toNat) else x.fault Code.capRange)) := by
  have hok : (!h.joined || decide (h.cap.pidx ≠ 0) || decide (h.cap.parts < f.kimm.toNat % 16)) = false := by
    rw [hj, decide_eq_false (not_not_intro hp), decide_eq_false (Nat.not_lt.mpr hle)]
    rfl
  rw [exec_firing (o := 0x108) rfl rfl hx rfl, Ctx.withData_one ⟨t, ht, hd⟩, Ctx.opTok_some ht, hh]
  dsimp only
  rw [hok, if_neg Bool.false_ne_true, hc]

end

theorem Ctx.chunkTok_whole {x : Ctx} {c : Capsule} {k : Nat} (h : c.chunkHurt x.width k = false) :
    x.chunkTok c k = x.data (c.chunk x.width k) := by rw [Ctx.chunkTok, h, if_neg Bool.false_ne_true]

theorem Ctx.chunkTok_hurt {x : Ctx} {c : Capsule} {k : Nat} (h : c.chunkHurt x.width k = true) :
    x.chunkTok c k = x.tok .poison (c.chunk x.width k) := by rw [Ctx.chunkTok, h, if_pos rfl]

/-! ## New and adopted capsules (R134, R144) -/

section
variable {i : Instr} {f : FormK} {s : State} {x : Ctx}
variable (hi : i.opForm = some (0x100, .k f)) (he : exec i s = .next ((capnAt f).run s)) (hx : firing i s = some x)
  (hearly : x.early (x.opL ++ x.opR) none = none)
include hi he hx hearly

theorem exec_capn_held (hh : x.a.held.isSome = true) : exec i s = .next (x.after s (x.fault Code.capHeld)) := by
  rw [exec_firing hi rfl hx he]
  simp only [hearly, Ctx.after_look, hh, Bool.true_or, if_true]

variable (hh : x.a.held = none) (hb : x.w.buffer = false) (hq : ((x.consume.run s).m.core x.core).bufReqs = [])
  (hn : ((x.consume.run s).m.core x.core).buffers.length < 2)
include hh hb hq hn

/-- A new capsule takes the free buffer. -/
theorem exec_capn_new (hv : f.kvar = 0) : exec i s = .next (x.after s
    (capnTake x.who { x.opTok with seq := x.seq } (capnAct f { x.opTok with seq := x.seq } x.selTok))) := by
  rw [exec_firing hi rfl hx he]
  simp [hearly, hh, hb, hq, hn, Nat.le_of_lt_succ hn, hv]

/-- An adopted one does where its handle and its colour allow it. -/
theorem exec_capn_adopt {t : Token} {a : List Lane} {p : Parked} (hv : f.kvar = 1) (ht : x.fields.l = some t) (hd : x.dataTok t a)
    (hp : ((x.consume.run s).m.pkg.parked.find? fun p => p.handle == t.lane0.toNat) = some p)
    (hc : x.colour = 0 ∨ x.colour = p.colour) : exec i s = .next (x.after s
    (capnTake x.who { t with seq := x.seq } (capnAct f { t with seq := x.seq } x.selTok))) := by
  have hcol : (decide (x.colour ≠ 0) && decide (x.colour ≠ p.colour)) = false := by
    obtain hc | hc := hc
    · rw [decide_eq_false (not_not_intro hc)]; rfl
    · rw [decide_eq_false (p := x.colour ≠ p.colour) (not_not_intro hc), Bool.and_false]
  rw [exec_firing hi rfl hx he]
  simp only [hearly, Ctx.after_look, Ctx.opTok_some ht, Ctx.widthed_data hd, hp, hcol]
  simp [hh, hb, hq, hn, Nat.le_of_lt_succ hn, hv]

end

theorem Ctx.early_dataL_alone {x : Ctx} {a : List Lane} (ha : x.dataL a) (hr : x.fields.r = none) :
    x.early (x.opL ++ x.opR) none = none := by
  rw [Ctx.opR, hr, Option.toList_none, List.append_nil, Ctx.early_data1 ha]

/-- Settles O40, from what each instruction reads of the held capsule. -/
theorem capsuleReadsComplete : Obligations.CapsuleReadsComplete := by
  unfold Obligations.CapsuleReadsComplete
  refine ⟨fun f s x h hx hwf hh => ?word, fun f s x h hx hwf hh => ?entry, fun f s x h hx hh => ?arg,
    fun f s x h t a hx hh ht hd hlt => ?ld, fun f s x h c t a hx hh hj hp hle hc ht hd hlt => ?join,
    fun f s x t a hx hv ht hd hh hb hq hn => ?new, fun f s x t a p hx hv ht hd hr hh hb hq hn hp hc => ?adopt,
    fun i hi f s x hx hh => ?hdNone, fun i hi f s x t a hx hh ht hd => ?none, fun f s x h t a hx hh ht hd hle => ?ldRange,
    fun f s x h c t a hx hh hj hp hle hc ht hd hge => ?joinRange, fun f s x t a hx hv ht hd hr hh => ?adoptHeld,
    fun f s x t a hx hv ht hd h8 hr hh => ?newHeld⟩
  case word =>
    have hwf' : f.kvar.toNat < 2 ∧ f.kimm.toNat < 8 := by
      simp only [Instr.wf, Bool.and_eq_true, decide_eq_true_eq] at hwf
      exact ⟨hwf.1.1.1, hwf.1.2⟩
    have hhalf : f.kvar.getLsbD 0 = decide (f.kvar = 1) := by
      have := hwf'.1
      generalize f.kvar = k at this ⊢
      revert k
      decide
    rw [exec_caphd_held rfl rfl hx hh, Nat.mod_eq_of_lt hwf'.2, half_eq, hhalf]
    simp only [decide_eq_true_eq]
  case entry =>
    have hwf' : (f.kvar = 2 ∨ f.kvar = 3) ∧ f.ent ≠ 15 := by
      simp only [Instr.wf, Bool.and_eq_true, Bool.or_eq_true, beq_iff_eq, bne_iff_ne] at hwf
      exact ⟨hwf.1.1.1, hwf.1.1.2⟩
    have hent : ¬ 15 ≤ f.ent.toNat := by have := hwf'.2; bv_omega
    have hhalf : f.kvar.getLsbD 0 = decide (f.kvar = 3) := by obtain h | h := hwf'.1 <;> rw [h] <;> decide
    rw [exec_firing (o := 0x10C) rfl rfl hx rfl, hh]
    dsimp only
    rw [if_neg hent, half_eq, hhalf]
    simp only [decide_eq_true_eq]
  case arg => rw [exec_caphd_held rfl rfl hx hh, ofNat_entryArg]
  case ld =>
    rw [(exec_capld ht hd hx).2 h hh, if_pos hlt]
    exact ⟨fun hw => by rw [Ctx.chunkTok_whole hw], fun hw => by rw [Ctx.chunkTok_hurt hw]⟩
  case join =>
    rw [exec_capjoin_part ht hd hx hh hj hp hle hc, if_pos hlt]
    exact ⟨fun hw => by rw [Ctx.chunkTok_whole hw], fun hw => by rw [Ctx.chunkTok_hurt hw]⟩
  case new =>
    refine ⟨fun h8 hr => ?_, fun r b h8 hr hdr => ?_⟩
    · rw [exec_capn_new rfl rfl hx (Ctx.early_dataL_alone ⟨t, ht, hd⟩ hr) hh hb hq hn hv, capnAct, if_pos hv, h8, Ctx.opTok_some ht,
        if_neg Bool.false_ne_true]
    · rw [exec_capn_new rfl rfl hx (Ctx.early_dataLR ⟨t, ht, hd⟩ ⟨r, hr, hdr⟩) hh hb hq hn hv, capnAct, if_pos hv, h8,
        Ctx.opTok_some ht, Ctx.selTok_some hr, if_pos rfl]
  case adopt =>
    have hv0 : f.kvar ≠ 0 := by rw [hv]; decide
    rw [exec_capn_adopt rfl rfl hx (Ctx.early_dataL_alone ⟨t, ht, hd⟩ hr) hh hb hq hn hv ht hd hp hc, capnAct, if_neg hv0]
    rfl
  case hdNone =>
    simp only [List.mem_cons, List.not_mem_nil, or_false] at hi
    rcases hi with rfl | rfl | rfl
    · exact exec_caphd_none rfl rfl hx hh
    · rw [exec_firing (o := 0x10C) rfl rfl hx rfl, hh]
    · exact exec_caphd_none rfl rfl hx hh
  case none =>
    simp only [List.mem_cons, List.not_mem_nil, or_false] at hi
    rcases hi with rfl | rfl
    · exact (exec_capld ht hd hx).1 hh
    · exact exec_capjoin_none ht hd hx hh
  case ldRange => rw [(exec_capld ht hd hx).2 h hh, if_neg (Nat.not_lt.mpr hle)]
  case joinRange => rw [exec_capjoin_part ht hd hx hh hj hp hle hc, if_neg (Nat.not_lt.mpr hge)]
  case adoptHeld => exact exec_capn_held rfl rfl hx (Ctx.early_dataL_alone ⟨t, ht, hd⟩ hr) hh
  case newHeld => exact exec_capn_held rfl rfl hx (Ctx.early_dataL_alone ⟨t, ht, hd⟩ hr) hh

end Sys2Proof.Machine
end

section
/-! PROOF of O42. The merge of two ascending lists (13 R227). -/

namespace Sys2Proof.Machine

/-! ## One step of the loop -/

theorem lt_pad {v : Lane} (h : v ≠ pad) : v.toNat < pad.toNat := by
  unfold pad at h ⊢
  bv_omega

section
variable {n : Nat} {l r m : List Lane} {a b : Lane}
variable (hl : l.headD pad = a) (hr : r.headD pad = b)
include hl hr

theorem unionLanes_end (ha : a = pad) (hb : b = pad) : unionLanes n l r m = m := by
  cases n with
  | zero => rfl
  | succ n =>
    unfold unionLanes
    rw [hl, hr, ha, hb]
    rfl

theorem unionLanes_left (hab : a.toNat < b.toNat) (hm : a ∉ m) :
    unionLanes (n + 1) l r m = unionLanes n (l.drop 1) r (m ++ [a]) := by
  have hpad : ¬ (decide (a = pad) && decide (b = pad)) = true := by
    simp only [Bool.and_eq_true, decide_eq_true_eq]
    rintro ⟨rfl, rfl⟩
    exact Nat.lt_irrefl _ hab
  have hlast : ¬ m.getLast? = some a := fun h => hm (List.mem_of_getLast? h)
  rw [unionLanes, hl, hr]
  simp only [if_neg hpad, if_pos (Nat.le_of_lt hab), if_neg (Nat.not_le.mpr hab), if_neg hlast]

theorem unionLanes_right (hab : b.toNat < a.toNat) (hm : b ∉ m) :
    unionLanes (n + 1) l r m = unionLanes n l (r.drop 1) (m ++ [b]) := by
  have hpad : ¬ (decide (a = pad) && decide (b = pad)) = true := by
    simp only [Bool.and_eq_true, decide_eq_true_eq]
    rintro ⟨rfl, rfl⟩
    exact Nat.lt_irrefl _ hab
  have hlast : ¬ m.getLast? = some b := fun h => hm (List.mem_of_getLast? h)
  rw [unionLanes, hl, hr]
  simp only [if_neg hpad, if_pos (Nat.le_of_lt hab), if_neg (Nat.not_le.mpr hab), if_neg hlast]

theorem unionLanes_both (hab : a = b) (hp : a ≠ pad) (hm : a ∉ m) :
    unionLanes (n + 1) l r m = unionLanes n (l.drop 1) (r.drop 1) (m ++ [a]) := by
  subst hab
  have hlast : ¬ m.getLast? = some a := fun h => hm (List.mem_of_getLast? h)
  have hpad : ¬ (decide (a = pad) && decide (a = pad)) = true := by simpa using hp
  rw [unionLanes, hl, hr]
  simp only [if_neg hpad, if_pos (Nat.le_refl _), if_neg hlast]

end

/-! ## The whole loop -/

/-- Strictly ascending coordinates. -/
def ascendingLanes (ls : List Lane) : Prop := ls.Pairwise fun p q => p.toNat < q.toNat

/-- What has been merged lies below what has not. -/
def below (m ls : List Lane) : Prop := ∀ p ∈ m, ∀ q ∈ ls, p.toNat < q.toNat

theorem ascending_concat {m ls : List Lane} {u : Lane} (hm : ascendingLanes m) (hb : below m ls) (hu : u ∈ ls) : ascendingLanes (m ++ [u]) :=
  List.pairwise_append.mpr ⟨hm, List.pairwise_singleton _ _, fun p hp q hq => by
    rw [List.mem_singleton.mp hq]; exact hb p hp u hu⟩

theorem below_concat {m ls : List Lane} {u : Lane} (hb : below m ls) (hu : ∀ q ∈ ls, u.toNat < q.toNat) : below (m ++ [u]) ls := by
  intro p hp q hq
  obtain hp | hp := List.mem_append.mp hp
  · exact hb p hp q hq
  · rw [List.mem_singleton.mp hp]; exact hu q hq

theorem below_tail {m ls : List Lane} {u : Lane} (hb : below m (u :: ls)) : below m ls :=
  fun p hp q hq => hb p hp q (List.mem_cons_of_mem u hq)

theorem not_mem_of_below {m ls : List Lane} {u : Lane} (hb : below m ls) (hu : u ∈ ls) : u ∉ m :=
  fun h => Nat.lt_irrefl _ (hb u h u hu)

theorem lt_of_ascending_cons {u v : Lane} {ls : List Lane} (h : ascendingLanes (v :: ls)) (huv : u.toNat ≤ v.toNat) :
    ∀ q ∈ ls, u.toNat < q.toNat :=
  fun q hq => Nat.lt_of_le_of_lt huv ((List.pairwise_cons.mp h).1 q hq)

theorem headD_append_pads (ls : List Lane) (p : Nat) : (ls ++ List.replicate p pad).headD pad = ls.headD pad := by
  cases ls with
  | nil => cases p <;> rfl
  | cons => rfl

/-- With enough steps, the loop adds the ascending coordinates of both lists, each once, in order. -/
theorem unionLanes_merges (n : Nat) (p q : Nat) (l r m : List Lane) (hn : l.length + r.length ≤ n) (hl : ascendingLanes l)
    (hr : ascendingLanes r) (hm : ascendingLanes m) (hml : below m l) (hmr : below m r) (hlp : pad ∉ l) (hrp : pad ∉ r) :
    ascendingLanes (unionLanes n (l ++ List.replicate p pad) (r ++ List.replicate q pad) m) ∧
    ∀ v, v ∈ unionLanes n (l ++ List.replicate p pad) (r ++ List.replicate q pad) m ↔ v ∈ m ∨ v ∈ l ∨ v ∈ r := by
  induction n generalizing l r m with
  | zero =>
    have h0 := List.length_eq_zero_iff.mp (Nat.eq_zero_of_add_eq_zero_right (Nat.le_zero.mp hn))
    have h1 := List.length_eq_zero_iff.mp (Nat.eq_zero_of_add_eq_zero_left (Nat.le_zero.mp hn))
    subst h0 h1
    exact ⟨hm, fun v => by simp [unionLanes]⟩
  | succ n ih =>
    have left (u : Lane) (l' : List Lane) (he : l = u :: l') (hu : u.toNat < (r.headD pad).toNat)
        (hur : ∀ q ∈ r, u.toNat < q.toNat) :
        ascendingLanes (unionLanes (n + 1) (l ++ List.replicate p pad) (r ++ List.replicate q pad) m) ∧
        ∀ v, v ∈ unionLanes (n + 1) (l ++ List.replicate p pad) (r ++ List.replicate q pad) m ↔ v ∈ m ∨ v ∈ l ∨ v ∈ r := by
      subst he
      rw [unionLanes_left (a := u) rfl (headD_append_pads r q) hu (not_mem_of_below hml List.mem_cons_self)]
      obtain ⟨hasc, hmem⟩ := ih l' r (m ++ [u]) (by simp only [List.length_cons] at hn; omega) (List.pairwise_cons.mp hl).2 hr
        (ascending_concat hm hml List.mem_cons_self) (below_concat (below_tail hml) (List.pairwise_cons.mp hl).1)
        (below_concat hmr hur) (fun h => hlp (List.mem_cons_of_mem u h)) hrp
      exact ⟨hasc, fun v => by
        rw [List.cons_append, List.drop_succ_cons, List.drop_zero, hmem]
        simp only [List.mem_append, List.mem_cons, List.not_mem_nil, or_false]
        grind⟩
    have right (u : Lane) (r' : List Lane) (he : r = u :: r') (hu : u.toNat < (l.headD pad).toNat)
        (hul : ∀ q ∈ l, u.toNat < q.toNat) :
        ascendingLanes (unionLanes (n + 1) (l ++ List.replicate p pad) (r ++ List.replicate q pad) m) ∧
        ∀ v, v ∈ unionLanes (n + 1) (l ++ List.replicate p pad) (r ++ List.replicate q pad) m ↔ v ∈ m ∨ v ∈ l ∨ v ∈ r := by
      subst he
      rw [unionLanes_right (b := u) (headD_append_pads l p) rfl hu (not_mem_of_below hmr List.mem_cons_self)]
      obtain ⟨hasc, hmem⟩ := ih l r' (m ++ [u]) (by simp only [List.length_cons] at hn; omega) hl (List.pairwise_cons.mp hr).2
        (ascending_concat hm hmr List.mem_cons_self) (below_concat hml hul)
        (below_concat (below_tail hmr) (List.pairwise_cons.mp hr).1) hlp (fun h => hrp (List.mem_cons_of_mem u h))
      exact ⟨hasc, fun v => by
        rw [List.cons_append, List.drop_succ_cons, List.drop_zero, hmem]
        simp only [List.mem_append, List.mem_cons, List.not_mem_nil, or_false]
        grind⟩
    cases l with
    | nil =>
      cases r with
      | nil =>
        rw [unionLanes_end (headD_append_pads [] p) (headD_append_pads [] q) rfl rfl]
        exact ⟨hm, fun v => by simp⟩
      | cons v r => exact right v r rfl (lt_pad fun h => hrp (h ▸ List.mem_cons_self)) nofun
    | cons u l =>
      cases r with
      | nil => exact left u l rfl (lt_pad fun h => hlp (h ▸ List.mem_cons_self)) nofun
      | cons v r =>
        obtain huv | huv | huv := Nat.lt_trichotomy u.toNat v.toNat
        · exact left u l rfl huv (List.forall_mem_cons.mpr ⟨huv, lt_of_ascending_cons hr (Nat.le_of_lt huv)⟩)
        · obtain rfl := BitVec.eq_of_toNat_eq huv
          rw [unionLanes_both (a := u) (b := u) rfl rfl rfl (fun h => hlp (h ▸ List.mem_cons_self)) (not_mem_of_below hml List.mem_cons_self)]
          obtain ⟨hasc, hmem⟩ := ih l r (m ++ [u]) (by simp only [List.length_cons] at hn; omega) (List.pairwise_cons.mp hl).2
            (List.pairwise_cons.mp hr).2 (ascending_concat hm hml List.mem_cons_self)
            (below_concat (below_tail hml) (List.pairwise_cons.mp hl).1) (below_concat (below_tail hmr) (List.pairwise_cons.mp hr).1)
            (fun h => hlp (List.mem_cons_of_mem u h)) (fun h => hrp (List.mem_cons_of_mem u h))
          exact ⟨hasc, fun v => by
            simp only [List.cons_append, List.drop_succ_cons, List.drop_zero, hmem]
            simp only [List.mem_append, List.mem_cons, List.not_mem_nil, or_false]
            grind⟩
        · exact right v r rfl huv (List.forall_mem_cons.mpr ⟨huv, lt_of_ascending_cons hl (Nat.le_of_lt huv)⟩)

/-! ## Operands -/

theorem pad_not_mem_coords (ls : List Lane) : pad ∉ coords ls := fun h => by
  have hne := List.all_eq_true.mp List.all_takeWhile _ h
  simp at hne

/-- An operand whose lanes from its first pad on are pads. -/
theorem eq_coords_append_pads {w : Nat} {ls : List Lane} (hw : ls.length = w)
    (h : ∀ i < w, (coords ls).length ≤ i → ls.getD i 0 = 0xFFFFFFFF) :
    ls = coords ls ++ List.replicate (w - (coords ls).length) pad := by
  subst hw
  have hpre : coords ls <+: ls := List.takeWhile_prefix _
  refine List.ext_getElem (by simp only [List.length_append, List.length_replicate]; have := hpre.length_le; omega) fun i h1 h2 => ?_
  by_cases hi : i < (coords ls).length
  · rw [List.getElem_append_left hi, hpre.getElem hi]
  · rw [List.getElem_append_right (Nat.not_lt.mp hi), List.getElem_replicate, ← getD_of_lt 0 h1, h i h1 (Nat.not_lt.mp hi)]
    rfl

/-- Settles O42: what the loop gives, and that it is the one merge of ascending coordinates. -/
theorem unionMerges : Obligations.UnionMerges := by
  unfold Obligations.UnionMerges
  refine ⟨fun f s x t a b h ht hd hb => ?_, by decide⟩
  have ha : x.dataL a := ⟨t, ht, hd⟩
  obtain ⟨u, hu, -, hlanes, hlen⟩ := id hb
  have hexec : exec (.union f) s = .next (x.after s ((x.deliver f.c.t0 (x.data (padPad x.width (unionLanes (2 * x.width + 1) a b [])))).andThen
      (x.deliver f.c.t1 (x.data (padPad x.width ((unionLanes (2 * x.width + 1) a b []).drop x.width)))))) := by
    rw [exec_firing (o := 0x16A) rfl rfl h rfl, Ctx.withData_two ha hb, Ctx.lanesL_data ha, Ctx.selTok_some hu, hlanes]
  refine ⟨hexec, fun hsa hsb hpa hpb => ?_⟩
  have hla : (coords a).length ≤ x.width := Nat.le_trans (List.takeWhile_prefix _).length_le (Nat.le_of_eq (Ctx.length_of_dataL ha))
  have hlb : (coords b).length ≤ x.width := Nat.le_trans (List.takeWhile_prefix _).length_le (Nat.le_of_eq hlen)
  obtain ⟨hasc, hmem⟩ := unionLanes_merges (2 * x.width + 1) (x.width - (coords a).length) (x.width - (coords b).length) (coords a)
    (coords b) [] (by omega) hsa hsb List.Pairwise.nil nofun nofun (pad_not_mem_coords a) (pad_not_mem_coords b)
  rw [← eq_coords_append_pads (Ctx.length_of_dataL ha) hpa, ← eq_coords_append_pads hlen hpb] at hasc hmem
  exact ⟨_, hasc, fun v => by rw [hmem]; simp, hexec⟩

end Sys2Proof.Machine
end

section
/-! PROOF of O43 and O44. Tags, tiles, sparse accumulators and barriers (12 R197, R211; 13 R219 to R222, R229 to R232). -/

namespace Sys2Proof.Machine

/-! ## Selectors -/

section
variable {x : Ctx} {c : Common} {t : Token} {act : Act}

theorem Ctx.select_data (hk : t.kind = .data) : x.select t act = act := by
  simp [Ctx.select, Token.isBad, hk]

theorem Ctx.selectAnswer_data (hk : t.kind = .data) : x.selectAnswer c t act = act := by
  simp [Ctx.selectAnswer, Token.isBad, hk]

variable {f : FormA} {b : List Lane} (hb : x.dataB f b)
include hb

/-- The second operand as a selector: a data token with its lanes. -/
theorem Ctx.selR_data : (x.selR f).kind = .data ∧ (x.selR f).lanes = b := by
  have hlen := Ctx.length_of_dataB hb
  obtain ⟨hi, -, rfl⟩ | ⟨hi, u, hu, hk, hl, -⟩ := id hb
  · rw [Ctx.selR, if_pos hi, Ctx.lanesR_data hb]
    exact ⟨rfl, padLanes_self hlen⟩
  · rw [Ctx.selR, if_neg (Bool.eq_false_iff.mp hi), Ctx.selTok_some hu]
    exact ⟨hk, hl⟩

theorem Ctx.selR_lane0 : (x.selR f).lane0 = b.headD 0 := by rw [Token.lane0, (Ctx.selR_data hb).2]

end

/-! ## Tile entries (R221) -/

section
variable {i : Instr} {f : FormA} {s : State} {x : Ctx} {t : Token} {range overlap : Bool} {op : Lane → TileOp}

/-- The cluster's copy of a tile is the colour's own, or nobody's. -/
def Ctx.mayTile (x : Ctx) (k : ClusterState) (tile : Nat) : Prop :=
  x.colour ≠ 0 ∧ (tileCol (k.copyOf tile) = 0 ∨ tileCol (k.copyOf tile) = x.colour)

/-- What `tset` does with its operand, check by check. -/
def Ctx.tsetBody (x : Ctx) (k : ClusterState) (tile : Nat) (w : Lane) (range overlap : Bool) (op : TileOp) : Act :=
  if range && !tileInSite w then x.fault Code.tileRange
  else if x.colour = 0 || (tileCol (k.copyOf tile) ≠ 0 && tileCol (k.copyOf tile) ≠ x.colour) then x.fault Code.tileColour
  else if overlap && k.overlaps tile w then x.fault Code.tileOverlap
  else x.record (.tile tile op)

theorem exec_tset (hi : i.opForm = some (0x163, .a f)) (he : exec i s = .next ((tsetAt f range overlap op).run s))
    (h : firing i s = some x) (ht : x.fields.l = some t) (hk : t.kind = .data) :
    exec i s = .next (x.after s (x.tsetBody ((x.consume.run s).m.cluster (clusterOf x.core)) (bits t.lane0.toNat 0 8)
      (t.lanes.getD 1 0) range overlap (op (t.lanes.getD 1 0)))) := by
  rw [exec_firing hi rfl h he, Ctx.opTok_some ht]
  simp only [Ctx.select_data hk, Ctx.after_look]
  rfl

variable {k : ClusterState} {tile : Nat} {w : Lane} {o : TileOp}

theorem Ctx.tsetBody_range (hr : range = true) (hw : tileInSite w = false) :
    x.tsetBody k tile w range overlap o = x.fault Code.tileRange := by
  rw [Ctx.tsetBody, hr, hw]
  rfl

variable (hr : range = true → tileInSite w = true)
include hr

theorem range_passes : ¬ (range && !tileInSite w) = true := by
  cases range
  · exact Bool.false_ne_true
  · rw [hr rfl]; exact Bool.false_ne_true

theorem Ctx.tsetBody_colour (hm : ¬ x.mayTile k tile) : x.tsetBody k tile w range overlap o = x.fault Code.tileColour := by
  have hc : (decide (x.colour = 0) || (decide (tileCol (k.copyOf tile) ≠ 0) && decide (tileCol (k.copyOf tile) ≠ x.colour))) = true := by
    rw [Ctx.mayTile] at hm
    simp only [Bool.or_eq_true, Bool.and_eq_true, decide_eq_true_eq]
    grind
  rw [Ctx.tsetBody, if_neg (range_passes hr), if_pos hc]

variable (hm : x.mayTile k tile)
include hm

theorem colour_passes :
    ¬ (decide (x.colour = 0) || (decide (tileCol (k.copyOf tile) ≠ 0) && decide (tileCol (k.copyOf tile) ≠ x.colour))) = true := by
  rw [Ctx.mayTile] at hm
  simp only [Bool.or_eq_true, Bool.and_eq_true, decide_eq_true_eq]
  grind

theorem Ctx.tsetBody_overlap (ho : overlap = true) (hk : k.overlaps tile w = true) :
    x.tsetBody k tile w range overlap o = x.fault Code.tileOverlap := by
  rw [Ctx.tsetBody, if_neg (range_passes hr), if_neg (colour_passes hr hm), ho, hk]
  rfl

theorem Ctx.tsetBody_record (ho : overlap = true → k.overlaps tile w = false) :
    x.tsetBody k tile w range overlap o = x.record (.tile tile o) := by
  have hov : ¬ (overlap && k.overlaps tile w) = true := by
    cases overlap
    · exact Bool.false_ne_true
    · rw [ho rfl]; exact Bool.false_ne_true
  rw [Ctx.tsetBody, if_neg (range_passes hr), if_neg (colour_passes hr hm), if_neg hov]

end

/-- Settles O43, from the checks of each instruction on its operands. -/
theorem tagsAndTilesComplete : Obligations.TagsAndTilesComplete := by
  unfold Obligations.TagsAndTilesComplete
  intro f s x t a ht hd u tok addr tile w k
  have ha : x.dataL a := ⟨t, ht, hd⟩
  obtain ⟨hkind, rfl, -⟩ := id hd
  refine ⟨fun h => ?look, fun h b hb => ?ins, fun h => ?inv, fun p hp h => ?set, fun h => ?wait⟩
  case look =>
    rw [exec_firing (o := 0x160) rfl rfl h rfl, Ctx.withData_one ha, Ctx.lanesL_data ha, Ctx.opTok_some ht]
    exact ⟨fun hlt => by dsimp only; rw [if_neg (Nat.not_le.mpr hlt)]; rfl, fun hle => by dsimp only; rw [if_pos hle]⟩
  case ins =>
    rw [exec_firing (o := 0x161) rfl rfl h rfl, Ctx.withData_one ha]
    dsimp only
    rw [Ctx.select_data (Ctx.selR_data hb).1, Ctx.lanesL_data ha, Ctx.opTok_some ht, Ctx.selR_lane0 hb]
    exact ⟨fun hlt => by rw [if_neg (Nat.not_le.mpr hlt)]; rfl, fun hle => by rw [if_pos hle]⟩
  case inv =>
    rw [exec_firing (o := 0x162) rfl rfl h rfl, Ctx.opTok_some ht]
    dsimp only
    rw [Ctx.select_data hkind]
    rfl
  case set =>
    have body (range overlap : Bool) (o : TileOp) (i : Instr) (he : exec i s = .next (x.after s (x.tsetBody k tile w range overlap o))) :
        ((range = true → tileInSite w = true) → x.mayTile k tile → (overlap = true → k.overlaps tile w = false) →
          exec i s = .next (x.after s (x.record (.tile tile o)))) ∧
        (range = true → tileInSite w = false → exec i s = .next (x.after s (x.fault Code.tileRange))) ∧
        ((range = true → tileInSite w = true) → ¬ x.mayTile k tile → exec i s = .next (x.after s (x.fault Code.tileColour))) ∧
        ((range = true → tileInSite w = true) → x.mayTile k tile → overlap = true → k.overlaps tile w = true →
          exec i s = .next (x.after s (x.fault Code.tileOverlap))) :=
      ⟨fun hr hm ho => by rw [he, Ctx.tsetBody_record hr hm ho], fun hr hw => by rw [he, Ctx.tsetBody_range hr hw],
        fun hr hm => by rw [he, Ctx.tsetBody_colour hr hm], fun hr hm ho hk => by rw [he, Ctx.tsetBody_overlap hr hm ho hk]⟩
    simp only [List.mem_cons, List.not_mem_nil, or_false] at hp
    rcases hp with rfl | rfl | rfl | rfl
    · exact body _ _ _ _ (exec_tset (op := fun _ => .setEmpty) rfl rfl h ht hkind)
    · exact body _ _ _ _ (exec_tset (op := fun w => .setReady w) rfl rfl h ht hkind)
    · exact body _ _ _ _ (exec_tset (op := fun w => .setBind w) rfl rfl h ht hkind)
    · exact body _ _ _ _ (exec_tset (op := fun _ => .setFree) rfl rfl h ht hkind)
  case wait =>
    rw [exec_firing (o := 0x164) rfl rfl h rfl, Ctx.opTok_some ht]
    simp only [hkind, ne_eq, not_true_eq_false, if_false, Ctx.after_look]
    refine ⟨fun hc => ?_, fun h0 hc => ?_⟩
    · rw [if_neg]
      · rfl
      · simp only [Bool.and_eq_true, decide_eq_true_eq]
        exact fun hn => hc.elim hn.1 hn.2
    · rw [if_pos]
      simp only [Bool.and_eq_true, decide_eq_true_eq]
      exact ⟨h0, hc⟩

/-! ## Barriers (R232) -/

theorem Ctx.barAt_below {x : Ctx} {f : FormA} {t : Token} {act : Nat → Nat → Act}
    (h : bits t.lane0.toNat 0 6 < barEntries (bits f.sub.toNat 0 3)) :
    x.barAt f t act = act (bits f.sub.toNat 0 3) (bits t.lane0.toNat 0 6) := by
  rw [Ctx.barAt]
  exact if_neg (Nat.not_le.mpr h)

theorem Ctx.barAt_beyond {x : Ctx} {f : FormA} {t : Token} {act : Nat → Nat → Act}
    (h : barEntries (bits f.sub.toNat 0 3) ≤ bits t.lane0.toNat 0 6) : x.barAt f t act = x.fault Code.barRange := by
  rw [Ctx.barAt]
  exact if_pos h

/-- A block outside capsules whose one effect is at a barrier meets no other breach than a refused join's. -/
theorem Ctx.commitFault_bar {s : State} {x : Ctx} {i : Nat} {e : BarEv} (ha : x.w.acts = [(i, .bar e)]) (hk : x.a.kind ≠ .capsule) :
    x.commitFault s = joinFault x.a.enrol [(i, .bar e)] := by
  have hslot : bySlot x.w.acts = [(i, .bar e)] := by rw [ha]; rfl
  have hplan : ∀ h, ∃ p, capPlan x.a.kind x.width (freshCapsule s x.core x.a.cfg x.width x.colour) h [(i, .bar e)] = .ok p := by
    rintro (_ | h)
    · exact ⟨_, rfl⟩
    · exact ⟨_, rfl⟩
  obtain ⟨p, hp⟩ := hplan x.a.held
  rw [Ctx.commitFault, hslot]
  dsimp only
  rw [hp, if_pos hk]
  cases joinFault x.a.enrol [(i, .bar e)] <;> rfl


/-- Settles O44, from the index, the selectors, and the first refused join of a block. -/
theorem sparseAndBarriersComplete : Obligations.SparseAndBarriersComplete := by
  unfold Obligations.SparseAndBarriersComplete
  intro f s x t a ht hd scope idx ev
  have ha : x.dataL a := ⟨t, ht, hd⟩
  obtain ⟨hkind, rfl, -⟩ := id hd
  refine ⟨fun b hb => ⟨fun h => ?spacc, fun h net p ht0 => ?spdr, fun h hlt => ?binit, fun h hle => ?binitRange⟩, fun h hlt => ?bjoin,
    fun i r hacts hk => ?joins, fun h hlt => ?barv, fun h hlt => ?bwait, fun h hlt => ?bleave, fun i hi h hle => ?range⟩
  case spacc =>
    rw [exec_firing (o := 0x16B) rfl rfl h rfl]
    dsimp only
    rw [Ctx.dataSelect, Ctx.withData_one ha, Ctx.selectAnswer_data (Ctx.selR_data hb).1, Ctx.selR_lane0 hb, Ctx.opTok_some ht,
      Ctx.lanesL_data ha]
  case spdr =>
    rw [exec_firing (o := 0x16C) rfl rfl h rfl, Ctx.opTok_some ht, Ctx.widthed_data hd]
    dsimp only
    rw [if_neg (by rw [Token.isBad_of_kind hkind]; exact Bool.false_ne_true), Ctx.selectAnswer_data (Ctx.selR_data hb).1,
      Ctx.selR_lane0 hb, ht0]
  case binit =>
    rw [exec_firing (o := 0x16D) rfl rfl h rfl, Ctx.opTok_some ht]
    dsimp only
    rw [Ctx.select_data hkind, Ctx.select_data (Ctx.selR_data hb).1, Ctx.barAt_below hlt, Ctx.selR_lane0 hb]
    exact ⟨fun he => by rw [if_neg he]; rfl, fun he => by rw [if_pos he]⟩
  case binitRange =>
    rw [exec_firing (o := 0x16D) rfl rfl h rfl, Ctx.opTok_some ht]
    dsimp only
    rw [Ctx.select_data hkind, Ctx.select_data (Ctx.selR_data hb).1, Ctx.barAt_beyond hle]
  case bjoin =>
    rw [exec_firing (o := 0x16E) rfl rfl h rfl, Ctx.opTok_some ht]
    dsimp only
    rw [Ctx.select_data hkind, Ctx.barAt_below hlt]
    rfl
  case joins =>
    rw [Ctx.commitFault_bar hacts hk]
    refine ⟨fun hin => ?_, fun hout h4 => ?_, fun hout h4 => ?_⟩
    · simp [joinFault, hin]
    · simp [joinFault, hout, h4]
    · simp [joinFault, hout, Nat.not_le.mpr h4]
  case barv =>
    rw [exec_firing (o := 0x16F) rfl rfl h rfl, Ctx.opTok_some ht]
    dsimp only
    rw [Ctx.select_data hkind, Ctx.barAt_below hlt]
    rfl
  case bwait =>
    rw [exec_firing (o := 0x170) rfl rfl h rfl, Ctx.opTok_some ht]
    dsimp only
    rw [Ctx.selectAnswer_data hkind, Ctx.barAt_below hlt]
    rfl
  case bleave =>
    rw [exec_firing (o := 0x171) rfl rfl h rfl, Ctx.opTok_some ht]
    dsimp only
    rw [Ctx.select_data hkind, Ctx.barAt_below hlt]
    rfl
  case range =>
    simp only [List.mem_cons, List.not_mem_nil, or_false] at hi
    rcases hi with rfl | rfl | rfl | rfl
    · rw [exec_firing (o := 0x16E) rfl rfl h rfl, Ctx.opTok_some ht]
      dsimp only
      rw [Ctx.select_data hkind, Ctx.barAt_beyond hle]
    · rw [exec_firing (o := 0x16F) rfl rfl h rfl, Ctx.opTok_some ht]
      dsimp only
      rw [Ctx.select_data hkind, Ctx.barAt_beyond hle]
    · rw [exec_firing (o := 0x170) rfl rfl h rfl, Ctx.opTok_some ht]
      dsimp only
      rw [Ctx.selectAnswer_data hkind, Ctx.barAt_beyond hle]
    · rw [exec_firing (o := 0x171) rfl rfl h rfl, Ctx.opTok_some ht]
      dsimp only
      rw [Ctx.select_data hkind, Ctx.barAt_beyond hle]

end Sys2Proof.Machine
end

section
/-! PROOF of O45. The commands of the engines (17 R289, 13 R223, 21 R355, 22 R366). -/

namespace Sys2Proof.Machine

/-! ## The parameter slots -/

theorem mem_upFrom {n k i : Nat} : i ∈ upFrom n k ↔ k ≤ i ∧ i < k + n := by rw [upFrom_eq_range', List.mem_range'_1]

section
variable {x : Ctx} {c : Common} {act : Act}

theorem Ctx.badParam_clean {ts : List Token} (h : ∀ t ∈ ts, t.isBad = false ∧ t.kind ≠ .stop) : x.badParam c ts act = act := by
  have hbad : ts.find? Token.isBad = none := by
    rw [List.find?_eq_none]
    exact fun t ht => Bool.eq_false_iff.mp (h t ht).1
  have hstop : (ts.find? fun t => t.kind == .stop) = none := by
    rw [List.find?_eq_none]
    exact fun t ht => by simpa using (h t ht).2
  rw [Ctx.badParam, hbad]
  simp only [hstop]

theorem Ctx.badParam_bad {t : Token} {ts : List Token} (h : t.isBad = true) :
    x.badParam c (t :: ts) act = (x.deliver0 c (x.pass t)).andThen (x.unless (x.record .errCount)) := by
  rw [Ctx.badParam, List.find?_cons_of_pos h]

end

/-! ## A command that fires -/

/-- The lanes of an instruction's parameter slots. -/
def Ctx.params (x : Ctx) (f : FormX) (n : Nat) : List (List Lane) := (upFrom n f.pbase.toNat).map fun k => (x.a.slotTok k).lanes

theorem Ctx.map_lanes_slots (x : Ctx) (f : FormX) (n : Nat) :
    ((upFrom n f.pbase.toNat).map x.a.slotTok).map Token.lanes = x.params f n := List.map_map

section
variable {i : Instr} {o : BitVec 9} {f : FormX} {s : State} {x : Ctx} {n : Nat}
  {build : State → Ctx → List (List Lane) → Except Nat CmdKind}
variable (hi : i.opForm = some (o, .x f)) (he : exec i s = .next ((xcmd o.toNat f n build).run s)) (h : firing i s = some x)
include hi he h

theorem exec_xcmd_bad (hn : 0 < n) (hb : (x.a.slotTok f.pbase.toNat).isBad = true) : exec i s = .next (x.after s
    ((x.deliver0 f.c (x.pass (x.a.slotTok f.pbase.toNat))).andThen (x.unless (x.record .errCount)))) := by
  obtain ⟨n, rfl⟩ := Nat.exists_eq_add_of_lt hn
  rw [exec_firing hi rfl h he]
  dsimp only
  rw [Nat.zero_add, upFrom, List.map_cons, Ctx.badParam_bad hb]

variable (hc : ∀ k, f.pbase.toNat ≤ k → k < f.pbase.toNat + n → (x.a.slotTok k).isBad = false ∧ (x.a.slotTok k).kind ≠ .stop)
include hc

omit hi he h in
theorem Ctx.badParam_slots {c : Common} {act : Act} : x.badParam c ((upFrom n f.pbase.toNat).map x.a.slotTok) act = act := by
  refine Ctx.badParam_clean fun t ht => ?_
  obtain ⟨k, hk, rfl⟩ := List.mem_map.mp ht
  exact hc k (mem_upFrom.mp hk).1 (mem_upFrom.mp hk).2

/-- A command whose parameters pass is recorded. -/
theorem exec_xcmd_ok {k : CmdKind} (hk : build (x.consume.run s) x (x.params f n) = .ok k) :
    exec i s = .next (x.after s (x.record (.cmd ⟨x.who, x.a.cfg, x.width, x.trigger, x.replyTarget f.c, k⟩))) := by
  rw [exec_firing hi rfl h he]
  dsimp only
  rw [Ctx.badParam_slots hc, Ctx.after_look, Ctx.map_lanes_slots, hk]

/-- One whose parameters break a check takes the fault. -/
theorem exec_xcmd_error {c : Nat} (hk : build (x.consume.run s) x (x.params f n) = .error c) :
    exec i s = .next (x.after s (x.fault c)) := by
  rw [exec_firing hi rfl h he]
  dsimp only
  rw [Ctx.badParam_slots hc, Ctx.after_look, Ctx.map_lanes_slots, hk]

end

/-! ## The checks of the streamers' commands (R289 to R292) -/

theorem firstBreach_none {bs : List (Bool × Nat)} (h : ∀ b ∈ bs, b.1 = false) : firstBreach bs = .ok () := by
  induction bs with
  | nil => rfl
  | cons b bs ih =>
    rw [firstBreach, h b List.mem_cons_self, if_neg Bool.false_ne_true]
    exact ih fun c hc => h c (List.mem_cons_of_mem b hc)

theorem tileParams_ok {sp : Space} {ps : List (List Lane)} (ha : paramAddr sp ps 0 % 128 = 0) (ht : bits (param ps 1 0) 8 24 = 0) :
    tileParams sp ps = .ok (paramAddr sp ps 0, param ps 1 0) := by
  have hb : firstBreach [(decide (paramAddr sp ps 0 % 128 ≠ 0), Code.strParam), (decide (bits (param ps 1 0) 8 24 ≠ 0), Code.strParam)] =
      .ok () := firstBreach_none (by simp [ha, ht])
  rw [tileParams, hb]
  rfl

/-- A collective's command is recorded under the checks that need no home. -/
theorem exec_coll {i : Instr} {f : FormX} {s : State} {x : Ctx} {eop : Nat} (hi : i.opForm = some (0x1B0, .x f))
    (he : exec i s = .next ((collAt eop f).run s)) (h : firing i s = some x)
    (hc : ∀ k, f.pbase.toNat ≤ k → k < f.pbase.toNat + 6 → (x.a.slotTok k).isBad = false ∧ (x.a.slotTok k).kind ≠ .stop) :
    let ty := f.flags.toNat % 32
    let ps := x.params f 6
    let ok := paramAddr .g ps 2 % 4 = 0 ∧ paramAddr .g ps 3 % 4 = 0 ∧ param ps 4 0 % (if ty = 1 then 8 else 4) = 0 ∧
      bits (param ps 5 1) 12 20 = 0
    (ok → exec i s = .next (x.after s (x.record (.cmd ⟨x.who, x.a.cfg, x.width, x.trigger, x.replyTarget f.c,
      .coll eop (f.var.toNat % 8) ty (f.flags.getLsbD 5 || (x.consume.run s).confDet x.a.cfg) ps⟩)))) ∧
    (¬ ok → exec i s = .next (x.after s (x.fault Code.collParam))) := by
  intro ty ps ok
  refine ⟨fun hok => exec_xcmd_ok hi he h hc (if_neg ?_), fun hok => exec_xcmd_error hi he h hc (if_pos ?_)⟩
  · simp only [Bool.or_eq_true, decide_eq_true_eq, not_or, Classical.not_not, and_assoc]
    exact hok
  · simp only [ok, Classical.not_and_iff_not_or_not] at hok
    simpa only [Bool.or_eq_true, decide_eq_true_eq, or_assoc] using hok

/-- Settles O45, from the checks that each command makes on its parameters. -/
theorem commandsAreRecorded : Obligations.CommandsAreRecorded := by
  unfold Obligations.CommandsAreRecorded
  intro f s x ps clean cmd lane g does
  refine ⟨?cpy, ?gather, fun hc ht => ⟨fun ha h => ?tfill, fun ha h => ?tdrain⟩, fun hc h => ?mxb, fun h => ?mxz, fun hc h => ?mxr,
    fun h => ?mxck, fun hc => ⟨fun ha h => ?sealo, fun ha h => ?sealoFault⟩, fun hc h => ?sealc, fun hc h => ?seals,
    ?coll, fun hc => ⟨fun h1 h2 h3 h => ?lnkr, fun h1 h => ?lnkrFault, fun h1 h => ?trgen,
      fun h1 h => ?trgenFault, fun h => ?collab⟩, fun i hi hb h => ?bad⟩
  case cpy =>
    intro src dst a b n hc hs hd hm h
    have hb : firstBreach [spaceBreach src a n, spaceBreach dst b n,
        (decide (src = dst) && meets a n b n && decide (a < b), Code.strOverlap)] = .ok () := firstBreach_none (by
      have hover : (decide (src = dst) && meets a n b n && decide (a < b)) = false := by
        simp only [Bool.and_eq_false_iff, decide_eq_false_iff_not]
        by_cases he : src = dst
        · by_cases hmt : meets a n b n = true
          · exact .inr (Nat.not_lt.mpr (hm he hmt))
          · exact .inl (.inr (Bool.not_eq_true _ ▸ hmt))
        · exact .inl (.inl he)
      simp only [List.mem_cons, List.not_mem_nil, or_false]
      rintro p (rfl | rfl | rfl)
      · exact hs
      · exact hd
      · exact hover)
    exact exec_xcmd_ok (o := 0x180) rfl rfl h hc (congrArg (Except.map fun _ => CmdKind.cpy src dst a b n) hb)
  case gather =>
    intro src dst ix a b i n z hc h3 hi ha hb hx
    have h3' : decide (bits (param (x.params f 4) 3 0) 24 8 ≠ 0) = false := decide_eq_false (not_not_intro h3)
    have hi' : decide (i % 4 ≠ 0) = false := decide_eq_false (not_not_intro hi)
    have hab : (decide (a % z ≠ 0) || decide (b % z ≠ 0)) = false := by
      rw [decide_eq_false (not_not_intro ha), decide_eq_false (not_not_intro hb)]
      rfl
    refine ⟨fun hd hm h => ?gath, fun hs h => ?scat⟩
    case gath =>
      have hmeet : (!false && decide (dst = ix) && meets b (n * z) i (4 * n)) = false := by
        by_cases he : dst = ix
        · rw [hm he, Bool.and_false]
        · rw [decide_eq_false he, Bool.and_false, Bool.false_and]
      have hbr : firstBreach [(decide (bits (param (x.params f 4) 3 0) 24 8 ≠ 0), Code.strParam), (decide (i % 4 ≠ 0), Code.strParam),
          (decide (a % z ≠ 0) || decide (b % z ≠ 0), Code.misalign), spaceBreach ix i (4 * n), spaceBreach dst b (n * z),
          (!false && decide (dst = ix) && meets b (n * z) i (4 * n), Code.strOverlap)] = .ok () := firstBreach_none (by
        simp only [List.mem_cons, List.not_mem_nil, or_false]
        rintro p (rfl | rfl | rfl | rfl | rfl | rfl)
        · exact h3'
        · exact hi'
        · exact hab
        · exact hx
        · exact hd
        · exact hmeet)
      exact exec_xcmd_ok (o := 0x181) rfl rfl h hc (congrArg (Except.map fun _ => CmdKind.gath src dst ix a b i n z) hbr)
    case scat =>
      have hbr : firstBreach [(decide (bits (param (x.params f 4) 3 0) 24 8 ≠ 0), Code.strParam), (decide (i % 4 ≠ 0), Code.strParam),
          (decide (a % z ≠ 0) || decide (b % z ≠ 0), Code.misalign), spaceBreach ix i (4 * n), spaceBreach src a (n * z),
          (!true && decide (dst = ix) && meets b (n * z) i (4 * n), Code.strOverlap)] = .ok () := firstBreach_none (by
        simp only [List.mem_cons, List.not_mem_nil, or_false]
        rintro p (rfl | rfl | rfl | rfl | rfl | rfl)
        · exact h3'
        · exact hi'
        · exact hab
        · exact hx
        · exact hs
        · exact rfl)
      exact exec_xcmd_ok (o := 0x182) rfl rfl h hc (congrArg (Except.map fun _ => CmdKind.scat src dst ix a b i n z) hbr)
  case tfill =>
    exact exec_xcmd_ok (o := 0x183) rfl rfl h hc (congrArg (Except.map fun at_ => CmdKind.tfill (srcSpace f) at_.1 at_.2)
      (tileParams_ok ha ht))
  case tdrain =>
    exact exec_xcmd_ok (o := 0x184) rfl rfl h hc (congrArg (Except.map fun at_ => CmdKind.tdrain (dstSpace f) at_.1 at_.2
      (f.flags.getLsbD 5)) (tileParams_ok ha ht))
  case mxb => exact exec_xcmd_ok (o := 0x165) rfl rfl h hc rfl
  case mxz => exact exec_xcmd_ok (o := 0x166) (n := 0) rfl rfl h (fun k h1 h2 => absurd h1 (Nat.not_le.mpr h2)) rfl
  case mxr => exact exec_xcmd_ok (o := 0x167) rfl rfl h hc rfl
  case mxck => exact exec_xcmd_ok (o := 0x168) (n := 0) rfl rfl h (fun k h1 h2 => absurd h1 (Nat.not_le.mpr h2)) rfl
  case sealo => exact exec_xcmd_ok (o := 0x1A0) rfl rfl h hc (if_neg (not_not_intro ha))
  case sealoFault => exact exec_xcmd_error (o := 0x1A0) rfl rfl h hc (if_pos ha)
  case sealc => exact exec_xcmd_ok (o := 0x1A1) rfl rfl h hc rfl
  case seals => exact exec_xcmd_ok (o := 0x1A2) rfl rfl h hc rfl
  case coll =>
    intro p hp ty ok hc
    simp only [List.mem_cons, List.not_mem_nil, or_false] at hp
    rcases hp with rfl | rfl | rfl | rfl
    · exact ⟨fun hok h => (exec_coll rfl rfl h hc).1 hok, fun hok h => (exec_coll rfl rfl h hc).2 hok⟩
    · exact ⟨fun hok h => (exec_coll rfl rfl h hc).1 hok, fun hok h => (exec_coll rfl rfl h hc).2 hok⟩
    · exact ⟨fun hok h => (exec_coll rfl rfl h hc).1 hok, fun hok h => (exec_coll rfl rfl h hc).2 hok⟩
    · exact ⟨fun hok h => (exec_coll rfl rfl h hc).1 hok, fun hok h => (exec_coll rfl rfl h hc).2 hok⟩
  case lnkr =>
    refine exec_xcmd_ok (o := 0x1B1) rfl rfl h hc (if_neg ?_)
    simp only [Bool.or_eq_true, decide_eq_true_eq, not_or, Classical.not_not]
    exact ⟨⟨Nat.not_lt.mpr h1, h2⟩, h3⟩
  case lnkrFault =>
    refine exec_xcmd_error (o := 0x1B1) rfl rfl h hc (if_pos ?_)
    simp only [Bool.or_eq_true, decide_eq_true_eq]
    exact .inl (.inl h1)
  case trgen => exact exec_xcmd_ok (o := 0x1B2) rfl rfl h hc (if_neg (not_not_intro h1))
  case trgenFault => exact exec_xcmd_error (o := 0x1B2) rfl rfl h hc (if_pos h1)
  case collab => exact exec_xcmd_ok (o := 0x1B3) rfl rfl h hc rfl
  case bad =>
    simp only [List.mem_cons, List.not_mem_nil, or_false] at hi
    rcases hi with rfl | rfl | rfl | rfl | rfl | rfl
    · exact exec_xcmd_bad (o := 0x167) rfl rfl h Nat.one_pos hb
    · exact exec_xcmd_bad (o := 0x1A1) rfl rfl h Nat.one_pos hb
    · exact exec_xcmd_bad (o := 0x1A2) rfl rfl h Nat.one_pos hb
    · exact exec_xcmd_bad (o := 0x1B1) rfl rfl h Nat.one_pos hb
    · exact exec_xcmd_bad (o := 0x1B2) rfl rfl h Nat.one_pos hb
    · exact exec_xcmd_bad (o := 0x1B3) rfl rfl h Nat.one_pos hb

end Sys2Proof.Machine
end

section
/-! PROOF of O46. The instructions of the die (17 R295 to R303). -/

namespace Sys2Proof.Machine

/-- The sequence of an instruction with an operand L is L's (01 R18). -/
theorem Ctx.seq_of_l {x : Ctx} {t : Token} (ht : x.fields.l = some t) : x.seq = t.seq := by
  rw [Ctx.seq, ht]

theorem Ctx.consume_free (x : Ctx) (s : State) : (x.consume.run s).m.free = s.m.free := rfl

/-! ## Instructions with the operand L -/

section
variable {f : FormA} {s : State} {x : Ctx} {t : Token} {a : List Lane}
variable (ht : x.fields.l = some t) (hd : x.dataTok t a)
include ht hd

/-- A record of a colour that the issuer may read is awaited from its home. -/
theorem exec_fltr (h : firing (.fltr f) s = some x) :
    let u := x.consume.run s
    let c : Colour := BitVec.ofNat 8 (a.getD 0 0).toNat
    let n := (a.getD 1 0).toNat
    (x.colour = 0 ∨ c = x.colour → n ≠ 0 → u.bound c = true → ∀ p, u.recordAddr c n = some p →
      exec (.fltr f) s = .next (x.after s ((x.await (.fltr (f.sub.getLsbD 0) p) { t with seq := x.seq }).andThen
        (sendReq x.core ⟨.task x.who, 0, 1, p, 32, .wo, .load, [], false, x.a.cfg, true, .g, p, false⟩)))) ∧
    (x.colour ≠ 0 → c ≠ x.colour → exec (.fltr f) s = .next (x.after s (x.fault Code.fltColour))) := by
  intro u c n
  rw [exec_firing (o := 0x189) rfl rfl h rfl, Ctx.withData_one ⟨t, ht, hd⟩, Ctx.after_look, Ctx.lanesL_data ⟨t, ht, hd⟩,
    Ctx.opTok_some ht]
  dsimp only
  refine ⟨fun hc hn hb p hp => ?_, fun h0 hc => ?_⟩
  · rw [if_neg, if_neg, hp]
    · rfl
    · rw [hb, decide_eq_false hn]
      exact Bool.false_ne_true
    · simp only [Bool.and_eq_true, decide_eq_true_eq]
      exact fun hx => hc.elim hx.1 hx.2
  · rw [if_pos]
    simp only [Bool.and_eq_true, decide_eq_true_eq]
    exact ⟨h0, hc⟩

/-- A restart is recorded for a record of a colour that the issuer may resume. -/
theorem exec_resume (h : firing (.resume f) s = some x) :
    let w0 := (a.getD 0 0).toNat
    let mine := x.colour = 0 ∨ bits w0 8 8 = x.colour.toNat
    (mine → (f.sub.getLsbD 0 = true → bits w0 16 16 = Code.trap) → exec (.resume f) s = .next (x.after s
      (x.record (.resume (f.sub.getLsbD 0) (a.take 8) { x.pass t with seq := x.seq } (x.replyTarget f.c))))) ∧
    (¬ mine → exec (.resume f) s = .next (x.after s (x.fault Code.resColour))) := by
  intro w0 mine
  rw [exec_firing (o := 0x18A) rfl rfl h rfl, Ctx.early_data1 ⟨t, ht, hd⟩, Ctx.lanesL_data ⟨t, ht, hd⟩, Ctx.opTok_some ht]
  dsimp only
  refine ⟨fun hm hs => ?_, fun hm => ?_⟩
  · rw [if_neg, if_neg]
    · simp only [Bool.and_eq_true, decide_eq_true_eq]
      exact fun hx => hx.2 (hs hx.1)
    · simp only [Bool.and_eq_true, decide_eq_true_eq]
      exact fun hx => hm.elim hx.1 hx.2
  · rw [if_pos]
    simp only [Bool.and_eq_true, decide_eq_true_eq]
    exact ⟨fun h0 => hm (.inl h0), fun hc => hm (.inr hc)⟩

theorem exec_plook (h : firing (.plook f) s = some x) :
    let u := x.consume.run s
    let p := (a.headD 0).toNat % 2 ^ 16
    let cl := clusterOf x.core
    (∀ site, u.place cl x.colour x.a.cfg p = .ok site → exec (.plook f) s = .next (x.after s
      ((usePlace cl x.colour p).andThen (x.emit f.c (x.data [siteWord site, 0]))))) ∧
    (∀ e, u.place cl x.colour x.a.cfg p = .error e → exec (.plook f) s = .next (x.after s
      ((usePlace cl x.colour p).andThen (x.emit f.c (x.data [0, BitVec.ofNat 32 e.code]))))) := by
  intro u p cl
  rw [exec_firing (o := 0x18B) rfl rfl h rfl, Ctx.withData_one ⟨t, ht, hd⟩, Ctx.after_look, Ctx.lanesL_data ⟨t, ht, hd⟩]
  dsimp only
  exact ⟨fun site hp => by rw [hp], fun e hp => by rw [hp]⟩

theorem exec_cntr (h : firing (.cntr f) s = some x) :
    let u := x.consume.run s
    (∀ i, u.cntrIdx x.colour (f.sub.getLsbD 0) (a.headD 0).toNat = some i →
      (f.sub.getLsbD 1 = true →
        exec (.cntr f) s = .next (x.after s (x.record (.cntrClear i { x.pass t with seq := x.seq } (x.replyTarget f.c))))) ∧
      (f.sub.getLsbD 1 = false → exec (.cntr f) s = .next (x.after s
        ((x.await .cntr { t with seq := x.seq }).andThen (send x.core 90000 .q0 (.cntrRead x.who i)))))) ∧
    (u.cntrIdx x.colour (f.sub.getLsbD 0) (a.headD 0).toNat = none → exec (.cntr f) s = .next (x.after s (x.fault Code.cntrRange))) := by
  intro u
  rw [exec_firing (o := 0x18C) rfl rfl h rfl, Ctx.early_data1 ⟨t, ht, hd⟩]
  dsimp only
  rw [Ctx.after_look, Ctx.lanesL_data ⟨t, ht, hd⟩, Ctx.opTok_some ht]
  refine ⟨fun i hi => ⟨fun h1 => ?_, fun h1 => ?_⟩, fun hi => by rw [hi]⟩
  · rw [hi]
    dsimp only
    rw [if_pos h1]
  · rw [hi]
    dsimp only
    rw [if_neg (Bool.eq_false_iff.mp h1)]
    rfl

end

/-- A request to a system register, checked as its register asks. -/
theorem exec_sysw {i : Instr} {f : FormS} {s : State} {x : Ctx} {r : Nat} {t : Token} (hi : i.opForm = some (0x188, .s f))
    (he : exec i s = .next ((syswAt f r).run s)) (h : firing i s = some x) (ht : x.fields.l = some t) (hk : t.kind = .data) :
    (syswOk r t.lanes = true → exec i s = .next (x.after s (x.record (.sysw r t.lanes
      { x.pass t with seq := x.seq } (x.replyTarget f.c))))) ∧
    (syswOk r t.lanes = false → exec i s = .next (x.after s (x.fault Code.sysValue))) := by
  rw [exec_firing hi rfl h he, Ctx.opTok_some ht]
  refine ⟨fun hok => ?_, fun hok => ?_⟩
  · simp [Token.isBad, hk, hok]
  · simp [Token.isBad, hk, hok]

/-- Settles O46, from what each instruction reads and checks. -/
theorem dieInstructionsComplete : Obligations.DieInstructionsComplete := by
  unfold Obligations.DieInstructionsComplete
  refine ⟨fun f s x => ⟨fun h => ?xfence, fun h => ?yield, fun t ht => ⟨fun h => ?trap, fun a hd => ⟨fun h => exec_fltr ht hd h,
    fun h => exec_resume (t := t) ht hd h, fun h => exec_plook ht hd h, fun h => exec_cntr (t := t) ht hd h⟩⟩⟩, fun f s x => ⟨fun h => ?sysr,
    fun p hp h t ht hk => ?sysw⟩⟩
  case xfence => exact exec_firing (o := 0x185) rfl rfl h rfl
  case yield => exact exec_firing (o := 0x18D) rfl rfl h rfl
  case trap => rw [exec_firing (o := 0x186) rfl rfl h rfl, Ctx.opTok_some ht, Ctx.seq_of_l ht]
  case sysr =>
    rw [exec_firing (o := 0x187) rfl rfl h rfl, Ctx.after_look, Ctx.consume_free]
  case sysw =>
    simp only [List.mem_cons, List.not_mem_nil, or_false] at hp
    rcases hp with rfl | rfl | rfl
    · exact exec_sysw rfl rfl h ht hk
    · exact exec_sysw rfl rfl h ht hk
    · exact exec_sysw rfl rfl h ht hk

end Sys2Proof.Machine
end

section
/-! PROOF of O48. What a hop makes of the tag that it receives (01 R15, R16). -/

namespace Sys2Proof.Machine

/-- What a hop does with the message that it names, for each outcome of the two checks. -/
def hopBody (k : Nat) (x : Msg) (t : Token) (b : Nat) (checks : Bool × Bool) : Act :=
  let die := (unitDie x.dst).getD 0
  let on (u : Token) : Act := .mod fun m => { m with net := setAt m.net k { x.hopped with body := x.body.setTok u } }
  if checks.1 then (if checks.2 then on (withTag t b) else on { withTag t b with kind := .poison })
  else Act.seq [takeMsg k, countErr die true, recordIn 0 { Record.blank with
    code := Code.tagCheck, col := BitVec.ofNat 8 (bits b 56 8), site := siteId die 0 0, seq := BitVec.ofNat 16 (bits b 7 16), addr := b }]

section
variable {flip : BitVec 64} {s : State} {x : Msg} {t : Token} (hx : s.m.net[s.m.at_.k]? = some x)
include hx

theorem exec_hop_held (hm : s.m.mayHop s.m.at_.k x = false) : exec (.tokenHop flip) s = .next s := by
  change execTokenHop flip s = _
  simp only [execTokenHop, Act.run_look, hx, hm, Bool.false_eq_true, if_false, Act.run_quiet]

theorem exec_hop (hm : s.m.mayHop s.m.at_.k x = true) (ht : x.body.token? = some t) : exec (.tokenHop flip) s =
    .next ((hopBody s.m.at_.k x t (t.tag ^^^ flip).toNat (tagChecks (t.tag ^^^ flip).toNat)).run s) := by
  change execTokenHop flip s = _
  simp only [execTokenHop, Act.run_look, hx, hm, if_true, ht]
  cases tagChecks (t.tag ^^^ flip).toNat with
  | mk hi lo => cases hi <;> cases lo <;> rfl

end

/-- Settles O48, by the two parities of the bits received. -/
theorem hopChecksTheTag : Obligations.HopChecksTheTag := by
  unfold Obligations.HopChecksTheTag
  intro flip s x t hx ht
  refine ⟨exec_hop_held hx, fun hm => ?_⟩
  intro b hi lo die on r
  have hchecks : tagChecks (t.tag ^^^ flip).toNat = (hi, lo) := by
    simp only [tagChecks, hi, lo, Bool.beq_eq_decide_eq, b]
  rw [exec_hop hx hm ht, hchecks]
  refine ⟨fun h1 h0 => ?_, fun h1 h0 => ?_, fun h1 => ⟨?_, rfl⟩⟩
  · rw [h1, h0]
    rfl
  · rw [h1, h0]
    rfl
  · rw [h1]
    rfl

end Sys2Proof.Machine
end

section
/-! PROOF of O50. The packets that move a queue on (21 R349, 19 R316). -/

namespace Sys2Proof.Machine

section
variable {p : Packet} {s : State} {x : QState} (hq : s.queue? s.m.cur.queue = some x) (hm : x.mapped = true)
include hq hm

/-- A well-formed packet of a mapped queue does what its meaning says. -/
theorem exec_packet {i : Instr} {pop : Nat} {ok : Bool} {act : Nat → QState → Act} (he : exec i s = .next ((packet pop ok p act).run s))
    (hok : ok = true) : exec i s = .next ((handOver x.desc.die 0 64).run ((act s.m.cur.queue x).run s)) := by
  rw [he, packet_run hq hm hok]

/-! ## pk.link (R316, R349) -/

theorem exec_pkLink_word {w : Lane} (hw : (Instr.pkLink p).wf = true) (hi : x.desc.ibd = 0) (hl : x.desc.lpcnt = 0)
    (hr : hoistRead s s.m.cur.queue x (p.pair 0) true = .word w) :
    exec (.pkLink p) s = .next ((handOver x.desc.die 0 64).run ((if segmentOk w.toNat then
      (goTo s.m.cur.queue (p.pair 0 + 4)).andThen (modQueue s.m.cur.queue fun y => { y with
        segEnd := p.pair 0 + 4 + 4 * bits w.toNat 0 18
        fetched := y.fetched.filter fun v => v.1 < p.pair 0 || p.pair 0 + 4 + 4 * bits w.toNat 0 18 ≤ v.1 })
      else queueFault s.m.cur.queue Code.pktBadop (packetHeader p 0x01)).run s)) := by
  rw [exec_packet hq hm rfl hw, Act.run_look]
  simp only [hi, hl, ne_eq, not_true_eq_false, decide_false, Bool.or_self, Bool.false_eq_true, if_false, hr]

/-! ## pk.pred and pk.wait -/

theorem exec_pkPred_word {w : Lane} (hw : (Instr.pkPred p).wf = true)
    (hr : hoistRead s s.m.cur.queue x (p.pair 0) (packetDef p) = .word w) :
    exec (.pkPred p) s = .next ((handOver x.desc.die 0 64).run
      ((if packetHolds p w || decide (p.pflg.toNat / 256 = 0) then goTo s.m.cur.queue (x.after p)
        else modQueue s.m.cur.queue fun y => { y with passOver := some (p.pflg.toNat / 256, x.after p) }).run s)) := by
  rw [exec_packet hq hm rfl hw, Act.run_look]
  simp only [hr]

theorem exec_pkPred_bad (hw : (Instr.pkPred p).wf = true)
    (hr : hoistRead s s.m.cur.queue x (p.pair 0) (packetDef p) = .bad) :
    exec (.pkPred p) s = .next ((handOver x.desc.die 0 64).run
      ((queueFault s.m.cur.queue Code.waitErr (packetHeader p 0x07)).run s)) := by
  rw [exec_packet hq hm rfl hw, Act.run_look]
  simp only [hr]

variable (hfirst : packetDef p = true ∨ x.polled ≠ some (tgetD 0 s.m.pkg.hoistRound x.desc.die))
include hfirst

omit hq hm in
/-- A word is read once in each round. -/
theorem not_polled : (!packetDef p && decide (x.polled = some (tgetD 0 s.m.pkg.hoistRound x.desc.die))) = false := by
  obtain hd | hp := hfirst
  · rw [hd]; rfl
  · rw [decide_eq_false hp, Bool.and_false]

theorem exec_pkWait_word {w : Lane} (hw : (Instr.pkWait p).wf = true)
    (hr : hoistRead s s.m.cur.queue x (p.pair 0) (packetDef p) = .word w) :
    exec (.pkWait p) s = .next ((handOver x.desc.die 0 64).run
      ((if packetHolds p w then goTo s.m.cur.queue (x.after p)
        else if packetDef p then queueFault s.m.cur.queue Code.waitCond (packetHeader p 0x0A)
        else modQueue s.m.cur.queue fun y => { y with polled := some (tgetD 0 s.m.pkg.hoistRound x.desc.die) }).run s)) := by
  rw [exec_packet hq hm rfl hw, Act.run_look]
  simp only [not_polled hfirst, Bool.false_eq_true, if_false, hr]

theorem exec_pkWait_bad (hw : (Instr.pkWait p).wf = true)
    (hr : hoistRead s s.m.cur.queue x (p.pair 0) (packetDef p) = .bad) :
    exec (.pkWait p) s = .next ((handOver x.desc.die 0 64).run
      ((queueFault s.m.cur.queue Code.waitErr (packetHeader p 0x0A)).run s)) := by
  rw [exec_packet hq hm rfl hw, Act.run_look]
  simp only [not_polled hfirst, Bool.false_eq_true, if_false, hr]

end

/-- Settles O50, packet by packet. -/
theorem packetsOfFlowComplete : Obligations.PacketsOfFlowComplete := by
  unfold Obligations.PacketsOfFlowComplete
  intro p s x hq hm q does bad
  refine ⟨fun hw => ?nop, fun w hi hl hr => ⟨fun ho hw => ?link, fun ho hw => ?linkBad⟩, fun hi hw => ?ib, fun hi hw => ?ibBad,
    fun hi hw => ?ibend, fun hi hw => ?ibendBad, fun hl hw => ?open_, fun hl hw => ?openBad, fun hl hw => ?again, fun hl hw => ?close,
    fun hl hw => ?closeBad, fun hw => ?ffence, fun w hr => ⟨fun hc hw => ?pred, fun hc hk hw => ?pass⟩, fun hfirst =>
    ⟨fun w hr => ⟨fun hc hw => ?wait, fun hc hd hw => ?cond, fun hc hd hw => ?poll⟩, fun hr hw => ?waitErr⟩, fun hr hw => ?predErr⟩
  case nop => rw [exec_packet hq hm rfl hw]
  case link => rw [exec_pkLink_word hq hm hw hi hl hr, if_pos ho]
  case linkBad => rw [exec_pkLink_word hq hm hw hi hl hr, if_neg (Bool.eq_false_iff.mp ho)]
  case ib => rw [exec_packet hq hm rfl hw, if_neg hi]
  case ibBad => rw [exec_packet hq hm rfl hw, if_pos hi]
  case ibend => rw [exec_packet hq hm rfl hw, if_neg hi]
  case ibendBad => rw [exec_packet hq hm rfl hw, if_pos hi]
  case open_ => rw [exec_packet hq hm rfl hw, if_neg (not_not_intro hl)]
  case openBad => rw [exec_packet hq hm rfl hw, if_pos hl]
  case again => rw [exec_packet hq hm rfl hw, if_neg (by omega), if_pos hl]
  case close =>
    rw [exec_packet hq hm rfl hw, if_neg (by omega), if_neg (by omega)]
    simp only [hl, Nat.sub_self]
    rfl
  case closeBad => rw [exec_packet hq hm rfl hw, if_pos hl]
  case ffence => rw [exec_packet hq hm rfl hw]
  case pred => rw [exec_pkPred_word hq hm hw hr, if_pos (by simpa using hc)]
  case pass => rw [exec_pkPred_word hq hm hw hr, if_neg (by simpa [hc] using hk)]
  case wait => rw [exec_pkWait_word hq hm hfirst hw hr, if_pos hc]
  case cond => rw [exec_pkWait_word hq hm hfirst hw hr, if_neg (Bool.eq_false_iff.mp hc), if_pos hd]
  case poll => rw [exec_pkWait_word hq hm hfirst hw hr, if_neg (Bool.eq_false_iff.mp hc), if_neg (Bool.eq_false_iff.mp hd)]
  case waitErr => exact exec_pkWait_bad hq hm hfirst hw hr
  case predErr => exact exec_pkPred_bad hq hm hw hr

end Sys2Proof.Machine
end

section
/-! PROOF of O51. The packets of configurations, seeds, writes, colours and pins (21 R346, R350 to R353). -/

namespace Sys2Proof.Machine

theorem withHandle_run_none {s : State} {x : QState} {p : Packet} (hc : s.conf? (x.cfgNo p) = none) (q header : Nat)
    (act : Nat → ConfState → Act) : (withHandle q x p header act).run s = (queueFault q Code.cfgHandle header).run s := by
  simp [withHandle, hc]

section
variable {p : Packet} {s : State} {x : QState} (q : Nat)

/-! ## Seeds (R351) -/

section
variable {f : ConfState} {e : EntryState} (hc : s.conf? (x.cfgNo p) = some f) (ht : f.tearer = none) (hl : f.launched = true)
  (hk : seedKindOk (seedKind p) = true) (hn : seedPort p < f.nent) (he : f.entry? (seedPort p) = some e)
include hc ht hl hk hn he

theorem seedStep_run_enters (hs : s.seedFate e (seedTok p x.progress) = .enters) : (seedStep q x p).run s =
    ((seedIn (x.cfgNo p) (seedPort p) (seedTok p x.progress)).andThen (if x.progress + 1 < seedCount p then
        modQueue q fun y => { y with progress := x.progress + 1 } else goTo q (x.after p))).run s := by
  rw [seedStep, withHandle_run_live hc ht, Act.run_look]
  simp only [hl, hk, hn, he, hs, if_true, Bool.not_true, Bool.false_eq_true, if_false]

theorem seedStep_run_waits (hs : s.seedFate e (seedTok p x.progress) = .waits) : (seedStep q x p).run s = Act.quiet.run s := by
  rw [seedStep, withHandle_run_live hc ht, Act.run_look]
  simp only [hl, hk, hn, he, hs, if_true, Bool.not_true, Bool.false_eq_true, if_false]

theorem seedStep_run_fault {c : Nat} (hs : s.seedFate e (seedTok p x.progress) = .fault c) :
    (seedStep q x p).run s = (queueFault q c (packetHeader p 0x04)).run s := by
  rw [seedStep, withHandle_run_live hc ht, Act.run_look]
  simp only [hl, hk, hn, he, hs, if_true, Bool.not_true, Bool.false_eq_true, if_false]

end

/-! ## Writes at their home (R352, R325) -/

section
variable {h : Nat} {m : PageMode} (hx : s.xlate x.desc.col classH true (p.pair 0) = .ok (h, m))
include hx

theorem hoistWrite_run_away (ha : s.away x.desc.die h = true) : (hoistWrite q x p).run s = Act.quiet.run s := by
  rw [hoistWrite, Act.run_look]
  simp only [hx, ha, if_true]

theorem hoistWrite_run_written (ha : s.away x.desc.die h = false) (hr : s.engineRefusal h (writeVal p).length m = none) :
    (hoistWrite q x p).run s =
      (Act.seq [engineWrite x.desc.col h m (plainBytes (writeVal p)), dropIdle, goTo q (x.after p)]).run s := by
  rw [hoistWrite, Act.run_look]
  simp only [hx, ha, hr, Bool.false_eq_true, if_false]

theorem hoistWrite_run_refused (ha : s.away x.desc.die h = false) (hr : s.engineRefusal h (writeVal p).length m ≠ none) :
    (hoistWrite q x p).run s = (queueFault q Code.woRewrite (packetHeader p 0x0B)).run s := by
  obtain ⟨c, hc⟩ := Option.ne_none_iff_exists'.mp hr
  rw [hoistWrite, Act.run_look]
  simp only [hx, ha, hc, Bool.false_eq_true, if_false]

end

/-! ## Pins (R353) -/

/-- By a queue that may, each leaf of a range within reach takes its new PIN. -/
theorem pinAt_run_leaves {pop : Nat} {pin : Bool} {ls : List (Nat × Nat)} (hcol : x.desc.col = 0 ∨ x.desc.col = BitVec.ofNat 8 p.pflg.toNat)
    (hl : leaves_ s (BitVec.ofNat 8 p.pflg.toNat) pin
      ((upFrom (p.payload.getD 2 0).toNat 0).map fun i => p.pair 0 + 2 ^ 16 * i) = .ok ls)
    (ha : (ls.any fun l => s.away x.desc.die l.1) = false) :
    (pinAt pop pin p q x).run s = ((Act.each ls.eraseDups fun (a, d) =>
      putBytes a (leBytes 8 (if pin then d + 2 ^ 55 else d - 2 ^ 55))).andThen (goTo q (x.after p))).run s := by
  have hmay : (decide (x.desc.col ≠ 0) && decide (x.desc.col ≠ BitVec.ofNat 8 p.pflg.toNat)) = false := by
    obtain h | h := hcol <;> simp [← h]
  rw [pinAt, Act.run_look]
  simp only [hmay, hl, ha, Bool.false_eq_true, if_false]

end

section
variable {p : Packet} {s : State} {x : QState} (hq : s.queue? s.m.cur.queue = some x) (hm : x.mapped = true)
include hq hm

/-! ## pk.cfg (R350) -/

section
variable (hw : (Instr.pkCfg p).wf = true) (hc : s.conf? (x.cfgNo p) = none)
include hw hc

theorem exec_pkCfg_away (ha : s.vaAway x (p.pair 0) (s.imageSpan x.desc.col (p.pair 0)) = true) :
    exec (.pkCfg p) s = .next ((handOver x.desc.die 0 64).run (Act.quiet.run s)) := by
  rw [exec_packet hq hm rfl hw, Act.run_look]
  simp only [hc, ha, if_true]

variable (ha : s.vaAway x (p.pair 0) (s.imageSpan x.desc.col (p.pair 0)) = false)
include ha

theorem exec_pkCfg_bids {f : ConfState} (ho : s.cfgCheck s.m.cur.queue x (p.pair 0) = .ok f) :
    exec (.pkCfg p) s = .next ((handOver x.desc.die 0 64).run ((Act.pkg fun t =>
      { t with confs := tput t.confs (x.cfgNo p) f, bids := t.bids ++ [x.cfgNo p], nextAge := t.nextAge + 1 }).run s)) := by
  rw [exec_packet hq hm rfl hw, Act.run_look]
  simp only [hc, ha, ho, Bool.false_eq_true, if_false]

theorem exec_pkCfg_breaks {c : Nat} (ho : s.cfgCheck s.m.cur.queue x (p.pair 0) = .error c) :
    exec (.pkCfg p) s = .next ((handOver x.desc.die 0 64).run
      ((queueFault s.m.cur.queue c (packetHeader p 0x02)).run s)) := by
  rw [exec_packet hq hm rfl hw, Act.run_look]
  simp only [hc, ha, ho, Bool.false_eq_true, if_false]

end

/-- The queue that waits for its configuration. -/
theorem exec_pkCfg_waiting {f : ConfState} (hw : (Instr.pkCfg p).wf = true) (hc : s.conf? (x.cfgNo p) = some f)
    (hwait : f.waitsCfg = true) (hf : f.queue = s.m.cur.queue) :
    exec (.pkCfg p) s = .next ((handOver x.desc.die 0 64).run
      ((if f.phase = .bidding ∨ f.phase = .loading then .quiet
        else (modConf (x.cfgNo p) fun f => { f with waitsCfg := false }).andThen (goTo s.m.cur.queue (x.after p))).run s)) := by
  rw [exec_packet hq hm rfl hw, Act.run_look]
  simp only [hc, hwait, hf, decide_true, Bool.and_self, Bool.not_true, Bool.false_eq_true, if_false, Bool.or_eq_true,
    decide_eq_true_eq]

/-! ## pk.launch and pk.teardown (R350) -/

theorem exec_pkLaunch_live {f : ConfState} (hw : (Instr.pkLaunch p).wf = true) (hc : s.conf? (x.cfgNo p) = some f)
    (ht : f.tearer = none) (hwait : f.waitsCfg = false) :
    exec (.pkLaunch p) s = .next ((handOver x.desc.die 0 64).run
      ((if f.launched then queueFault s.m.cur.queue Code.cfgState (packetHeader p 0x03)
        else (modConf (x.cfgNo p) fun f => { f with
            launched := true, entries := f.entries.map fun e => { e with gated := f.phase != .resident } }).andThen
          (goTo s.m.cur.queue (x.after p))).run s)) := by
  rw [exec_packet hq hm rfl hw, withHandle_run_live hc ht]
  simp only [ConfState.loading, hwait, Bool.false_eq_true, if_false]

theorem exec_pkTeardown_first {f : ConfState} (hw : (Instr.pkTeardown p).wf = true) (hc : s.conf? (x.cfgNo p) = some f)
    (ht : f.tearer = none) (hwait : f.waitsCfg = false) :
    exec (.pkTeardown p) s = .next ((handOver x.desc.die 0 64).run
      (((modConf (x.cfgNo p) fun f => { f with
          tearer := some (s.m.cur.queue, p.pflg.getLsbD 12), entries := f.entries.map fun e => { e with gated := true } }).andThen
        (tearStep s.m.cur.queue (x.cfgNo p) x p (p.pflg.getLsbD 12))).run s)) := by
  rw [exec_packet hq hm rfl hw, Act.run_look]
  simp only [hc, ht, ConfState.loading, hwait, Bool.false_eq_true, if_false]

theorem exec_pkTeardown_none (hw : (Instr.pkTeardown p).wf = true) (hc : s.conf? (x.cfgNo p) = none) :
    exec (.pkTeardown p) s = .next ((handOver x.desc.die 0 64).run
      ((queueFault s.m.cur.queue Code.cfgHandle (packetHeader p 0x11)).run s)) := by
  rw [exec_packet hq hm rfl hw, Act.run_look]
  simp only [hc]

/-! ## pk.write, pk.signal and pk.colour (R352, R353) -/

theorem exec_pkWrite_home (hw : (Instr.pkWrite p).wf = true) (hd : p.pflg.getLsbD 13 = false) :
    exec (.pkWrite p) s = .next ((handOver x.desc.die 0 64).run ((hoistWrite s.m.cur.queue x p).run s)) := by
  rw [exec_packet hq hm rfl hw, if_neg (Bool.eq_false_iff.mp hd)]

theorem exec_pkColour_entry (hw : (Instr.pkColour p).wf = true) (ho : colourEntryOk (entryWords p) = true) :
    exec (.pkColour p) s = .next ((handOver x.desc.die 0 64).run
      ((if x.desc.col ≠ 0 then queueFault s.m.cur.queue Code.pktColour (packetHeader p 0x0E)
        else if (decide (BitVec.ofNat 8 p.pflg.toNat = (0 : Colour)) ||
          (decide (bits ((entryWords p).getD 0 0) 63 1 = 1) && decide (bits (s.vdevWord (bits ((entryWords p).getD 0 0) 58 5) 0) 63 1 = 0)) ||
          s.colourUsed (BitVec.ofNat 8 p.pflg.toNat)) = true then queueFault s.m.cur.queue Code.colourBind (packetHeader p 0x0E)
        else (Act.pkg fun t => { t with
            colours := tset 0 t.colours (BitVec.ofNat 8 p.pflg.toNat : Colour).toNat (entryBits (entryWords p)) }).andThen
          (goTo s.m.cur.queue (x.after p))).run s)) := by
  rw [exec_packet hq hm rfl hw, Act.run_look]
  simp only [ho, Bool.not_true, Bool.false_eq_true, if_false]

end

/-- Settles O51, packet by packet. -/
theorem packetsOfConfigurationsComplete : Obligations.PacketsOfConfigurationsComplete := by
  unfold Obligations.PacketsOfConfigurationsComplete
  intro p s x hq hm q does cfg handle
  refine ⟨fun hc => ⟨fun ha hw => ?cfgAway, fun f ha ho hw => ?cfgBids, fun c ha ho hw => ?cfgBad, fun hw => ?launchNone,
    fun hw => ?seedNone, fun hw => ?tearNone⟩, fun f hc hwait hf => ⟨fun hp hw => ?loads, fun hb hl hw => ?loaded⟩,
    fun f hc ht hwait => ⟨fun hl hw => ?launch, fun hl hw => ?launched, fun hw => ?tear⟩,
    fun f e hc ht hl hk hn he => ⟨fun hs hw => ?enters, fun hs hw => ?waits, fun c hs hw => ?seedFault⟩,
    fun h m hd hx => ⟨fun ha hw => ?writeAway, fun ha hr hw => ?write, fun ha hr hw => ?writeRefused⟩,
    fun hh hw => ?signal, fun hh hw => ?signalWaits, fun hw => ?pri, fun ho =>
    ⟨fun hcol hc hb hu hw => ?colour, fun hcol hw => ?colourOther, fun hcol hu hw => ?colourUsed⟩,
    fun hcol => ⟨fun ls hl ha hw => ?pin, fun ls hl ha hw => ?unpin⟩⟩
  case cfgAway => exact exec_pkCfg_away hq hm hw hc ha
  case cfgBids => exact exec_pkCfg_bids hq hm hw hc ha ho
  case cfgBad => exact exec_pkCfg_breaks hq hm hw hc ha ho
  case launchNone => rw [exec_packet hq hm rfl hw, withHandle_run_none hc]
  case seedNone => rw [exec_packet hq hm rfl hw, seedStep, withHandle_run_none hc]
  case tearNone => rw [exec_pkTeardown_none hq hm hw hc]
  case loads => rw [exec_pkCfg_waiting hq hm hw hc hwait hf, if_pos hp]
  case loaded => rw [exec_pkCfg_waiting hq hm hw hc hwait hf, if_neg (not_or.mpr ⟨hb, hl⟩)]
  case launch => rw [exec_pkLaunch_live hq hm hw hc ht hwait, if_neg (Bool.eq_false_iff.mp hl)]
  case launched => rw [exec_pkLaunch_live hq hm hw hc ht hwait, if_pos hl]
  case tear => rw [exec_pkTeardown_first hq hm hw hc ht hwait]
  case enters => rw [exec_packet hq hm rfl hw, seedStep_run_enters _ hc ht hl hk hn he hs]
  case waits => rw [exec_packet hq hm rfl hw, seedStep_run_waits _ hc ht hl hk hn he hs]
  case seedFault => rw [exec_packet hq hm rfl hw, seedStep_run_fault _ hc ht hl hk hn he hs]
  case writeAway => rw [exec_pkWrite_home hq hm hw hd, hoistWrite_run_away _ hx ha]
  case write => rw [exec_pkWrite_home hq hm hw hd, hoistWrite_run_written _ hx ha hr]
  case writeRefused => rw [exec_pkWrite_home hq hm hw hd, hoistWrite_run_refused _ hx ha hr]
  case signal => rw [exec_packet hq hm rfl hw, Act.run_look, if_neg (by simp [hh])]
  case signalWaits => rw [exec_packet hq hm rfl hw, Act.run_look, if_pos (by simp [hh])]
  case pri => rw [exec_packet hq hm rfl hw]
  case colour =>
    have hfree : ¬ (bits ((entryWords p).getD 0 0) 63 1 = 1 ∧ bits (s.vdevWord (bits ((entryWords p).getD 0 0) 58 5) 0) 63 1 = 0) :=
      fun ⟨h1, h0⟩ => by have := hb h1; omega
    rw [exec_pkColour_entry hq hm hw ho, if_neg (not_not_intro hcol), if_neg]
    simpa only [Bool.or_eq_true, decide_eq_true_eq, Bool.and_eq_true, not_or] using ⟨⟨hc, hfree⟩, Bool.eq_false_iff.mp hu⟩
  case colourOther => rw [exec_pkColour_entry hq hm hw ho, if_pos hcol]
  case colourUsed =>
    rw [exec_pkColour_entry hq hm hw ho, if_neg (not_not_intro hcol), if_pos]
    rw [hu, Bool.or_true]
  case pin => rw [exec_packet hq hm rfl hw, pinAt_run_leaves _ hcol hl ha]; simp only [if_true, q]
  case unpin => rw [exec_packet hq hm rfl hw, pinAt_run_leaves _ hcol hl ha]; simp only [Bool.false_eq_true, if_false, q]

end Sys2Proof.Machine
end

section
/-! PROOF of O52. Requests at their homes, their replay, and the merging of reduction packets (09 R154 to R158, 10 R177, R186,
15 R247). -/

namespace Sys2Proof.Machine

/-! ## What leaves memory as it was -/

/-- A state reads, byte by byte and word by word, as another does. -/
def State.SameMemory (s n : State) : Prop := (∀ a, n.byteAt a = s.byteAt a) ∧ ∀ a, n.presAt a = s.presAt a

theorem State.SameMemory.refl (s : State) : s.SameMemory s := ⟨fun _ => rfl, fun _ => rfl⟩

theorem State.SameMemory.trans {s t n : State} (h : s.SameMemory t) (h' : t.SameMemory n) : s.SameMemory n :=
  ⟨fun a => (h'.1 a).trans (h.1 a), fun a => (h'.2 a).trans (h.2 a)⟩

theorem Act.sameMemory_each {α : Type} (xs : List α) {f : α → Act} (h : ∀ x (s : State), s.SameMemory ((f x).run s)) (s : State) :
    s.SameMemory ((Act.each xs f).run s) := by
  induction xs generalizing s with
  | nil => exact .refl s
  | cons x xs ih =>
    rw [Act.run_each_cons]
    exact (h x s).trans (ih _)

theorem Act.sameMemory_when {a : Act} (h : ∀ s : State, s.SameMemory (a.run s)) (c : Bool) (s : State) :
    s.SameMemory ((Act.when c a).run s) := by
  cases c
  · exact .refl s
  · exact h s

theorem answer_sameMemory (u : Nat) (who : Party) (piece : Nat) (v : AnsVal) (s : State) :
    s.SameMemory ((answer u who piece v).run s) := ⟨fun _ => rfl, fun _ => rfl⟩

theorem setPool_sameMemory (u : Nat) (es : List PoolEntry) (s : State) : s.SameMemory ((setPool u es).run s) :=
  ⟨fun _ => rfl, fun _ => rfl⟩

theorem ackAll_sameMemory (u : Nat) (r : Req) (s : State) : s.SameMemory ((ackAll u r).run s) :=
  Act.sameMemory_each r.parties (fun _ _ => answer_sameMemory _ _ _ _ _) s

theorem spendResv_sameMemory (r : Req) (s : State) : s.SameMemory ((spendResv r).run s) := ⟨fun _ => rfl, fun _ => rfl⟩

theorem mend_sameMemory (w n : Nat) (s : State) : s.SameMemory ((mend w n).run s) := ⟨fun _ => rfl, fun _ => rfl⟩

theorem countErr_sameMemory (die : Nat) (unc : Bool) (s : State) : s.SameMemory ((countErr die unc).run s) :=
  ⟨fun _ => rfl, fun _ => rfl⟩

theorem checked_sameMemory (a n : Nat) (s : State) : s.SameMemory ((checked a n).run s) := by
  have hcounts (unc : Bool) (t : State) : t.SameMemory ((match unitDie (unitOf a) with
      | some die => countErr die unc
      | none => Act.quiet).run t) := by
    split
    · exact countErr_sameMemory _ _ t
    · exact .refl t
  rw [checked, Act.run_look]
  dsimp only
  split
  · exact .refl s
  · simp only [Act.run_seq_cons, Act.run_seq_nil]
    have hmet := Act.sameMemory_each ((s.m.pkg.damage.filter fun v => underCheck a n v.1).filter fun v => !s.lostWord v.1)
      (fun _ t => hcounts false t) s
    have hlost (c : Bool) (t : State) := Act.sameMemory_when (hcounts true) c t
    exact (hmet.trans (hlost _ _)).trans ⟨fun _ => rfl, fun _ => rfl⟩

/-! ## What leaves words with a value as they were (R154) -/

/-- The words of a state that hold a value or an error stand in another as they were. -/
def State.KeepsValues (s n : State) : Prop :=
  ∀ a, s.presAt a = .full ∨ s.presAt a = .err → n.byteAt a = s.byteAt a ∧ n.presAt a = s.presAt a

theorem State.KeepsValues.refl (s : State) : s.KeepsValues s := fun _ _ => ⟨rfl, rfl⟩

theorem State.KeepsValues.trans {s t n : State} (h : s.KeepsValues t) (h' : t.KeepsValues n) : s.KeepsValues n := fun a ha => by
  obtain ⟨hb, hp⟩ := h a ha
  obtain ⟨hb', hp'⟩ := h' a (by rwa [hp])
  exact ⟨hb'.trans hb, hp'.trans hp⟩

theorem State.SameMemory.keepsValues {s n : State} (h : s.SameMemory n) : s.KeepsValues n := fun a _ => ⟨h.1 a, h.2 a⟩

/-- The bits of a word that holds no value name a pool entry: no other word changes. -/
theorem headWord_keepsValues {s : State} (hs : s.wf) (u : Nat) {w : Nat} (hw : s.presAt (4 * w) ≠ .full ∧ s.presAt (4 * w) ≠ .err) :
    s.KeepsValues ((headWord u w).run s) := by
  rw [headWord, Act.run_look]
  split
  case h_2 => exact .refl s
  case h_1 e _ =>
    intro a ha
    have hne : a / 4 ≠ w := by
      rintro rfl
      have hsame : s.presAt (4 * (a / 4)) = s.presAt a := by rw [State.presAt, State.presAt, Nat.mul_div_cancel_left _ (by decide)]
      rw [hsame] at hw
      exact ha.elim hw.1 hw.2
    have hlen : (leBytes 4 e.idx).length = 4 := leBytes_length 4 _
    rw [Act.run_andThen, byteAt_setPres, presAt_setPres (Act.run_wf hs _), presAt_writeBytes, byteAt_writeBytes hs, hlen,
      if_neg (by omega), if_neg (by simpa using hne)]
    exact ⟨rfl, rfl⟩

theorem missing_no_value {s : State} {a n w : Nat} (h : s.missing a n = some w) : s.presAt (4 * w) ≠ .full ∧ s.presAt (4 * w) ≠ .err := by
  have hp := List.find?_some h
  constructor <;> (intro he; simp [he] at hp)

theorem park_keepsValues {s : State} (hs : s.wf) (u idx : Nat) (r : Req) {w : Nat}
    (hw : s.presAt (4 * w) ≠ .full ∧ s.presAt (4 * w) ≠ .err) : s.KeepsValues ((park u w idx r).run s) := by
  rw [park, Act.run_look, Act.run_andThen]
  exact .trans (setPool_sameMemory _ _ s).keepsValues (headWord_keepsValues (Act.run_wf hs (setPool _ _)) u hw)

theorem reexamine_keepsValues {s : State} (hs : s.wf) (u : Nat) (e : PoolEntry) : s.KeepsValues ((reexamine u e).run s) := by
  rw [reexamine, Act.run_look]
  dsimp only
  split
  next w hw =>
    rw [Act.run_andThen]
    exact .trans (setPool_sameMemory _ _ s).keepsValues
      (park_keepsValues (Act.run_wf hs (setPool _ _)) u e.idx e.req (missing_no_value (s := s) hw))
  next =>
    simp only [Act.run_seq_cons, Act.run_seq_nil]
    exact ((setPool_sameMemory _ _ s).trans ((checked_sameMemory _ _ _).trans (answer_sameMemory _ _ _ _ _))).keepsValues

theorem Act.keepsValues_each {α : Type} (xs : List α) {f : α → Act} (h : ∀ x (s : State), s.wf → s.KeepsValues ((f x).run s)) {s : State}
    (hs : s.wf) : s.KeepsValues ((Act.each xs f).run s) := by
  induction xs generalizing s with
  | nil => exact .refl s
  | cons x xs ih =>
    rw [Act.run_each_cons]
    exact (h x s hs).trans (ih (Act.run_wf hs _))

theorem answerReaders_keepsValues {s : State} (hs : s.wf) (ws : List Nat) : s.KeepsValues ((answerReaders ws).run s) :=
  Act.keepsValues_each ws (fun w s hs => by
    rw [Act.run_look]
    exact Act.keepsValues_each _ (fun e s hs => reexamine_keepsValues hs _ e) hs) hs

/-! ## A store at its home -/

theorem byteAt_putBytes {s : State} (hs : s.wf) (a : Nat) (bs : List Byte) (c : Nat) :
    ((putBytes a bs).run s).byteAt c = if a ≤ c ∧ c < a + bs.length then bs.getD (c - a) 0 else s.byteAt c := by
  rw [putBytes, Act.run_andThen, byteAt_writeBytes (Act.run_wf hs _), (mend_sameMemory _ _ s).1]

theorem presAt_putBytes (s : State) (a : Nat) (bs : List Byte) (c : Nat) : ((putBytes a bs).run s).presAt c = s.presAt c := by
  rw [putBytes, Act.run_andThen, presAt_writeBytes, (mend_sameMemory _ _ s).2]

/-- A byte of a range lies in a word that the range covers. -/
theorem div_mem_wordsOf {a n i : Nat} (hi : i < n) : (a + i) / 4 ∈ wordsOf a n := by
  rw [wordsOf, if_neg (by omega), upFrom_eq_range', List.mem_range'_1]
  omega

/-- What a store of bytes leaves: its bytes, its words FULL where the home keeps presence, and all else that held a value. -/
structure State.Stored (s n : State) (a : Nat) (bs : List Byte) (keeps : Prop) : Prop where
  written : ∀ i < bs.length, n.byteAt (a + i) = bs.getD i 0
  full : keeps → ∀ w ∈ wordsOf a bs.length, n.presAt (4 * w) = .full
  outside : ∀ c, (c < a ∨ a + bs.length ≤ c) → s.presAt c = .full ∨ s.presAt c = .err → n.byteAt c = s.byteAt c
  others : ∀ c, c / 4 ∉ wordsOf a bs.length → s.presAt c = .full ∨ s.presAt c = .err →
    n.byteAt c = s.byteAt c ∧ n.presAt c = s.presAt c

theorem State.Stored.sameMemory {s n m : State} {a : Nat} {bs : List Byte} {keeps : Prop} (h : s.Stored n a bs keeps) (hm : n.SameMemory m) :
    s.Stored m a bs keeps where
  written i hi := (hm.1 _).trans (h.written i hi)
  full hk w hw := (hm.2 _).trans (h.full hk w hw)
  outside c hc hp := (hm.1 c).trans (h.outside c hc hp)
  others c hc hp := ⟨(hm.1 c).trans (h.others c hc hp).1, (hm.2 c).trans (h.others c hc hp).2⟩

theorem State.SameMemory.stored {s t n : State} {a : Nat} {bs : List Byte} {keeps : Prop} (hm : s.SameMemory t) (h : t.Stored n a bs keeps) :
    s.Stored n a bs keeps where
  written := h.written
  full := h.full
  outside c hc hp := (h.outside c hc (by rwa [hm.2])).trans (hm.1 c)
  others c hc hp := by
    obtain ⟨hb, hp'⟩ := h.others c hc (by rwa [hm.2])
    exact ⟨hb.trans (hm.1 c), hp'.trans (hm.2 c)⟩

theorem putBytes_stored {s : State} (hs : s.wf) (a : Nat) (bs : List Byte) {keeps : Prop} (hk : ¬ keeps) :
    s.Stored ((putBytes a bs).run s) a bs keeps where
  written i hi := by rw [byteAt_putBytes hs, if_pos (by omega), Nat.add_sub_cancel_left]
  full h := absurd h hk
  outside c hc _ := by rw [byteAt_putBytes hs, if_neg (by omega)]
  others c hc _ := by
    refine ⟨?_, presAt_putBytes s a bs c⟩
    rw [byteAt_putBytes hs, if_neg]
    rintro ⟨hlo, hhi⟩
    exact hc (by simpa [Nat.add_sub_cancel' hlo] using div_mem_wordsOf (a := a) (i := c - a) (n := bs.length) (by omega))

/-- The words written are FULL, so that no reader of them, looked at anew, is parked on one. -/
theorem fill_stored {s : State} (hs : s.wf) (a : Nat) (bs : List Byte) (keeps : Prop) : s.Stored ((fill a bs).run s) a bs keeps := by
  have hput := putBytes_stored hs a bs (keeps := False) id
  have hwf : ((setPres (wordsOf a bs.length) .full).run ((putBytes a bs).run s)).wf := Act.run_wf (Act.run_wf hs _) _
  have hb (c) : ((setPres (wordsOf a bs.length) .full).run ((putBytes a bs).run s)).byteAt c = ((putBytes a bs).run s).byteAt c :=
    byteAt_setPres _ _ _ c
  have hp (c) : ((setPres (wordsOf a bs.length) .full).run ((putBytes a bs).run s)).presAt c =
      if c / 4 ∈ wordsOf a bs.length then .full else s.presAt c := by
    rw [presAt_setPres (Act.run_wf hs _), presAt_putBytes]
  have hkeep := answerReaders_keepsValues hwf ((wordsOf a bs.length).filter fun w => s.presAt (4 * w) = .defer)
  rw [fill, Act.run_look]
  simp only [Act.run_seq_cons, Act.run_seq_nil]
  constructor
  case written =>
    intro i hi
    rw [(hkeep _ (.inl (by rw [hp, if_pos (div_mem_wordsOf hi)]))).1, hb, hput.written i hi]
  case full =>
    intro _ w hw
    have h : ((setPres (wordsOf a bs.length) .full).run ((putBytes a bs).run s)).presAt (4 * w) = .full := by
      rw [hp, Nat.mul_div_cancel_left _ (by decide), if_pos hw]
    rw [(hkeep _ (.inl h)).2, h]
  case outside =>
    intro c hc hv
    have h : ((setPres (wordsOf a bs.length) .full).run ((putBytes a bs).run s)).presAt c = .full ∨
        ((setPres (wordsOf a bs.length) .full).run ((putBytes a bs).run s)).presAt c = .err := by
      rw [hp]
      split
      · exact .inl rfl
      · exact hv
    rw [(hkeep c h).1, hb, hput.outside c hc hv]
  case others =>
    intro c hc hv
    have h : ((setPres (wordsOf a bs.length) .full).run ((putBytes a bs).run s)).presAt c = s.presAt c := by rw [hp, if_neg hc]
    obtain ⟨hb', hp'⟩ := hkeep c (by rwa [h])
    exact ⟨by rw [hb', hb, (hput.others c hc hv).1], hp'.trans h⟩

theorem storeEffect_bytes_stored {s : State} (hs : s.wf) (r : Req) (bs : List Byte) :
    s.Stored ((storeEffect r (.bytes bs)).run s) r.addr bs (s.presenceOf r.addr r.mode ≠ .none) := by
  rw [storeEffect, Act.run_look]
  cases hp : s.presenceOf r.addr r.mode with
  | none => exact putBytes_stored hs _ _ (by simp)
  | plain => exact fill_stored hs _ _ _
  | wo => exact fill_stored hs _ _ _

/-- What is done of a store that nothing refuses. -/
def storeDone (u : Nat) (r : Req) (v : StoreVal) : Act := Act.seq [spendResv r, storeEffect r v, ackAll u r]

theorem storeDone_stored {s : State} (hs : s.wf) (u : Nat) (r : Req) (bs : List Byte) :
    s.Stored ((storeDone u r (.bytes bs)).run s) r.addr bs (s.presenceOf r.addr r.mode ≠ .none) := by
  simp only [storeDone, Act.run_seq_cons, Act.run_seq_nil]
  refine .sameMemory ?_ (ackAll_sameMemory u r _)
  exact (spendResv_sameMemory r s).stored (storeEffect_bytes_stored (Act.run_wf hs (spendResv r)) r bs)

/-! ## A clear at its home -/

theorem clearWords_memory {s : State} (hs : s.wf) (a n c : Nat) : ((clearWords a n).run s).byteAt c = s.byteAt c ∧
    ((clearWords a n).run s).presAt c =
      if c / 4 ∈ wordsOf a n ∧ (s.presAt c = .full ∨ s.presAt c = .err) then .empty else s.presAt c := by
  have hword : s.presAt (4 * (c / 4)) = s.presAt c := by rw [State.presAt, State.presAt, Nat.mul_div_cancel_left _ (by decide)]
  rw [clearWords, Act.run_look, Act.run_andThen, byteAt_setPres, presAt_setPres (Act.run_wf hs _)]
  refine ⟨rfl, ite_of_iff ?_ rfl rfl⟩
  simp [hword]

theorem homeClr_run (s : State) (u : Nat) (r : Req) : (homeClr u r).run s =
    ((if s.presenceOf r.addr r.mode = .none then .quiet else clearWords r.addr r.len).andThen (ackAll u r)).run s := by
  rw [homeClr, Act.run_look]

theorem homeClr_memory {s : State} (hs : s.wf) (u : Nat) (r : Req) (c : Nat) : ((homeClr u r).run s).byteAt c = s.byteAt c ∧
    ((homeClr u r).run s).presAt c = if s.presenceOf r.addr r.mode ≠ .none ∧ c / 4 ∈ wordsOf r.addr r.len ∧
      (s.presAt c = .full ∨ s.presAt c = .err) then .empty else s.presAt c := by
  rw [homeClr_run, Act.run_andThen, (ackAll_sameMemory u r _).1, (ackAll_sameMemory u r _).2]
  by_cases hp : s.presenceOf r.addr r.mode = .none
  · simp [hp]
  · obtain ⟨hb, hw⟩ := clearWords_memory hs r.addr r.len c
    rw [if_neg hp, hb, hw]
    simp [hp]

/-- Why a home refuses a store of a party: write-once words with a value, and another's reservation. -/
def State.storeRefusal (t : State) (r : Req) : Option Nat :=
  let own := match r.who with
    | .task _ => true
    | _ => false
  (t.woRefuses r.addr r.len).orElse fun _ => if !own && t.reserved (wordsOf r.addr r.len) then some Code.woRewrite else none

section
variable {t : State} {u : Nat} {r : Req} {v : StoreVal}

/-- What a home does of a store, by its refusal. -/
def storeOutcome (u : Nat) (r : Req) (v : StoreVal) : Option Nat → Act
  | some c => answer u r.who r.piece (.refused c)
  | none => storeDone u r v

theorem homeStore_run : (homeStore u r v).run t =
    (storeOutcome u r v (if t.presenceOf r.addr r.mode = .wo then t.storeRefusal r else none)).run t := by
  rw [homeStore, Act.run_look]
  by_cases hpr : t.presenceOf r.addr r.mode = .wo
  · simp only [if_pos hpr]
    split
    next c hc => rw [show t.storeRefusal r = some c from hc, storeOutcome]
    next hn => rw [show t.storeRefusal r = none from hn, storeOutcome, storeDone]
  · simp only [if_neg hpr]
    rw [storeOutcome, storeDone]

theorem homeStore_run_refused {c : Nat} (hpr : t.presenceOf r.addr r.mode = .wo) (hr : t.storeRefusal r = some c) :
    (homeStore u r v).run t = (answer u r.who r.piece (.refused c)).run t := by
  rw [homeStore_run, if_pos hpr, hr, storeOutcome]

theorem homeStore_run_done (hr : t.presenceOf r.addr r.mode ≠ .wo ∨ t.storeRefusal r = none) :
    (homeStore u r v).run t = (storeDone u r v).run t := by
  rw [homeStore_run]
  obtain hpr | hn := hr
  · rw [if_neg hpr, storeOutcome]
  · rw [hn, ite_self, storeOutcome]

end

/-! ## Arrival -/

/-- A request at a unit that neither loses it nor holds it back is performed. -/
theorem reqArrive_run_performed {t : State} {u : Nat} {r : Req} (hc : (isCxlUnit u && t.m.pkg.cxlDown.contains (u - 41000)) = false)
    (hp : isSliceUnit u = true → (t.m.cluster ((u - 20000) / 16)).blocker r = none ∧
      (t.m.cluster ((u - 20000) / 16)).behind u r.who.unit = false ∧ t.refusedBehind u (some r.who.unit) = false) :
    (reqArrive u r).run t = (perform u r).run t := by
  have hkeeps : (t.portKeeps u r || isSliceUnit u && t.refusedBehind u (some r.who.unit)) = false := by
    cases hu : isSliceUnit u with
    | false => simp [State.portKeeps, hu]
    | true =>
      obtain ⟨hb, hq, hr⟩ := hp hu
      simp [State.portKeeps, hu, hb, hq, hr]
  rw [reqArrive, Act.run_look]
  simp only [State.cxlGone, hc, hkeeps, Bool.false_eq_true, if_false]

section
variable {s : State} {x : Msg} {r : Req} (hx : s.m.msg? s.m.at_.k = some x) (hb : x.body = .req r)
  (hc : (isCxlUnit x.dst && ((takeMsg s.m.at_.k).run s).m.pkg.cxlDown.contains (x.dst - 41000)) = false)
  (hp : isSliceUnit x.dst = true → (((takeMsg s.m.at_.k).run s).m.cluster ((x.dst - 20000) / 16)).blocker r = none ∧
    (((takeMsg s.m.at_.k).run s).m.cluster ((x.dst - 20000) / 16)).behind x.dst r.who.unit = false ∧
    ((takeMsg s.m.at_.k).run s).refusedBehind x.dst (some r.who.unit) = false)
include hx hb hc hp

theorem homeEvent_run_performed {ok : ReqKind → Bool} (hk : ok r.kind = true) :
    (homeEvent ok).run s = (perform x.dst r).run ((takeMsg s.m.at_.k).run s) := by
  rw [homeEvent, Act.run_look]
  simp only [hx, hb, hk, if_true, Act.run_andThen]
  exact reqArrive_run_performed hc hp

theorem exec_homeLoad_performed (hj : s.m.at_.j = 0 ∨ s.mayHear x.dst r = false) (hk : r.kind = .load ∨ r.kind = .ldp) :
    exec .homeLoad s = .next ((perform x.dst r).run ((takeMsg s.m.at_.k).run s)) := by
  have hnow : (decide (s.m.at_.j ≠ 0) && s.mayHear x.dst r) = false := by
    obtain h | h := hj <;> simp [h]
  change execHomeLoad s = _
  simp only [execHomeLoad, Act.run_look, hx, hb, hnow, Bool.false_eq_true, if_false]
  rw [homeEvent_run_performed hx hb hc hp (by simpa using hk)]

theorem exec_homeStore_performed {v : StoreVal} (hk : r.kind = .store v) :
    exec .homeStore s = .next ((homeStore x.dst r v).run ((takeMsg s.m.at_.k).run s)) := by
  change execHomeStore s = _
  rw [execHomeStore, homeEvent_run_performed hx hb hc hp (by rw [hk]), perform]
  simp only [hk]

theorem exec_homeClr_performed (hk : r.kind = .clr) :
    exec .homeClr s = .next ((homeClr x.dst r).run ((takeMsg s.m.at_.k).run s)) := by
  change execHomeClr s = _
  rw [execHomeClr, homeEvent_run_performed hx hb hc hp (by simpa using hk), perform]
  simp only [hk]

theorem exec_homeAtomic_performed {op : AtomicOp} {v : List Lane} (hk : r.kind = .atomic op v) :
    exec .homeAtomic s = .next ((homeAtomic x.dst r op v).run ((takeMsg s.m.at_.k).run s)) := by
  change execHomeAtomic s = _
  rw [execHomeAtomic, homeEvent_run_performed hx hb hc hp (by rw [hk]), perform]
  simp only [hk]

theorem exec_homeReservation_performed {z : ResKind} (hk : r.kind = .reserve z) :
    exec .homeReservation s = .next ((homeReserve x.dst r z).run ((takeMsg s.m.at_.k).run s)) := by
  change execHomeReservation s = _
  rw [execHomeReservation, homeEvent_run_performed hx hb hc hp (by rw [hk]), perform]
  simp only [hk]

end

theorem exec_homeLoad_heard {s : State} {x : Msg} {r : Req} (hx : s.m.msg? s.m.at_.k = some x) (hb : x.body = .req r)
    (hj : s.m.at_.j ≠ 0) (hm : s.mayHear x.dst r = true) : exec .homeLoad s = .next ((hear s.m.at_.k x r).run s) := by
  change execHomeLoad s = _
  simp only [execHomeLoad, Act.run_look, hx, hb, hm, hj, ne_eq, not_false_eq_true, decide_true, Bool.and_self, if_true]

/-! ## Loads -/

section
variable {t : State} {u : Nat} {r : Req}

/-- What a load is answered with where its home keeps presence as `pr` says. -/
theorem answerOf_presence (keeps : Bool) : t.answerOf r keeps =
    if r.who.byWord then .line (t.lineOf r.addr r.len keeps)
    else if t.damaged r.addr r.len then .poison
    else if keeps = false then .bytes (t.bytesAt r.addr r.len)
    else t.loaded r.addr r.len := by
  rw [State.answerOf]
  cases keeps
  · rw [State.plainLoad]; rfl
  · rw [State.loaded]
    by_cases hd : t.damaged r.addr r.len = true
    · simp [hd]
    · simp [hd]

theorem homeLoad_run_answered
    (h : t.presenceOf r.addr r.mode ≠ .wo ∨ (t.damaged r.addr r.len = true ∧ r.who.byWord = false) ∨ t.missing r.addr r.len = none) :
    (homeLoad u r).run t = (homeAnswer u r (t.answerOf r (decide (t.presenceOf r.addr r.mode ≠ .none)))).run t := by
  rw [homeLoad, Act.run_look]
  cases hpr : t.presenceOf r.addr r.mode with
  | none => rfl
  | plain => rfl
  | wo =>
    have hm : (if (t.damaged r.addr r.len && !r.who.byWord) = true then none else t.missing r.addr r.len) = none := by
      obtain hn | ⟨hd, hw⟩ | hm := h
      · exact absurd hpr hn
      · simp [hd, hw]
      · rw [hm, ite_self]
    simp only [hm]
    rfl

theorem homeLoad_run_parked {w i : Nat} (hpr : t.presenceOf r.addr r.mode = .wo)
    (hh : ¬ (t.damaged r.addr r.len = true ∧ r.who.byWord = false)) (hm : t.missing r.addr r.len = some w)
    (hi : freeEntry (t.pool u) (poolSize u) = some i) : (homeLoad u r).run t = ((accepted r).andThen (park u w i r)).run t := by
  rw [homeLoad, Act.run_look]
  simp only [hpr, if_neg (show ¬ (t.damaged r.addr r.len && !r.who.byWord) = true by simpa using hh), hm, hi]

theorem homeLoad_run_refused {w : Nat} (hpr : t.presenceOf r.addr r.mode = .wo)
    (hh : ¬ (t.damaged r.addr r.len = true ∧ r.who.byWord = false)) (hm : t.missing r.addr r.len = some w)
    (hi : freeEntry (t.pool u) (poolSize u) = none) : (homeLoad u r).run t = (refuse u (.req r none)).run t := by
  rw [homeLoad, Act.run_look]
  simp only [hpr, if_neg (show ¬ (t.damaged r.addr r.len && !r.who.byWord) = true by simpa using hh), hm, hi]

theorem homeLdp_run : (homeLdp u r).run t = (homeAnswer u r (if t.damaged r.addr r.len then .poison else .ldp
    (if t.presenceOf r.addr r.mode ≠ .none ∧ t.presAt r.addr = .defer then 0 else BitVec.ofNat 32 (t.nat r.addr 4))
    (if t.presenceOf r.addr r.mode = .none then .full else t.presAt r.addr))).run t := by
  rw [homeLdp, Act.run_look]
  by_cases hp : t.presenceOf r.addr r.mode = .none
  · simp [hp]
  · simp [hp]

/-! ## Atomics -/

/-- How an atomic that is performed answers, or is acknowledged. -/
def atomicSays (u : Nat) (r : Req) (z : AnsVal) : Act :=
  (checked r.addr r.len).andThen (if r.answer then answer u r.who r.piece z else ackAll u r)

section
variable {op : AtomicOp} {v : List Lane}

theorem homeAtomic_run_refused (hpr : t.presenceOf r.addr r.mode = .wo) :
    (homeAtomic u r op v).run t = (answer u r.who r.piece (.refused Code.woAtomic)).run t := by
  rw [homeAtomic, Act.run_look]
  dsimp only
  rw [if_pos hpr]

theorem homeAtomic_run_damaged (hpr : t.presenceOf r.addr r.mode ≠ .wo) (hd : t.damaged r.addr r.len = true) :
    (homeAtomic u r op v).run t = (atomicSays u r .poison).run t := by
  rw [homeAtomic, Act.run_look]
  dsimp only
  rw [if_neg hpr, if_pos hd]
  rfl

theorem homeAtomic_run_err {w : Nat} (hpr : t.presenceOf r.addr r.mode = .plain) (hd : t.damaged r.addr r.len = false)
    (he : t.errWord r.addr r.len = some w) : (homeAtomic u r op v).run t = (atomicSays u r (.err (t.byteAt (4 * w)))).run t := by
  rw [homeAtomic, Act.run_look]
  dsimp only
  rw [hpr, if_neg (by decide), if_neg (Bool.eq_false_iff.mp hd), if_neg (by decide), he]
  rfl

theorem homeAtomic_run_stored {y : Nat}
    (hpr : t.presenceOf r.addr r.mode = .none ∨ t.presenceOf r.addr r.mode = .plain ∧ t.errWord r.addr r.len = none)
    (hd : t.damaged r.addr r.len = false) (hy : atomicNew op (8 * r.len) (t.nat r.addr r.len) v = .ok y) :
    (homeAtomic u r op v).run t =
      ((if t.presenceOf r.addr r.mode = .none then putBytes r.addr (leBytes r.len y) else fill r.addr (leBytes r.len y)).andThen
        (atomicSays u r (.bytes (leBytes r.len (t.nat r.addr r.len))))).run t := by
  have hwo : t.presenceOf r.addr r.mode ≠ .wo := by
    obtain h | ⟨h, -⟩ := hpr <;> simp [h]
  have hok : (if t.presenceOf r.addr r.mode = .none then none else t.errWord r.addr r.len) = none := by
    obtain h | ⟨-, h⟩ := hpr
    · rw [if_pos h]
    · rw [h, ite_self]
  rw [homeAtomic, Act.run_look]
  dsimp only
  rw [if_neg hwo, if_neg (Bool.eq_false_iff.mp hd), hok]
  simp only [hy]
  rfl

end
end

/-! ## Reservations -/

section
variable {t : State} {u : Nat} {r : Req} {z : ResKind}

theorem homeReserve_run_refused {c : Nat} (h : (if z = .atomic then some Code.woAtomic
      else (t.woRefuses r.addr r.len).orElse fun _ => if t.reserved (wordsOf r.addr r.len) then some Code.woRewrite else none) = some c) :
    (homeReserve u r z).run t = (answer u r.who r.piece (.refused c)).run t := by
  rw [homeReserve, Act.run_look]
  dsimp only
  rw [h]

theorem homeReserve_run_granted {w : Who} (h : (if z = .atomic then some Code.woAtomic
      else (t.woRefuses r.addr r.len).orElse fun _ => if t.reserved (wordsOf r.addr r.len) then some Code.woRewrite else none) = none)
    (hw : r.who = .task w) : (homeReserve u r z).run t = ((Act.when (t.m.runs w) (.pkg fun p => { p with
      resvs := p.resvs ++ [⟨.task { w with slot := 0 }, r.addr / 4, (wordsOf r.addr r.len).length⟩] })).andThen
        (answer u r.who r.piece .granted)).run t := by
  rw [homeReserve, Act.run_look]
  dsimp only
  rw [h]
  simp only [hw]

end

/-! ## Replay and merging -/

/-- How a refused access is looked at anew. -/
def PortHeld.again (u : Nat) : PortHeld → Act
  | .req r _ => reqReplay u r
  | .tile e => tileReplay u e

theorem exec_loadReplay_again {s : State} {u : Nat} {h : PortHeld}
    (hx : s.m.pkg.refused.find? (fun x => x.1 = s.m.at_.k) = some (u, h))
    (hp : h.pools = true → (freeEntry (s.pool u) (poolSize u)).isSome = true)
    (hr : (s.m.cluster ((u - 20000) / 16)).holding u < 64) :
    exec .loadReplay s = .next ((Act.seq [.pkg fun p => { p with refused := p.refused.erase (u, h) }, spoilSub h.colour 256,
      h.again u]).run s) := by
  have hgo : (h.pools && (freeEntry (s.pool u) (poolSize u)).isNone || decide (64 ≤ (s.m.cluster ((u - 20000) / 16)).holding u)) = false := by
    rw [decide_eq_false (by omega), Bool.or_false]
    cases hh : h.pools with
    | false => rfl
    | true => rw [Option.isNone_eq_false_iff.mpr (hp hh)]; rfl
  change execLoadReplay s = _
  simp only [execLoadReplay, Act.run_look, hx, hgo, Bool.false_eq_true, if_false]
  cases h <;> rfl

theorem exec_reductionMerge_merges {s : State} {x y : Msg} {a b r : Req} (hx : s.m.net[s.m.at_.j]? = some x)
    (hy : s.m.net[s.m.at_.k]? = some y) (ha : x.body = .req a) (hb : y.body = .req b) (hjk : s.m.at_.j < s.m.at_.k)
    (hd : x.dst = y.dst) (hj : s.m.joins s.m.at_.j s.m.at_.k y = true) (hxa : remoteHome x.src a.addr = true)
    (hyb : remoteHome y.src b.addr = true) (hm : merged a b = some r) :
    exec .reductionMerge s = .next ((Act.mod fun m => { m with
      net := setAt m.net s.m.at_.j { x with body := .req r } }).run ((takeMsg s.m.at_.k).run s)) := by
  change execReductionMerge s = _
  simp only [execReductionMerge, Act.run_look, hx, hy, ha, hb, hd, hj, hxa, hyb, hm, hjk, decide_true, Bool.and_self, if_true,
    Act.run_andThen]

/-! ## The operations of an atomic (10 R186) -/

theorem lanesOf_one (v : Lane) (ls : List Lane) : atomicNew.lanesOf (32 / 32) (v :: ls) = v.toNat := by
  simp [atomicNew.lanesOf]

theorem atomicNew_min (x v : Lane) : atomicNew .min 32 x.toNat [v] = .ok (if v.slt x then v else x).toNat := by
  simp only [atomicNew, lanesOf_one, sInt_toNat, BitVec.slt, decide_eq_true_eq, apply_ite BitVec.toNat]

theorem atomicNew_max (x v : Lane) : atomicNew .max 32 x.toNat [v] = .ok (if x.slt v then v else x).toNat := by
  simp only [atomicNew, lanesOf_one, sInt_toNat, BitVec.slt, decide_eq_true_eq, apply_ite BitVec.toNat]

theorem atomicNew_minn (x v : Lane) : atomicNew .minn 32 x.toNat [v] = .ok (if v.ult x then v else x).toNat := by
  simp only [atomicNew, lanesOf_one, BitVec.ult, decide_eq_true_eq, apply_ite BitVec.toNat]
  congr 1
  split <;> omega

theorem atomicNew_maxn (x v : Lane) : atomicNew .maxn 32 x.toNat [v] = .ok (if x.ult v then v else x).toNat := by
  simp only [atomicNew, lanesOf_one, BitVec.ult, decide_eq_true_eq, apply_ite BitVec.toNat]
  congr 1
  split <;> omega

theorem atomicNew_cas (x v w : Lane) : atomicNew .cas 32 x.toNat [v, w] = .ok (if x = v then w else x).toNat := by
  simp only [atomicNew, lanesOf_one, BitVec.toNat_inj, apply_ite BitVec.toNat]
  rfl

theorem atomicNew_lane (x v : Lane) : atomicNew .add 32 x.toNat [v] = .ok (x + v).toNat ∧
    atomicNew .and 32 x.toNat [v] = .ok (x &&& v).toNat ∧ atomicNew .or 32 x.toNat [v] = .ok (x ||| v).toNat ∧
    atomicNew .xor 32 x.toNat [v] = .ok (x ^^^ v).toNat ∧ atomicNew .swp 32 x.toNat [v] = .ok v.toNat := by
  simp only [atomicNew, lanesOf_one, BitVec.toNat_add, BitVec.toNat_and, BitVec.toNat_or, BitVec.toNat_xor, and_self]

/-- Settles O52: each request is performed at its home by its kind; what a store leaves rests on readers never being parked on a word
that holds a value. -/
theorem homeEventsComplete : Obligations.HomeEventsComplete := by
  unfold Obligations.HomeEventsComplete
  refine ⟨?arrival, ?replay, ?merge, ?ops⟩
  case arrival =>
    intro s x r hx hb hs u t pr ws k does reply kept own refusal hc hp
    have ht : t.wf := Act.run_wf hs _
    refine ⟨exec_homeLoad_heard hx hb, fun hk hj => ?load, fun hk => ?ldp, fun v hk => ?store, fun hk => ?clr, fun op v hk => ?atomic,
      fun z hk => ?reserve⟩
    case load =>
      intro v hurt
      have hperf : exec .homeLoad s = .next ((homeLoad u r).run t) := by
        rw [exec_homeLoad_performed hx hb hc hp hj (.inl hk), perform]
        simp only [hk]
        rfl
      have hv : t.answerOf r (decide (pr ≠ .none)) = v := by
        simp only [answerOf_presence, v]
        split
        next => rfl
        next => split
                next => rfl
                next hd => simp [State.loaded, hd] <;> rfl
      refine ⟨fun h => ?_, fun w hpr hh hm => ⟨fun i hi => ?_, fun hi => ?_⟩⟩
      · exact hperf.trans (congrArg _ ((homeLoad_run_answered h).trans (by rw [hv]; rfl)))
      · exact hperf.trans (congrArg _ (homeLoad_run_parked hpr hh hm hi))
      · exact hperf.trans (congrArg _ (homeLoad_run_refused hpr hh hm hi))
    case ldp =>
      have hnow : s.mayHear x.dst r = false := by simp [State.mayHear, hk]
      refine (exec_homeLoad_performed hx hb hc hp (.inr hnow) (.inr hk)).trans (congrArg _ ?_)
      rw [perform]
      simp only [hk]
      exact homeLdp_run
    case store =>
      have hperf := exec_homeStore_performed hx hb hc hp hk
      refine ⟨fun hpr c hr => ?_, fun hr => ?_⟩
      · exact hperf.trans (congrArg _ (homeStore_run_refused hpr hr))
      · have hdone := hperf.trans (congrArg _ (homeStore_run_done (v := v) hr))
        refine ⟨hdone, fun bs n hv hlen hn => ?_⟩
        subst hv
        have hn' : (storeDone u r (.bytes bs)).run t = n := Host.Outcome.next.inj (hdone.symm.trans hn)
        obtain ⟨hw, hf, ho, hothers⟩ := storeDone_stored ht u r bs
        rw [hn', hlen] at *
        exact ⟨hw, hf, ho, hothers⟩
    case clr =>
      have hperf := exec_homeClr_performed hx hb hc hp hk
      refine ⟨hperf.trans (congrArg _ (homeClr_run t u r)), fun n hn a => ?_⟩
      obtain rfl := Host.Outcome.next.inj (hperf.symm.trans hn)
      exact homeClr_memory ht u r a
    case atomic =>
      intro say
      have hperf := exec_homeAtomic_performed hx hb hc hp hk
      refine ⟨fun hpr => ?_, fun hpr hd => ?_, fun w hpr hd he => ?_, fun hpr hd y hy => ?_⟩
      · exact hperf.trans (congrArg _ (homeAtomic_run_refused hpr))
      · exact hperf.trans (congrArg _ (homeAtomic_run_damaged hpr hd))
      · exact hperf.trans (congrArg _ (homeAtomic_run_err hpr hd he))
      · exact hperf.trans (congrArg _ (homeAtomic_run_stored hpr hd hy))
    case reserve =>
      intro no
      have hperf := exec_homeReservation_performed hx hb hc hp hk
      refine ⟨fun c hno => ?_, fun hno w hw => ?_⟩
      · exact hperf.trans (congrArg _ (homeReserve_run_refused hno))
      · exact hperf.trans (congrArg _ (homeReserve_run_granted hno hw))
  case replay =>
    intro s u h hx hpools hr back
    have hrun := exec_loadReplay_again hx hpools hr
    exact ⟨fun r b hh => by subst hh; exact hrun, fun e hh => by subst hh; exact hrun⟩
  case merge =>
    intro s x y a b r hx hy ha hb hjk hd hj hxa hyb hm
    exact exec_reductionMerge_merges hx hy ha hb hjk hd hj hxa hyb hm
  case ops =>
    intro x v gives
    obtain ⟨hadd, hand, hor, hxor, hswp⟩ := atomicNew_lane x v
    exact ⟨hadd, atomicNew_min x v, atomicNew_max x v, atomicNew_minn x v, atomicNew_maxn x v, hand, hor, hxor, hswp,
      atomicNew_cas x v⟩

end Sys2Proof.Machine
end

section
/-! PROOF of O15 and O16. A token into a window field, and a token to each kind of target (01 R20, R23, 02 R39, R40). -/

namespace Sys2Proof.Machine

/-- A context names the place that it was looked up at. -/
theorem ctxAt_place {s : State} {core frame idx slot : Nat} {x : Ctx} (h : ctxAt s core frame idx slot = some x) :
    x.core = core ∧ x.frame = frame ∧ x.idx = idx ∧ x.slot = slot := by
  unfold ctxAt at h
  split at h
  · cases h
  · split at h
    · obtain ⟨b, -, rfl⟩ := Option.map_eq_some_iff.mp h
      exact ⟨rfl, rfl, rfl, rfl⟩
    · cases h

section
variable {s : State} {v : Who} {a : Activation} (ha : s.m.actOf? v = some a) (code : Nat) (u : Token)
include ha

theorem tokenFault_run_parks (hp : a.parksOnFault = true) :
    (tokenFault v code u).run s = (takeFault v code 0 u.tag.toNat u.seq 0).run s := by
  rw [tokenFault, Act.run_look]
  simp only [ha, hp, if_true]

theorem tokenFault_run_copies (hp : a.parksOnFault = false) : (tokenFault v code u).run s =
    (Act.pkg fun p => { p with copies := p.copies ++ [(p.nextHandle, u)], nextHandle := p.nextHandle + 1 }).run
      ((takeFault v code 0 u.tag.toNat u.seq s.m.pkg.nextHandle).run s) := by
  rw [tokenFault, Act.run_look]
  simp only [ha, hp, Bool.false_eq_true, if_false, Act.run_andThen]

end

/-- A token under the tag of a field. -/
def fieldToken (t : Token) (w : Who) (slot : Nat) (g : Field) : Token :=
  { t with frame := BitVec.ofNat 10 w.frame, slot := BitVec.ofNat 5 slot, wave := BitVec.ofNat 8 w.wave, field := g.toBits }

section
variable {s : State} {w : Who} {slot : Nat} {g : Field} {t : Token} {x : Ctx} {o : Nat} {f : Form}
  (hx : ctxAt s w.core w.frame w.wave slot = some x)
include hx

theorem inField_eq : x.inField g t = fieldToken t w slot g := by
  obtain ⟨-, hframe, hidx, hslot⟩ := ctxAt_place hx
  rw [Ctx.inField, Ctx.tagged, hframe, hidx, hslot, fieldToken]

theorem intoWindow_run_badKind (hk : t.kind ∈ [Kind.eos, Kind.wedge, Kind.demand, Kind.reserved]) :
    (intoWindow w slot g t false).run s = (tokenFault x.who Code.badKind (fieldToken t w slot g)).run s := by
  rw [intoWindow, Act.run_look]
  simp only [hx]
  rw [unmatched, if_pos (List.contains_iff_mem.mpr hk), inField_eq hx]

variable (hi : blockIns x.b slot = some (o, f)) (hk : t.kind ∉ [Kind.eos, Kind.wedge, Kind.demand, Kind.reserved])
include hi hk

theorem intoWindow_run_fieldUnused (hu : usesField o f g = false) :
    (intoWindow w slot g t false).run s = (tokenFault x.who Code.fieldUnused (fieldToken t w slot g)).run s := by
  rw [intoWindow, Act.run_look]
  simp only [hx]
  rw [unmatched, if_neg (by simpa using hk)]
  simp only [hi, hu, Bool.not_false, if_true, inField_eq hx]

theorem intoWindow_run_dupOperand (hu : usesField o f g = true) (hs : x.fields.seen g = true) :
    (intoWindow w slot g t false).run s = (tokenFault x.who Code.dupOperand (fieldToken t w slot g)).run s := by
  rw [intoWindow, Act.run_look]
  simp only [hx]
  rw [unmatched, if_neg (by simpa using hk)]
  simp only [hi, hu, hs, Bool.not_true, Bool.false_eq_true, if_false, if_true, inField_eq hx]

/-- A token from within the wave lies in its field; no copy is kept for a re-execution (R25). -/
theorem intoWindow_run_matched (hu : usesField o f g = true) (hs : x.fields.seen g = false) :
    (intoWindow w slot g t false).run s = (unpairedSlot w.core w.frame w.wave slot).run ((modWave w.core w.frame w.wave fun v =>
      { v with slots := setAt v.slots slot ((v.slots.getD slot Slot.empty).put g t) }).run s) := by
  rw [intoWindow, Act.run_look]
  simp only [hx]
  rw [unmatched, if_neg (by simpa using hk)]
  simp only [hi, hu, hs, Bool.not_true, Bool.false_eq_true, if_false, Act.run_andThen, Bool.or_false]

end

/-- Settles O15: what decides, in this order, is the token's kind, the field's use, and whether it has held a token. -/
theorem tokenIntoAWindowField : Obligations.TokenIntoAWindowField := by
  unfold Obligations.TokenIntoAWindowField
  intro s w slot g t x o f hx hi u bad
  exact ⟨fun v a code ha => ⟨tokenFault_run_parks ha code u, tokenFault_run_copies ha code u⟩, intoWindow_run_badKind hx,
    intoWindow_run_fieldUnused hx hi, intoWindow_run_dupOperand hx hi, intoWindow_run_matched hx hi⟩

/-! ## Counts and targets -/

section
variable {s : State} {x y : Ctx} (hy : x.again s = some y)
include hy

theorem Ctx.countOut_run_beyond (h : blockNout x.b ≤ y.w.outputs) : x.countOut.run s = (x.fault Code.commitCount).run s := by
  rw [countOut, Act.run_look]
  simp only [hy]
  rw [if_pos (by omega)]

theorem Ctx.countOut_run_counted (h : y.w.outputs < blockNout x.b) :
    x.countOut.run s = (x.mod fun w => { w with outputs := w.outputs + 1 }).run s := by
  rw [countOut, Act.run_look]
  simp only [hy]
  rw [if_neg (by omega)]

theorem Ctx.countStore_run_beyond (h : blockNst x.b ≤ y.w.stores) : x.countStore.run s = (x.fault Code.commitCount).run s := by
  rw [countStore, Act.run_look]
  simp only [hy]
  rw [if_pos (by omega)]

theorem Ctx.countStore_run_counted (h : y.w.stores < blockNst x.b) :
    x.countStore.run s = (x.mod fun w => { w with stores := w.stores + 1 }).run s := by
  rw [countStore, Act.run_look]
  simp only [hy]
  rw [if_neg (by omega)]

variable (hf : y.w.fault = false)
include hf

theorem Ctx.unless_run_goes (a : Act) : (x.unless a).run s = a.run s := by
  rw [Ctx.unless, Act.run_look]
  simp only [hy, hf, Bool.false_eq_true, if_false]

/-- A counted output is recorded for the commit. -/
theorem Ctx.counted_run (ho : y.w.outputs < blockNout x.b) (a : Act) :
    (x.unless (x.countOut.andThen a)).run s = a.run ((x.mod fun w => { w with outputs := w.outputs + 1 }).run s) := by
  rw [unless_run_goes hy hf, Act.run_andThen, countOut_run_counted hy ho]

end

/-- Settles O16, target by target. -/
theorem targetsTakeTheirTokens : Obligations.TargetsTakeTheirTokens := by
  unfold Obligations.TargetsTakeTheirTokens
  refine ⟨fun s x y hy => ⟨Ctx.countOut_run_beyond hy, Ctx.countOut_run_counted hy, Ctx.countStore_run_beyond hy,
    Ctx.countStore_run_counted hy⟩, ?targets⟩
  intro s x y t hy hf ho counted
  refine ⟨rfl, fun n => ?frame, fun net p hnet => ?port, fun p => ?control, fun r hr => ?reply, fun hr => ?noReply, ?sink⟩
  case frame => exact Ctx.counted_run hy hf ho _
  case port =>
    rw [Ctx.deliver, if_neg hnet]
    exact Ctx.counted_run hy hf ho _
  case control =>
    rw [Ctx.deliver, if_pos rfl]
    exact Ctx.counted_run hy hf ho _
  case reply =>
    simp only [Ctx.deliver, hr]
    exact Ctx.counted_run hy hf ho _
  case noReply =>
    simp only [Ctx.deliver, hr]
    exact Ctx.unless_run_goes hy hf _
  case sink => exact Ctx.counted_run hy hf ho _

end Sys2Proof.Machine
end

section
/-! PROOF of O53. Tokens at a channel and by their tag, control tokens, wedges and replays (01 R19, R29, R30, 09 R163, 15 R244). -/

namespace Sys2Proof.Machine

theorem Act.seq_pair (a b : Act) : Act.seq [a, b] = a.andThen b := by
  funext s
  simp [Act.seq, Act.andThen, Act.quiet]

theorem Act.seq_cons_quiet (as : List Act) : Act.seq (Act.quiet :: as) = Act.seq as := rfl

/-! ## One node of a core -/

theorem modNode_run_of_node {s : State} {core node : Nat} {n : NodeState} (hn : s.m.node? core node = some n) (f : NodeState → NodeState) :
    (modNode core node f).run s = (modCore core fun k => { k with nodes := tput k.nodes node (f n) }).run s := by
  have hk : tget? (s.m.core core).nodes node = some n := hn
  simp only [modNode, modCore, Act.mod, Act.run, hk]

/-- Two changes of a node that agree on the node as it stands are one change of the state. -/
theorem modNode_run_congr {s : State} {core node : Nat} {n : NodeState} (hn : s.m.node? core node = some n) {f g : NodeState → NodeState}
    (h : f n = g n) : (modNode core node f).run s = (modNode core node g).run s := by
  rw [modNode_run_of_node hn, modNode_run_of_node hn, h]

theorem modNode_node {s : State} {core node : Nat} {n : NodeState} (hn : s.m.node? core node = some n) (f : NodeState → NodeState) :
    ((modNode core node f).run s).m.node? core node = some (f n) := by
  rw [modNode_run_of_node hn, Machine.node?, modCore_core, tget_tput_same]

theorem modNode_acts {s : State} {core node : Nat} (f : NodeState → NodeState) :
    (((modNode core node f).run s).m.core core).acts = (s.m.core core).acts := by
  rw [modNode, modCore_core]
  split <;> rfl

theorem occupy_nodes (k : CoreState) (c : Colour) : (k.occupy c).nodes = k.nodes := by
  rw [CoreState.occupy]
  split
  · rfl
  · split <;> rfl

theorem occupy_acts (k : CoreState) (c : Colour) : (k.occupy c).acts = k.acts := by
  rw [CoreState.occupy]
  split
  · rfl
  · split <;> rfl

theorem occupyCore_node (core : Nat) (c : Colour) (s : State) (node : Nat) :
    ((occupyCore core c).run s).m.node? core node = s.m.node? core node := by
  rw [Machine.node?, occupyCore, modCore_core, occupy_nodes]
  rfl

theorem occupyCore_defaultOf (core : Nat) (c : Colour) (s : State) (node : Nat) (d : Colour) :
    (((occupyCore core c).run s).m.core core).defaultOf node d = (s.m.core core).defaultOf node d := by
  rw [CoreState.defaultOf, occupyCore, modCore_core, occupy_acts]
  rfl

/-! ## A token on a channel (R19) -/

theorem setChan_chan (n : NodeState) (chan : Nat) (c : Colour) (x : ChanState) : (n.setChan chan c x).chan chan c = x := by
  rw [NodeState.chan, NodeState.setChan, tgetD_tput_same]

/-- The node after the count of an arrival. -/
def NodeState.counted (n : NodeState) (chan : Nat) (c : Colour) : NodeState :=
  n.setChan chan c { n.chan chan c with arrived := (n.chan chan c).arrived + 1 }

theorem counted_chan (n : NodeState) (chan : Nat) (c : Colour) :
    (n.counted chan c).chan chan c = { n.chan chan c with arrived := (n.chan chan c).arrived + 1 } := setChan_chan n chan c _

section
variable {t : State} {core node chan : Nat} {n : NodeState} {c : Colour} (hn : t.m.node? core node = some n)

/-- The virtual-channel entry of a node's channel. -/
def NodeState.entryOf (n : NodeState) (chan : Nat) : Nat := ((n.info.ins.find? fun i => i.chan == chan).map InChan.entry).getD 0

include hn in
theorem countArrival_node : ((countArrival core node chan c).run t).m.node? core node = some (n.counted chan c) :=
  modNode_node hn _

theorem countArrival_defaultOf :
    (((countArrival core node chan c).run t).m.core core).defaultOf node c = (t.m.core core).defaultOf node c := by
  rw [CoreState.defaultOf, countArrival, modNode_acts]
  rfl

theorem countArrival_past : (n.counted chan c).past (((countArrival core node chan c).run t).m.core core) node c =
    n.past (t.m.core core) node c := by
  rw [NodeState.past, NodeState.past, countArrival_defaultOf]
  rfl

variable {u : Token} (hpast : n.past (t.m.core core) node u.colour = false)
include hn hpast

theorem chanArrive_run_closed (hc : (n.chan chan u.colour).closed = true) :
    (chanArrive core node chan u).run ((countArrival core node chan u.colour).run t) =
      (Act.each n.info.outs fun o => portPush core node o.net o.port u.colour true (.out o.net o.port
        (closedToken n o.net { u with chan := BitVec.ofNat 5 (n.entryOf chan) }))).run ((countArrival core node chan u.colour).run t) := by
  rw [chanArrive, Act.run_look]
  simp only [countArrival_node hn, countArrival_past, hpast, counted_chan, hc, Bool.false_eq_true, if_false, if_true]
  rfl

variable {f : Nat} {a : Activation} (hdef : (t.m.core core).defaultOf node u.colour = some (f, a))
  (hc : (n.chan chan u.colour).closed = false)
include hdef hc

/-- At an open channel of a standing default activation, a token whose channel pairs no scale. -/
theorem chanArrive_run_open
    (hscale : inlineScale (((occupyCore core u.colour).run ((countArrival core node chan u.colour).run t)).m.core core)
      (n.entryOf chan) = false) :
    let y := (occupyCore core u.colour).run ((countArrival core node chan u.colour).run t)
    let v := { u with chan := BitVec.ofNat 5 (n.entryOf chan) }
    (chanArrive core node chan u).run ((countArrival core node chan u.colour).run t) =
      (if (y.m.core core).spilt (.chan node chan v none) || !(y.m.core core).grants u.colour
          (if (y.m.core core).bindsNow (n.counted chan u.colour) node chan u.colour then 0 else tokenLines v) then
        spill core (.chan node chan v none)
      else (modNode core node fun n =>
        n.setChan chan u.colour { n.chan chan u.colour with queue := (n.chan chan u.colour).queue ++ [v] }).andThen
          (bindChan core node chan u.colour 64)).run y := by
  intro y v
  have hnew : ((((occupyCore core u.colour).run ((countArrival core node chan u.colour).run t)).m.core core).defaultOf node
      u.colour).isNone = false := by
    rw [occupyCore_defaultOf, countArrival_defaultOf, hdef]; rfl
  have hentry : (((n.counted chan u.colour).info.ins.find? fun i => i.chan == chan).map InChan.entry).getD 0 = n.entryOf chan := rfl
  rw [chanArrive, Act.run_look]
  simp only [countArrival_node hn, countArrival_past, hpast, counted_chan, hc, Bool.false_eq_true, if_false, Act.run_andThen,
    Act.run_look, hentry, hscale, Bool.false_and, hnew, Bool.not_false, Bool.and_true, Nat.add_zero, Bool.or_false]
  rw [show Act.when false _ = Act.quiet from rfl, Act.seq_cons_quiet, Act.seq_pair]

end

/-! ## Events of messages at a core -/

section
variable {s : State} {x : Msg} {core node chan : Nat} {u : Token} {ahead : Option Nat} (hx : s.m.msg? s.m.at_.k = some x)
  (hb : x.body = .tok (.chan core node chan) u ahead) (ht : s.takes core = true)
include hx hb ht

theorem chanEvent_run {ok : Kind → Bool} (hk : ok u.kind = true) (act : Nat → Nat → Nat → Token → Option Nat → Act) :
    (chanEvent ok act).run s = (act core node chan u ahead).run ((takeMsg s.m.at_.k).run s) := by
  rw [chanEvent, Act.run_look]
  simp only [hx, hb, hk, ht, Bool.and_self, if_true, Act.run_andThen]

theorem exec_channelTokenArrive_arrives (he : u.kind ≠ .eos) (hw : u.kind ≠ .wedge) (hd : u.kind ≠ .demand) :
    exec .channelTokenArrive s = .next ((chanArrive core node chan u).run
      ((countArrival core node chan u.colour).run ((takeMsg s.m.at_.k).run s))) := by
  change execChannelTokenArrive s = _
  rw [execChannelTokenArrive, chanEvent_run hx hb ht (by simp [he, hw, hd]), Act.run_andThen]

theorem exec_eosToken_control (he : u.kind = .eos) :
    exec .eosToken s = .next ((chanControl core node chan u ahead).run ((takeMsg s.m.at_.k).run s)) := by
  change execEosToken s = _
  rw [execEosToken, chanEvent_run hx hb ht (by simp [he])]

theorem exec_wedgeToken_control (hw : u.kind = .wedge) :
    exec .wedgeToken s = .next ((chanControl core node chan u ahead).run ((takeMsg s.m.at_.k).run s)) := by
  change execWedgeToken s = _
  rw [execWedgeToken, chanEvent_run hx hb ht (by simp [hw])]

end

section
variable {t : State} {core node chan : Nat} {n : NodeState} {u : Token} {ahead : Option Nat} (hn : t.m.node? core node = some n)
include hn

/-- A control token that no earlier token's arrival holds is acted on. -/
theorem chanControl_run_now (h : ¬ ∃ a, ahead = some a ∧ (n.chan chan u.colour).arrived < a) :
    (chanControl core node chan u ahead).run t =
      (if u.kind = .wedge then wedgeChan core node chan u.colour else closeChan core node chan u).run t := by
  rw [chanControl, Act.run_look]
  simp only [hn]
  cases ahead with
  | none => rfl
  | some a =>
    dsimp only
    rw [if_neg fun hlt => h ⟨a, rfl, hlt⟩]
    rfl

theorem chanControl_run_held {a : Nat} (h : (n.chan chan u.colour).arrived < a) :
    (chanControl core node chan u (some a)).run t = (modNode core node fun n => n.setChan chan u.colour
      { n.chan chan u.colour with held := (n.chan chan u.colour).held ++ [(u, a)] }).run t := by
  rw [chanControl, Act.run_look]
  simp only [hn, h, if_true]
  exact modNode_run_congr hn rfl

end

/-! ## The release of a held control token (15 R244) -/

section
variable {s : State} {n : NodeState} {u : Token} {a : Nat} {rest : List (Token × Nat)}
  (hn : s.m.node? s.m.at_.core s.m.at_.node = some n)
  (hh : (n.chan (s.m.at_.k / 256) (BitVec.ofNat 8 s.m.at_.k)).held = (u, a) :: rest)
include hn hh

theorem exec_dynControlRelease_early (ha : (n.chan (s.m.at_.k / 256) (BitVec.ofNat 8 s.m.at_.k)).arrived < a) :
    exec .dynControlRelease s = .next s := by
  change execDynControlRelease s = _
  rw [execDynControlRelease, Act.run_look]
  simp only [hn, hh, ha, if_true, Act.run_quiet]

theorem exec_dynControlRelease_acts (ha : a ≤ (n.chan (s.m.at_.k / 256) (BitVec.ofNat 8 s.m.at_.k)).arrived) :
    exec .dynControlRelease s = .next
      ((if u.kind = .wedge then wedgeChan s.m.at_.core s.m.at_.node (s.m.at_.k / 256) u.colour
        else closeChan s.m.at_.core s.m.at_.node (s.m.at_.k / 256) u).run
      ((modNode s.m.at_.core s.m.at_.node fun n => n.setChan (s.m.at_.k / 256) (BitVec.ofNat 8 s.m.at_.k)
        { n.chan (s.m.at_.k / 256) (BitVec.ofNat 8 s.m.at_.k) with held := rest }).run s)) := by
  change execDynControlRelease s = _
  rw [execDynControlRelease, Act.run_look]
  simp only [hn, hh, if_neg (Nat.not_lt.mpr ha), Act.run_andThen]
  rw [modNode_run_congr hn (g := fun n => n.setChan (s.m.at_.k / 256) (BitVec.ofNat 8 s.m.at_.k)
    { n.chan (s.m.at_.k / 256) (BitVec.ofNat 8 s.m.at_.k) with held := rest }) rfl]
  rw [chanControl_run_now (modNode_node hn _) (by rintro ⟨b, hb, -⟩; cases hb)]

end

/-! ## Wedging a node, and replaying a spilled item -/

theorem exec_nodeWedgeFreeze_freezes {s : State} {n : NodeState} (hn : s.m.node? s.m.at_.core s.m.at_.node = some n)
    (hf : n.frozen = false) (hp : (tget? s.m.pkg.confs n.cfg).map ConfState.phase = some .wedging)
    (hw : ∀ c ∈ s.confColours n.cfg, n.wedgedIn c = true) (hi : s.nodeIdle s.m.at_.core s.m.at_.node = true) :
    exec .nodeWedgeFreeze s = .next ((Act.seq [
      Act.each n.info.outs fun o => Act.each (s.confColours n.cfg) fun c =>
        portOut s.m.at_.core s.m.at_.node o.net o.port c (.wedge o.net o.port (Config.freeSeq s.m.free) n.info.width),
      .mod fun m => { m with free := m.free + 1 },
      modNode s.m.at_.core s.m.at_.node fun n => { n with frozen := true }]).run s) := by
  have hall : (s.confColours n.cfg).all n.wedgedIn = true := List.all_eq_true.mpr hw
  have hwedging : ((tget? s.m.pkg.confs n.cfg).map ConfState.phase == some CfgPhase.wedging) = true := by rw [hp]; rfl
  change execNodeWedgeFreeze s = _
  rw [execNodeWedgeFreeze, Act.run_look]
  simp only [hn, hf, hwedging, hall, hi, Bool.not_true, Bool.or_self, Bool.false_eq_true, if_false]

theorem exec_tokenReplay_again {s : State} {i : Spilled} (hi : (s.m.core s.m.at_.core).spill[s.m.at_.k]? = some i)
    (hfirst : ∀ y ∈ (s.m.core s.m.at_.core).spill.take s.m.at_.k, y.key ≠ i.key)
    (he : (s.m.core s.m.at_.core).evicted.contains i.colour = false)
    (hg : ((s.m.core s.m.at_.core).occupy i.colour).grants i.colour (i.room s s.m.at_.core) = true) :
    exec .tokenReplay s = .next ((Act.seq [
      modCore s.m.at_.core fun k => { k with spill := k.spill.filter fun y => y.key != i.key },
      spoilSub i.colour 256, occupyCore s.m.at_.core i.colour, replay s.m.at_.core i, modCore s.m.at_.core fun k => { k with
        spill := k.spill ++ ((s.m.core s.m.at_.core).spill.drop (s.m.at_.k + 1)).filter fun y => y.key == i.key }]).run s) := by
  have hany : ((s.m.core s.m.at_.core).spill.take s.m.at_.k).any (fun y => y.key == i.key) = false := by
    simpa only [List.any_eq_false, beq_iff_eq] using hfirst
  change execTokenReplay s = _
  rw [execTokenReplay, Act.run_look]
  simp only [hi, hany, he, hg, Bool.not_true, Bool.or_self, Bool.false_eq_true, if_false]

theorem replay_item (core : Nat) {i : Spilled} (h : ∀ w piece v, i ≠ .answer w piece v) : replay core i = itemArrive core i := by
  cases i with
  | answer w piece v => exact absurd rfl (h w piece v)
  | chan _ _ _ _ => rfl
  | tag _ => rfl
  | reply _ _ => rfl
  | sent _ _ => rfl

/-! ## Tokens by tag, and demands -/

section
variable {s : State} {x : Msg} (hx : s.m.msg? s.m.at_.k = some x)
include hx

theorem exec_tokenArrive_tag {core : Nat} {u : Token} (hb : x.body = .tag core u) (ht : s.takes core = true) :
    exec .tokenArrive s = .next ((itemOrSpill core (.tag u)).run ((takeMsg s.m.at_.k).run s)) := by
  change execTokenArrive s = _
  simp only [execTokenArrive, Act.run_look, hx, hb, ht, Bool.not_true, Bool.false_eq_true, if_false, Act.run_andThen]

theorem exec_tokenArrive_reply {r : Reply} {u : Token} (hb : x.body = .reply r u) (hs : s.savedReply r = false)
    (ht : s.takes r.core = true) :
    exec .tokenArrive s = .next ((itemOrSpill r.core (.reply r u)).run ((takeMsg s.m.at_.k).run s)) := by
  change execTokenArrive s = _
  simp only [execTokenArrive, Act.run_look, hx, hb, hs, ht, Bool.not_true, Bool.or_self, Bool.false_eq_true, if_false, Act.run_andThen]

theorem exec_tokenArrive_sent {core : Nat} {d : Lane} {u : Token} (hb : x.body = .sent core d u) (ht : s.takes core = true) :
    exec .tokenArrive s = .next ((itemOrSpill core (.sent d u)).run ((takeMsg s.m.at_.k).run s)) := by
  change execTokenArrive s = _
  simp only [execTokenArrive, Act.run_look, hx, hb, ht, Bool.not_true, Bool.false_eq_true, if_false, Act.run_andThen]

theorem exec_demandToken_port {core node port : Nat} {c : Colour} {n : Nat} (hb : x.body = .demand core node port c n)
    (ht : s.takes core = true) : exec .demandToken s = .next ((addCredit core node port c n).run ((takeMsg s.m.at_.k).run s)) := by
  change execDemandToken s = _
  simp only [execDemandToken, Act.run_look, hx, hb, ht, Bool.not_true, Bool.false_eq_true, if_false, Act.run_andThen]

theorem exec_demandToken_entry {cfg port : Nat} {c : Colour} {n : Nat} (hb : x.body = .demandEntry cfg port c n) :
    exec .demandToken s = .next ((addEntryCredit cfg port c n).run ((takeMsg s.m.at_.k).run s)) := by
  change execDemandToken s = _
  simp only [execDemandToken, Act.run_look, hx, hb, Act.run_andThen]

end

/-- Settles O53: each event looks at its channel, node or spill as the count of the arrival leaves it. -/
theorem tokenEventsComplete : Obligations.TokenEventsComplete := by
  unfold Obligations.TokenEventsComplete
  refine ⟨?messages, ?release, ?freeze, ?again⟩
  case messages =>
    intro s x hx t
    refine ⟨fun core node chan u ahead hb ht => ⟨fun he hw hd => ?arrive, fun n hn => ?control⟩, fun core u hb ht => ?tag,
      fun r u hb hs ht => ?reply, fun core d u hb ht => ?sent, fun core node port c n hb ht => ?demand,
      fun cfg port c n hb => ?entry⟩
    case arrive =>
      have harr := exec_channelTokenArrive_arrives hx hb ht he hw hd
      refine ⟨harr, fun n f a hn hdef hpast => ?_⟩
      intro y entry v
      refine ⟨fun hc => ?_, ?_⟩
      · exact harr.trans (congrArg _ (chanArrive_run_closed hn hpast hc))
      · intro need
        have hnode : (y.m.node? core node).getD n = n.counted chan u.colour := by
          rw [occupyCore_node, countArrival_node hn]; rfl
        refine ⟨fun hc hscale hspilt hg => ?_, fun hc hscale hno => ?_⟩
        · simp only [need, hnode] at hg
          rw [harr, chanArrive_run_open hn hpast hdef hc hscale, if_neg]
          · rfl
          · rw [Bool.not_eq_true, Bool.or_eq_false_iff, Bool.not_eq_false']
            exact ⟨hspilt, hg⟩
        · simp only [need, hnode] at hno
          rw [harr, chanArrive_run_open hn hpast hdef hc hscale, if_pos]
          · rfl
          · rw [Bool.or_eq_true, Bool.not_eq_true']
            exact hno
    case control =>
      intro early
      refine ⟨fun hk he => ?_, fun hk he => ?_, fun a ha hlt => ?_⟩
      · rw [exec_eosToken_control hx hb ht hk, chanControl_run_now hn he, if_neg (by simp [hk])]
      · rw [exec_wedgeToken_control hx hb ht hk, chanControl_run_now hn he, if_pos hk]
      · subst ha
        refine ⟨fun hk => ?_, fun hk => ?_⟩
        · rw [exec_eosToken_control hx hb ht hk, chanControl_run_held hn hlt]
        · rw [exec_wedgeToken_control hx hb ht hk, chanControl_run_held hn hlt]
    case tag => exact exec_tokenArrive_tag hx hb ht
    case reply => exact exec_tokenArrive_reply hx hb hs ht
    case sent => exact exec_tokenArrive_sent hx hb ht
    case demand => exact exec_demandToken_port hx hb ht
    case entry => exact exec_demandToken_entry hx hb
  case release =>
    intro s n u a rest core node chan c hn hh hcol
    refine ⟨fun ha hk => ?_, fun ha hk => ?_, exec_dynControlRelease_early hn hh⟩
    · rw [exec_dynControlRelease_acts hn hh ha, if_pos hk, hcol]
    · rw [exec_dynControlRelease_acts hn hh ha, if_neg (by simp [hk])]
  case freeze =>
    intro s n core node hn hf hp hw hi
    exact exec_nodeWedgeFreeze_freezes hn hf hp hw hi
  case again =>
    intro s i hi core k hfirst he again
    refine ⟨fun w piece v hv hg => ?_, fun h hg => ?_⟩
    · subst hv
      exact exec_tokenReplay_again hi hfirst he hg
    · rw [exec_tokenReplay_again hi hfirst he hg, replay_item _ h]

end Sys2Proof.Machine
end

section
/-! PROOF of O54. Windows, commits, withdrawals, creations, admission and answers (01 R12, R13, R23, R29, 06 R121, 09 R162). -/

namespace Sys2Proof.Machine

section
variable {s : State} {a : Activation} (ha : s.m.act? s.m.at_.core s.m.at_.frame = some a)
include ha

theorem exec_windowAllocate_allocates {b : BitVec 6} (hn : a.next = .block b) (hm : mayAllocate s s.m.at_.core a = true) :
    exec .windowAllocate s = .next ((Act.seq [
      modCore s.m.at_.core fun k => { k with nextOrder := k.nextOrder + 1 },
      modAct s.m.at_.core s.m.at_.frame fun a => { a with
        waves := a.waves ++ [newWave a.count b (s.m.core s.m.at_.core).nextOrder], count := a.count + 1, next := .unknown },
      bindFrame s.m.at_.core s.m.at_.frame, .when (a.kind = .default) (bindAll s.m.at_.core a.node a.colour),
      placeTagged s.m.at_.core s.m.at_.frame]).run s) := by
  change execWindowAllocate s = _
  rw [execWindowAllocate, Act.run_look]
  simp only [ha, hn, hm, if_true]

section
variable {w : Wave} {rest : List Wave} (hw : a.waves = w :: rest)
include hw

section
variable {x : Ctx} (hx : ctxAt s s.m.at_.core s.m.at_.frame w.idx 0 = some x) (hc : x.commits s = true)
include hx hc

theorem exec_blockCommit_commits : exec .blockCommit s = .next (x.commit.run s) := by
  change execBlockCommit s = _
  rw [execBlockCommit, Act.run_look]
  simp only [ha, hw, hx, hc, if_true]

theorem exec_blockCommit_effects (hf : x.commitFault s = none) : exec .blockCommit s = .next ((Act.seq [
    modAct s.m.at_.core s.m.at_.frame fun a =>
      { a with waves := a.waves.filter fun v => v.idx ≠ x.idx, owed := tdel a.owed x.idx },
    x.commitStores (s.confDet x.a.cfg), Act.each (bySlot x.w.acts) fun (i, e) => Ctx.commitAct { x with slot := i } e,
    x.commitCapsule s, x.commitExit, flushAfter s.m.at_.core s.m.at_.frame, bindFrame s.m.at_.core s.m.at_.frame,
    settleFault s.m.at_.core s.m.at_.frame]).run s) := by
  obtain ⟨hcore, hframe, -, -⟩ := ctxAt_place hx
  rw [exec_blockCommit_commits ha hw hx hc, Ctx.commit, Act.run_look]
  simp only [hf, hcore, hframe]

theorem exec_blockCommit_breach {i c : Nat} (hf : x.commitFault s = some (i, c)) :
    exec .blockCommit s = .next ((takeFault { x.who with slot := i } c 0 0 x.a.seq 0).run s) := by
  rw [exec_blockCommit_commits ha hw hx hc, Ctx.commit, Act.run_look]
  simp only [hf]

end

section
variable {n : NodeState} (hn : s.m.node? s.m.at_.core a.node = some n) (hi : n.info.ins ≠ []) (hc : n.channelsClosed a.colour = true)
  (hf : w.framed = true) (hu : a.unacked = 0) (hans : a.answers = [])
include hn hi hc hf hu hans

theorem exec_waveWithdraw_withdraws (hh : a.holds w = false) :
    exec .waveWithdraw s = .next ((withdrawWave s.m.at_.core s.m.at_.frame a w).run s) := by
  have hcond : (decide (n.info.ins ≠ []) && n.channelsClosed a.colour && w.framed && a.unacked == 0 && a.answers == []) = true := by
    simp [hi, hc, hf, hu, hans]
  change execWaveWithdraw s = _
  rw [execWaveWithdraw, Act.run_look]
  simp only [ha, hw, hn, hcond, hh, Bool.not_false, if_true]

theorem exec_waveWithdraw_leftover (hh : a.holds w = true) {x y : Ctx} {g : Field} {u : Token}
    (hx : ctxAt s s.m.at_.core s.m.at_.frame w.idx 0 = some x) (hl : Ctx.leftover s x = some (y, g, u)) :
    exec .waveWithdraw s = .next ((tokenFault y.who Code.predImbal (y.inField g u)).run s) := by
  have hcond : (decide (n.info.ins ≠ []) && n.channelsClosed a.colour && w.framed && a.unacked == 0 && a.answers == []) = true := by
    simp [hi, hc, hf, hu, hans]
  change execWaveWithdraw s = _
  rw [execWaveWithdraw, Act.run_look]
  simp only [ha, hw, hn, hcond, hh, hx, hl, Option.bind_some, Bool.not_true, Bool.false_eq_true, if_false, if_true]

end
end

theorem exec_splitPieceIssue_advances {x : Ctx} {p : Pend}
    (hp : pendAt s (a.who s.m.at_.core s.m.at_.frame s.m.at_.j s.m.at_.k) = some (x, p)) (hs : p.stage = .issue) :
    exec .splitPieceIssue s = .next ((sendOuts s.m.at_.core s.m.at_.id 4096).run
      ((advance maxPieces (a.who s.m.at_.core s.m.at_.frame s.m.at_.j s.m.at_.k)).run s)) := by
  change execSplitPieceIssue s = _
  rw [execSplitPieceIssue, Act.run_look]
  simp only [ha, hp, hs, if_true, Act.run_andThen]

end

/-- A wave that holds, and is owed, nothing from outside. -/
theorem holds_false {a : Activation} {w : Wave} (ho : w.outside = false) (hf : w.fault = false) (hp : w.pend = [])
    (hd : tgetD 0 a.owed w.idx = 0) : a.holds w = false := by
  simp [Activation.holds, ho, hf, hp, hd]

theorem exec_nodeEosSend_sends {s : State} {n : NodeState} (hn : s.m.node? s.m.at_.core s.m.at_.node = some n)
    (he : n.eosDone.getLsbD (BitVec.ofNat 8 s.m.at_.colour : Colour).toNat = false) (hf : n.frozen = false)
    (hc : n.info.colours.getLsbD (BitVec.ofNat 8 s.m.at_.colour : Colour).toNat = true) (hi : s.issues n.cfg = true)
    (hcl : s.closed s.m.at_.core s.m.at_.node n (BitVec.ofNat 8 s.m.at_.colour) = true) :
    exec .nodeEosSend s = .next ((Act.seq [
      modNode s.m.at_.core s.m.at_.node fun n =>
        { n with eosDone := n.eosDone ||| (1#256 <<< (BitVec.ofNat 8 s.m.at_.colour : Colour).toNat) },
      Act.each n.info.outs fun o => portOut s.m.at_.core s.m.at_.node o.net o.port (BitVec.ofNat 8 s.m.at_.colour)
        (.eos o.net o.port (Config.freeSeq s.m.free) n.info.width),
      .mod fun m => { m with free := m.free + 1 },
      endDefault s.m.at_.core s.m.at_.node (BitVec.ofNat 8 s.m.at_.colour)]).run s) := by
  change execNodeEosSend s = _
  rw [execNodeEosSend, Act.run_look]
  simp only [hn, he, hf, hc, hi, hcl, Bool.not_true, Bool.or_self, Bool.false_eq_true, if_false]

/-! ## Creations (06 R121) -/

section
variable {t : State} {x : Creation} {node : Nat} {n : NodeState}
  (hn : ((t.m.core x.core).occupy x.colour).nodes.find? (fun (_, n) => n.info.handle.toNat == x.handle) = some (node, n))
include hn

theorem tryCreate_run_starts {f : Nat} (hf : ((t.m.core x.core).occupy x.colour).freeFrame = some f)
    (hg : ((t.m.core x.core).occupy x.colour).grants x.colour (frameLines n.info.frame n.info.width) = true) (wait : Act) :
    (tryCreate x wait).run t = (Act.seq [occupyCore x.core x.colour, startAct x.core
      { newAct x.colour f ((t.m.core x.core).occupy x.colour).nextUid n.info.width node n.cfg .explicit x.seq x.entry with
        reply := x.reply, slots := [(0, seedSlot x.colour x.l n.info.width)] }]).run t := by
  rw [tryCreate, Act.run_look]
  simp only [hn, hf, hg, if_true]
  rw [Act.seq_pair]

theorem tryCreate_run_waits (h : ((t.m.core x.core).occupy x.colour).freeFrame = none ∨
      ((t.m.core x.core).occupy x.colour).grants x.colour (frameLines n.info.frame n.info.width) = false) (wait : Act) :
    (tryCreate x wait).run t = wait.run t := by
  rw [tryCreate, Act.run_look]
  simp only [hn]
  cases hf : ((t.m.core x.core).occupy x.colour).freeFrame with
  | none => rfl
  | some f =>
    obtain hno | hno := h
    · cases hf.symm.trans hno
    · simp only [hno, Bool.false_eq_true, if_false]

end

theorem exec_spawnCreate_tries {s : State} {y : Msg} {x : Creation} (hy : s.m.msg? s.m.at_.k = some y) (hb : y.body = .spawn x)
    (ht : s.takes x.core = true)
    (hfirst : ∀ z ∈ (((takeMsg s.m.at_.k).run s).m.core x.core).creations, z.colour ≠ x.colour) :
    exec .spawnCreate s = .next ((tryCreate x (holdCreation x)).run ((takeMsg s.m.at_.k).run s)) := by
  have hany : (s.m.core x.core).creations.any (fun z => z.colour == x.colour) = false := by
    simpa only [List.any_eq_false, beq_iff_eq] using show ∀ z ∈ (s.m.core x.core).creations, z.colour ≠ x.colour from hfirst
  change execSpawnCreate s = _
  rw [execSpawnCreate, Act.run_look]
  simp only [hy, hb, ht, hany, Bool.not_true, Bool.false_eq_true, if_false, Act.run_andThen]

/-! ## Admission and eviction (09 R162) -/

section
variable {s : State} {c : Colour} {rest : List Colour} (hw : (s.m.core s.m.at_.core).waiting = c :: rest)
include hw

theorem exec_colourAdmit_admits (ha : (s.m.core s.m.at_.core).admits c = true) :
    exec .colourAdmit s = .next ((Act.seq [
      modCore s.m.at_.core fun k => { k with
        occupants := k.present ++ [c], waiting := rest, evicted := k.evicted.filter (· != c)
        acts := k.acts.map fun (f, a) => (f, if a.colour = c then { a with spilled := false } else a) },
      .when ((s.m.core s.m.at_.core).evicted.contains c) (spoilSub c (evictBytes (s.m.core s.m.at_.core) c))]).run s) := by
  change execColourAdmit s = _
  rw [execColourAdmit, Act.run_look]
  simp only [hw, ha, Bool.not_true, Bool.false_eq_true, if_false]

theorem exec_colourEvict_evicts {d : Colour} {more : List Colour} (ha : (s.m.core s.m.at_.core).admits c = false)
    (hp : (s.m.core s.m.at_.core).present = d :: more) :
    exec .colourEvict s = .next ((Act.seq [
      spoilAdd d (evictBytes (s.m.core s.m.at_.core) d),
      modCore s.m.at_.core fun k => { k with
        occupants := more, waiting := k.waiting ++ [d], evicted := d :: k.evicted
        acts := k.acts.map fun (f, a) => (f, if a.colour = d then { a with spilled := true } else a) }]).run s) := by
  change execColourEvict s = _
  rw [execColourEvict, Act.run_look]
  simp only [hw, hp, ha, Bool.false_eq_true, if_false]

end

/-! ## Answers (10 R177) -/

section
variable {s : State} {x : Msg} {v : Ans} (hx : s.m.msg? s.m.at_.k = some x) (hb : x.body = .ans v)
include hx hb

theorem exec_acknowledgement_task {w : Who} (hw : v.who = .task w) :
    exec .acknowledgement s = .next ((answerArrive w v.piece v.val).run ((takeMsg s.m.at_.k).run s)) := by
  change execAcknowledgement s = _
  rw [execAcknowledgement, Act.run_look]
  simp only [hx, hb, hw, Act.run_andThen]

theorem exec_acknowledgement_streamer {i : Nat} (hw : v.who = .streamer i) :
    exec .acknowledgement s = .next ((modStream i fun c => { c with waiting := false, got := some v.val }).run
      ((takeMsg s.m.at_.k).run s)) := by
  change execAcknowledgement s = _
  rw [execAcknowledgement, Act.run_look]
  simp only [hx, hb, hw, Act.run_andThen]

theorem exec_acknowledgement_island {i : Nat} (hw : v.who = .island i) :
    exec .acknowledgement s = .next ((modIsland i fun c => { c with
      waiting := none, got := c.got ++ c.waiting.toList.map fun b => (b, v.val) }).run ((takeMsg s.m.at_.k).run s)) := by
  change execAcknowledgement s = _
  rw [execAcknowledgement, Act.run_look]
  simp only [hx, hb, hw, Act.run_andThen]

end

/-- An acknowledgement of a committed store of a wave that is gone. -/
theorem answerArrive_run_ack {t : State} {w : Who} {a : Activation} (ha : t.m.actOf? w = some a) (hw : a.wave? w.wave = none)
    (hans : ∀ y ∈ a.answers, ¬ (y.1 = w.wave ∧ y.2.1 = w.slot)) (piece : Nat) :
    (answerArrive w piece .ack).run t = (Act.seq [modAct w.core w.frame fun b => { b with unacked := b.unacked - 1 },
      nextPiece w piece, flushAfter w.core w.frame]).run t := by
  have hany : a.answers.any (fun y => y.1 == w.wave && y.2.1 == w.slot) = false := by
    simpa only [List.any_eq_false, Bool.and_eq_true, beq_iff_eq] using hans
  rw [answerArrive, Act.run_look]
  simp only [Bool.false_and, Bool.false_eq_true, if_false]
  rw [taskAnswer, Act.run_look]
  simp only [ha, hw, hany, Option.isSome_none, Bool.false_eq_true, if_false, Act.run_andThen, Act.run_seq_cons, Act.run_seq_nil]

/-- Settles O54, event by event. -/
theorem waveEventsComplete : Obligations.WaveEventsComplete := by
  unfold Obligations.WaveEventsComplete
  refine ⟨?acts, ?eos, ?create, ?occupants, ?answers⟩
  case acts =>
    intro s a core fr ha
    refine ⟨fun b hn hm => ?allocate, fun w rest x hw hx hc => ⟨fun hf => ?commit, fun i c hf => ?breach⟩,
      fun w rest n hw hn hi hc hf hu hans => ⟨fun ho hfl hp hd => ?withdraw, fun hh x y g u hx hl => ?leftover⟩, fun x p hp hs => ?pieces⟩
    case allocate => exact exec_windowAllocate_allocates ha hn hm
    case commit => exact exec_blockCommit_effects ha hw hx hc hf
    case breach => exact exec_blockCommit_breach ha hw hx hc hf
    case withdraw =>
      rw [exec_waveWithdraw_withdraws ha hw hn hi hc hf hu hans (holds_false ho hfl hp hd), withdrawWave]
      simp only [decide_eq_true_eq]
      rfl
    case leftover => exact exec_waveWithdraw_leftover ha hw hn hi hc hf hu hans hh hx hl
    case pieces => exact exec_splitPieceIssue_advances ha hp hs
  case eos =>
    intro s n core node c hn he hf hc hi hcl
    exact exec_nodeEosSend_sends hn he hf hc hi hcl
  case create =>
    intro s y x hy hb ht t k hfirst node n hn
    have htry := exec_spawnCreate_tries hy hb ht hfirst
    exact ⟨fun f hf hg => htry.trans (congrArg _ (tryCreate_run_starts hn hf hg _)),
      fun h => htry.trans (congrArg _ (tryCreate_run_waits hn h _))⟩
  case occupants =>
    intro s c rest core k hw
    exact ⟨exec_colourAdmit_admits hw, fun d more ha hp => exec_colourEvict_evicts hw ha hp⟩
  case answers =>
    intro s x v hx hb t
    refine ⟨fun w hw => ⟨exec_acknowledgement_task hx hb hw, fun a ha hgone hans hv => ?_⟩,
      fun i hw => exec_acknowledgement_streamer hx hb hw, fun i hw => exec_acknowledgement_island hx hb hw⟩
    rw [exec_acknowledgement_task hx hb hw, hv, answerArrive_run_ack ha hgone hans]

end Sys2Proof.Machine
end

section
/-! SUPPORT. What an act leaves of the machine as it was: one predicate, its rules for the ways that acts are put together, and what a
write of memory and a record of a fault leave. -/

namespace Sys2Proof.Machine

/-- Whatever state it happens in, an act leaves a view of the machine as it was. -/
def Act.Keeps {α : Sort _} (π : Machine → α) (a : Act) : Prop := ∀ s : State, π (a.run s).m = π s.m

section
variable {α : Sort _} {π : Machine → α} {a b : Act}

theorem Act.Keeps.quiet : Act.quiet.Keeps π := fun _ => rfl

theorem Act.Keeps.andThen (ha : a.Keeps π) (hb : b.Keeps π) : (a.andThen b).Keeps π := fun s => by
  rw [Act.run_andThen, hb, ha]

theorem Act.Keeps.seq {as : List Act} (h : ∀ a ∈ as, a.Keeps π) : (Act.seq as).Keeps π := by
  induction as with
  | nil => exact .quiet
  | cons a as ih => exact (h a List.mem_cons_self).andThen (ih fun b hb => h b (List.mem_cons_of_mem a hb))

theorem Act.Keeps.nil : (Act.seq []).Keeps π := .quiet

theorem Act.Keeps.cons {as : List Act} (ha : a.Keeps π) (h : (Act.seq as).Keeps π) : (Act.seq (a :: as)).Keeps π := ha.andThen h

theorem Act.Keeps.each {β : Type} {xs : List β} {f : β → Act} (h : ∀ x, (f x).Keeps π) : (Act.each xs f).Keeps π :=
  .seq fun a ha => by
    obtain ⟨x, -, rfl⟩ := List.mem_map.mp ha
    exact h x

theorem Act.Keeps.when {c : Bool} (h : a.Keeps π) : (Act.when c a).Keeps π := by
  cases c
  · exact .quiet
  · exact h

theorem Act.Keeps.look {f : State → Act} (h : ∀ s, (f s).Keeps π) : (Act.look f).Keeps π := fun s => by
  rw [Act.run_look, h]

theorem Act.Keeps.ite {c : Prop} [Decidable c] (ha : a.Keeps π) (hb : b.Keeps π) : (if c then a else b).Keeps π := by
  split
  · exact ha
  · exact hb

theorem Act.Keeps.mod {f : Machine → Machine} (h : ∀ m, π (f m) = π m) : (Act.mod f).Keeps π := fun s => h s.m

theorem Act.Keeps.pkg {f : PkgState → PkgState} (h : ∀ m : Machine, π { m with pkg := f m.pkg } = π m) : (Act.pkg f).Keeps π := .mod h

/-- A view of a view is kept. -/
theorem Act.Keeps.through {β : Sort _} (φ : α → β) (h : a.Keeps π) : a.Keeps fun m => φ (π m) := fun s => congrArg φ (h s)

end

theorem writeBytes_keeps {α : Sort _} (π : Machine → α) (a : Nat) (bs : List Byte) : (writeBytes a bs).Keeps π := fun s => by
  induction bs generalizing a s with
  | nil => rfl
  | cons b bs ih => rw [writeBytes_run_cons, ih]; rfl

theorem setPres_keeps {α : Sort _} (π : Machine → α) (ws : List Nat) (p : Pres) : (setPres ws p).Keeps π := fun s => by
  induction ws generalizing s with
  | nil => rfl
  | cons w ws ih => rw [setPres_run_cons, ih]; rfl

/-! ## Writes of memory -/

/-- The machine but for what a write of memory changes: the messages, the parked readers, and the checks of words. -/
def Machine.exceptReaders (m : Machine) : Machine := { m with net := [], pkg := { m.pkg with damage := [], errc := [], pools := [] } }

theorem mend_keeps (w n : Nat) : (mend w n).Keeps Machine.exceptReaders := .pkg fun _ => rfl

theorem putBytes_keeps (a : Nat) (bs : List Byte) : (putBytes a bs).Keeps Machine.exceptReaders :=
  (mend_keeps _ _).andThen (writeBytes_keeps _ a bs)

theorem answer_keeps (u : Nat) (who : Party) (piece : Nat) (v : AnsVal) : (answer u who piece v).Keeps Machine.exceptReaders :=
  fun _ => rfl

theorem setPool_keeps (u : Nat) (es : List PoolEntry) : (setPool u es).Keeps Machine.exceptReaders := .pkg fun _ => rfl

theorem countErr_keeps (die : Nat) (unc : Bool) : (countErr die unc).Keeps Machine.exceptReaders := .pkg fun _ => rfl

theorem checked_keeps (a n : Nat) : (checked a n).Keeps Machine.exceptReaders := .look fun s => by
  have hcounts (unc : Bool) : (match unitDie (unitOf a) with
      | some die => countErr die unc
      | none => Act.quiet).Keeps Machine.exceptReaders := by
    split
    · exact countErr_keeps _ _
    · exact .quiet
  exact .ite .quiet (.cons (.each fun _ => hcounts false) (.cons (.when (hcounts true)) (.cons (.pkg fun _ => rfl) .nil)))

theorem headWord_keeps (u w : Nat) : (headWord u w).Keeps Machine.exceptReaders := .look fun s => by
  split
  · exact (writeBytes_keeps _ _ _).andThen (setPres_keeps _ _ _)
  · exact .quiet

theorem park_keeps (u w idx : Nat) (r : Req) : (park u w idx r).Keeps Machine.exceptReaders :=
  .look fun _ => (setPool_keeps _ _).andThen (headWord_keeps u w)

theorem reexamine_keeps (u : Nat) (e : PoolEntry) : (reexamine u e).Keeps Machine.exceptReaders := .look fun s => by
  dsimp only
  split
  · exact (setPool_keeps _ _).andThen (park_keeps _ _ _ _)
  · exact .cons (setPool_keeps _ _) (.cons (checked_keeps _ _) (.cons (answer_keeps _ _ _ _) .nil))

theorem answerReaders_keeps (ws : List Nat) : (answerReaders ws).Keeps Machine.exceptReaders :=
  .each fun _ => .look fun _ => .each fun e => reexamine_keeps _ e

theorem fill_keeps (a : Nat) (bs : List Byte) : (fill a bs).Keeps Machine.exceptReaders := .look fun s =>
  .cons (putBytes_keeps a bs) (.cons (setPres_keeps _ _ _) (.cons (answerReaders_keeps _) .nil))

/-! ## Counters and records -/

/-- The machine but for what a record of a fault changes besides: the counters, the numbers of records, the seal sessions. -/
def Machine.exceptRecords (m : Machine) : Machine :=
  { m with net := [], pkg := { m.pkg with damage := [], errc := [], pools := [], counters := [], faultNum := [], sessions := [] } }

theorem count_keeps (c : Colour) (role n : Nat) : (count c role n).Keeps Machine.exceptRecords := fun _ => rfl

theorem recordIn_keeps (area : Colour) (r : Record) : (recordIn area r).Keeps Machine.exceptRecords := .look fun s => by
  refine .andThen (.pkg fun _ => rfl) ?_
  split
  · exact (fill_keeps _ _).through Machine.exceptRecords
  · exact count_keeps _ _ _

theorem record_keeps (r : Record) : (record r).Keeps Machine.exceptRecords :=
  .look fun _ => (recordIn_keeps _ r).andThen (.when (.when (.pkg fun _ => rfl)))

end Sys2Proof.Machine
end

section
/-! PROOF of O55. Capsules, tiles, tags, barriers, matrix islands and streamers (07 R134, R135, 12 R198 to R205, R213, 13 R223 to
R225, 17 R293). -/

namespace Sys2Proof.Machine

/-! ## Capsules (07 R134, R135) -/

section
variable {s : State} {x : Msg} {core home : Nat} {c : Capsule} (hx : s.m.msg? s.m.at_.k = some x) (hb : x.body = .capsule core home c)
  (ht : s.takes core = true)
include hx hb ht

theorem exec_capsuleLand_lands (hk : s.keepsCapsules core = false) :
    exec .capsuleLand s = .next ((land core home c).run ((takeMsg s.m.at_.k).run s)) := by
  change execCapsuleLand s = _
  rw [execCapsuleLand, Act.run_look]
  simp only [hx, hb, ht, hk, Bool.not_true, Bool.false_eq_true, if_false, Act.run_andThen]

theorem exec_capsuleLand_stays (hk : s.keepsCapsules core = true) :
    exec .capsuleLand s = .next ((keepCapsule core ⟨c, home, false, []⟩).run ((takeMsg s.m.at_.k).run s)) := by
  change execCapsuleLand s = _
  rw [execCapsuleLand, Act.run_look]
  simp only [hx, hb, ht, hk, Bool.not_true, Bool.false_eq_true, if_false, if_true, Act.run_andThen]

end

section
variable {s : State} {r : BufReq} (hr : nextBufReq (s.m.core s.m.at_.core) = some r) (hl : (s.m.core s.m.at_.core).buffers.length < 2)
include hr hl

section
variable {f uid wave slot : Nat} {c : Colour} {x : Ctx} {p : Pend} {o : Nat} {g : FormK}
  (hf : r = .fire f uid wave slot c)
  (hp : pendAt s ⟨s.m.at_.core, f, uid, wave, slot, c,
    ((s.m.act? s.m.at_.core f).map fun a => (a.who s.m.at_.core f wave slot).run).getD 0⟩ = some (x, p))
  (hi : x.ins = some (o, .k g))
include hf hp hi

/-- The operator that a buffer goes to: it fires, unless a capsule has come to be held. -/
theorem exec_capsuleBufferGrant_fires : exec .capsuleBufferGrant s = .next
    ((if x.a.held.isSome || x.w.buffer then x.fault Code.capHeld
      else capnTake ⟨s.m.at_.core, f, uid, wave, slot, c,
        ((s.m.act? s.m.at_.core f).map fun a => (a.who s.m.at_.core f wave slot).run).getD 0⟩ p.tok
          (capnAct g p.tok (p.bad.getD p.tok))).run
      ((dropPend ⟨s.m.at_.core, f, uid, wave, slot, c,
          ((s.m.act? s.m.at_.core f).map fun a => (a.who s.m.at_.core f wave slot).run).getD 0⟩).run
        ((modCore s.m.at_.core fun k => { k with bufReqs := k.bufReqs.erase r }).run s))) := by
  subst hf
  change execCapsuleBufferGrant s = _
  rw [execCapsuleBufferGrant, Act.run_look]
  simp only [hr, if_neg (Nat.not_le.mpr hl), BufReq.isLand, Bool.false_and, Bool.false_eq_true, if_false, hp, hi, Act.run_andThen]

end

theorem exec_capsuleBufferGrant_lands {h : Held} {node : Nat} {n : NodeState} (hf : r = .land h)
    (hfree : (s.m.core s.m.at_.core).freeFrame.isSome = true)
    (hn : (s.m.core s.m.at_.core).nodes.find? (fun (_, n) => n.info.handle.toNat == entryHandle (h.cap.entry h.cap.cur)) = some (node, n)) :
    exec .capsuleBufferGrant s = .next ((startCapsule s.m.at_.core node n h).run
      ((modCore s.m.at_.core fun k => { k with bufReqs := k.bufReqs.erase r }).run s)) := by
  subst hf
  have hgo : ((s.m.core s.m.at_.core).freeFrame.isNone) = false := by rw [Option.isNone_eq_false_iff]; exact hfree
  change execCapsuleBufferGrant s = _
  rw [execCapsuleBufferGrant, Act.run_look]
  simp only [hr, if_neg (Nat.not_le.mpr hl), BufReq.isLand, hgo, Bool.and_false, Bool.false_eq_true, if_false, hn, Act.run_andThen]

end

/-! ## Tile events (12 R197 to R199) -/

theorem exec_tilePortEvent_arrives {s : State} {x : Msg} {e : TileEv} (hx : s.m.msg? s.m.at_.k = some x) (hb : x.body = .tile e) :
    exec .tilePortEvent s = .next ((tileArrive x.dst e).run ((takeMsg s.m.at_.k).run s)) := by
  change execTilePortEvent s = _
  rw [execTilePortEvent, Act.run_look]
  simp only [hx, hb, Act.run_andThen]

section
variable {t : State} {e : TileEv} {u : Nat}

/-- A fill or a drain is the tile's own colour's, and any other event is foreign to none. -/
def TileEv.own (e : TileEv) (t : State) : Prop :=
  e.ofStreamer = none ∨ e.who.colour ≠ 0 ∧ tileCol ((t.m.cluster e.cluster).tile e.tile) = e.who.colour

theorem tileForeign_iff : t.tileForeign e = true ↔ ¬ e.own t := by
  simp [State.tileForeign, TileEv.own, Option.isSome_iff_ne_none]
  grind

theorem tileArrive_run_performed (ho : e.own t)
    (hf : (t.m.cluster e.cluster).held.any (fun y => y.1 == u && y.2.issuer == (PortHeld.tile e).issuer) = false ∨
      (PortHeld.tile e).issuer = none)
    (hr : t.refusedBehind u (PortHeld.tile e).issuer = false)
    (ha : e.op.applies (tileSt ((t.m.cluster e.cluster).tile e.tile)) = true) :
    (tileArrive u e).run t = (releasePorts e.cluster 4096).run ((tilePerform e).run t) := by
  have hown : t.tileForeign e = false := Bool.eq_false_iff.mpr fun h => tileForeign_iff.mp h ho
  have hgo : mayGo (t.m.cluster e.cluster) (t.m.cluster e.cluster).held u (.tile e) = true := by
    rw [mayGo]
    simp only [ha, Bool.and_true]
    cases hi : (PortHeld.tile e).issuer with
    | none => rfl
    | some i =>
      rw [hi] at hf
      simpa using hf
  rw [tileArrive, Act.run_look]
  simp only [hown, hgo, hr, Bool.not_false, Bool.and_self, Bool.false_eq_true, if_false, if_true, Act.run_andThen]

theorem tileArrive_run_held (ho : e.own t) (ha : e.op.applies (tileSt ((t.m.cluster e.cluster).tile e.tile)) = false) :
    (tileArrive u e).run t = (if 64 ≤ (t.m.cluster e.cluster).holding u ∨ t.refusedBehind u (PortHeld.tile e).issuer = true then
      refuse u (.tile e) else portPut e.cluster u (.tile e)).run t := by
  have hown : t.tileForeign e = false := Bool.eq_false_iff.mpr fun h => tileForeign_iff.mp h ho
  have hgo : mayGo (t.m.cluster e.cluster) (t.m.cluster e.cluster).held u (.tile e) = false := by
    rw [mayGo]
    simp only [ha, Bool.and_false]
  rw [tileArrive, Act.run_look]
  simp only [hown, hgo, Bool.false_and, Bool.false_eq_true, if_false]
  rw [portHold, Act.run_look]
  simp only [Bool.or_eq_true, decide_eq_true_eq]

theorem tileArrive_run_foreign (ho : ¬ e.own t) {y : StreamCmd} (hy : e.ofStreamer.bind t.stream? = some y) :
    (tileArrive u e).run t =
      (streamFault y Code.tileColour 0 e.tile).run ((modStream y.id fun y => { y with asked := false }).run t) := by
  rw [tileArrive, Act.run_look]
  simp only [tileForeign_iff.mpr ho, if_true]
  rw [tileRefused, Act.run_look]
  simp only [hy, Act.run_andThen]

end

/-! ## The end of a fill or a drain (12 R198) -/

section
variable {s : State} {c : StreamCmd} (hc : s.streamOn s.m.at_.cluster s.m.at_.tile = some c) (hf : c.frozen = false)
include hc hf

theorem exec_tileFillComplete_ready (hst : tileSt ((s.m.cluster s.m.at_.cluster).tile s.m.at_.tile) = 1) (hw : c.written = true) :
    exec .tileFillComplete s = .next ((Act.seq [modStream c.id fun y => { y with tileDone := true },
      putTile s.m.at_.cluster s.m.at_.tile (tileTo ((s.m.cluster s.m.at_.cluster).tile s.m.at_.tile) 2),
      releasePorts s.m.at_.cluster 4096]).run s) := by
  change execTileFillComplete s = _
  rw [execTileFillComplete, Act.run_look]
  simp only [hc, hst, hw, hf, decide_true, Bool.not_false, Bool.and_self, if_true]

theorem exec_tileDrainComplete_moves {sp : Space} {a : Nat} {n : Nat} {keep : Bool}
    (hst : tileSt ((s.m.cluster s.m.at_.cluster).tile s.m.at_.tile) = 3) (hx : c.extent ≠ 0) (hreads : 128 * c.extent ≤ c.reads)
    (hk : c.cmd.kind = .tdrain sp a n keep) :
    exec .tileDrainComplete s = .next ((Act.seq [modStream c.id fun y => { y with tileDone := true },
      putTile s.m.at_.cluster s.m.at_.tile (tileTo ((s.m.cluster s.m.at_.cluster).tile s.m.at_.tile) (if keep then 2 else 0)),
      releasePorts s.m.at_.cluster 4096]).run s) := by
  have hdone : (decide (tileSt ((s.m.cluster s.m.at_.cluster).tile s.m.at_.tile) = 3) && decide (c.extent ≠ 0) &&
      decide (128 * c.extent ≤ c.reads) && !c.frozen) = true := by
    simp [hst, hx, hreads, hf]
  change execTileDrainComplete s = _
  rw [execTileDrainComplete, Act.run_look]
  simp only [hc, hk, hdone, if_true]

end

/-! ## The tag unit (12 R200, 13 R219) -/

theorem exec_tagUnitEvent_performs {s : State} {x : Msg} {e : TagEv} (hx : s.m.msg? s.m.at_.k = some x) (hb : x.body = .tagEv e) :
    exec .tagUnitEvent s = .next ((tagPerform e).run ((takeMsg s.m.at_.k).run s)) := by
  change execTagUnitEvent s = _
  rw [execTagUnitEvent, Act.run_look]
  simp only [hx, hb, Act.run_andThen]

/-- A valid entry of a line in a way. -/
def ClusterState.holdsLine (k : ClusterState) (c : Colour) (a w : Nat) : Prop :=
  tagV (k.way (tagSet c a) w) = true ∧ tagCol (k.way (tagSet c a) w) = c ∧ tagGln (k.way (tagSet c a) w) = glnOf a

theorem tagLookup_hit {k : ClusterState} {c : Colour} {a w : Nat} (hw : w < 4) (hit : k.holdsLine c a w)
    (hfirst : ∀ j < w, ¬ k.holdsLine c a j) (hhurt : ∀ y ∈ k.tagHurt, y.1 / 4 ≠ tagSet c a) :
    tagLookup k c a = BitVec.ofNat 32 (w * 2 ^ 8 + tagTidx (k.way (tagSet c a) w)) := by
  obtain ⟨hv, hcol, hgln⟩ := hit
  have hsound : ∀ j < 4, (tagSet c a * 4 + j, true) ∉ k.tagHurt := fun j hj hmem => hhurt _ hmem (by dsimp only; omega)
  have hfind : ((upFrom 4 0).find? fun w => tagV (k.way (tagSet c a) w) && tagCol (k.way (tagSet c a) w) == c &&
      tagGln (k.way (tagSet c a) w) == glnOf a && !k.tagHurt.contains (tagSet c a * 4 + w, true)) = some w := by
    rw [upFrom_zero, List.find?_range_eq_some]
    refine ⟨by simp [hv, hcol, hgln, hsound w hw], List.mem_range.mpr hw, fun j hj => ?_⟩
    have := hfirst j hj
    simp only [ClusterState.holdsLine] at this
    rw [Bool.not_eq_true', ← Bool.not_eq_true]
    simp only [Bool.and_eq_true, beq_iff_eq]
    exact fun ⟨⟨⟨hv, hcol⟩, hgln⟩, _⟩ => this ⟨hv, hcol, hgln⟩
  rw [tagLookup]
  simp only [hfind]

theorem tagPerform_run_look {t : State} {e : TagEv} {a : Nat} (he : e.op = .look a)
    (hhurt : ∀ y ∈ (t.m.cluster e.cluster).tagHurt, y.1 / 4 ≠ tagSet e.who.colour a) :
    (tagPerform e).run t = (answer (tagUnit e.cluster) (.task e.who) 0
      (.lanes [tagLookup (t.m.cluster e.cluster) e.who.colour a])).run t := by
  have hmet : (t.m.cluster e.cluster).tagHurt.filter (fun (y, _) => y / 4 == tagSet e.who.colour a) = [] := by
    rw [List.filter_eq_nil_iff]
    exact fun y hy => by simpa using hhurt y hy
  have hchecked : (tagChecked e.cluster (tagSet e.who.colour a)).run t = t := by
    rw [tagChecked, Act.run_look]
    simp only [hmet]
    rfl
  rw [tagPerform, Act.run_look]
  simp only [he, TagOp.where_, Act.run_andThen, hchecked]

/-! ## Barrier events (12 R213, 22 R376) -/

section
variable {s : State} {x : Msg} {e : BarEv} (hx : s.m.msg? s.m.at_.k = some x) (hb : x.body = .bar e)
include hx hb

theorem exec_barrierEvent_home (hs : e.scope ≠ 4) :
    exec .barrierEvent s = .next ((barPerform (barKey e.scope e.who.core e.idx) e).run ((takeMsg s.m.at_.k).run s)) := by
  change execBarrierEvent s = _
  rw [execBarrierEvent, Act.run_look]
  simp only [hx, hb, if_pos hs, Act.run_andThen]

theorem exec_barrierEvent_fabric (hs : e.scope = 4) :
    exec .barrierEvent s = .next ((fbOwn e).run ((takeMsg s.m.at_.k).run s)) := by
  change execBarrierEvent s = _
  rw [execBarrierEvent, Act.run_look]
  simp only [hx, hb, if_neg (not_not_intro hs), Act.run_andThen]

end

theorem putBar_barrier (key : Nat) (b : BarState) (s : State) : ((putBar key b).run s).barrier key = b := by
  rw [State.barrier, putBar, Act.run_pkg_m_pkg, tgetD_tput_same]

section
variable {t : State} {key : Nat} {e : BarEv} (hop : e.op = .arrive) (hcol : (t.barrier key).colour = e.who.colour)
  (hu : (t.barrier key).units.contains e.who.unit = true) (hst : (t.barrier key).st = 1)
  (hm : (t.barrier key).marks.contains e.who.unit = false)
include hop hcol hu hst hm

/-- The first arrival of an enrolled unit in a generation is counted, and the entry tested. -/
theorem barPerform_run_arrives : (barPerform key e).run t = (barTest key 64).run ((putBar key { (t.barrier key).arrived e.who.unit with
    arr := (t.barrier key).arr + 1, pnd := (t.barrier key).pnd - 1 }).run t) := by
  rw [barPerform, Act.run_look]
  simp only [hop, if_neg (not_not_intro hcol), hu, hm, hst, Bool.not_true, Bool.false_eq_true, if_false]
  rw [if_neg (by decide), if_neg (by decide), Act.run_andThen]
  rfl

end

/-- An entry that waits for arrivals, and may still have them all, stays as it is. -/
theorem barTest_run_waits {s : State} {key n : Nat} {b : BarState} (hb : s.barrier key = b) (hst : b.st = 1) (ha : b.arr ≠ b.exp)
    (hp : b.exp ≤ b.arr + b.pnd) : (barTest key n).run s = s := by
  cases n with
  | zero => rfl
  | succ n =>
    rw [barTest, Act.run_look]
    simp only [hb, hst, ne_eq, not_true_eq_false, if_false, if_neg ha, if_neg (Nat.not_lt.mpr hp), Act.run_quiet]

/-- A generation that is complete, with nothing waiting and the next not complete at once. -/
theorem barTest_run_completes {s : State} {key n : Nat} {b : BarState} (hb : s.barrier key = b) (hst : b.st = 1) (ha : b.arr = b.exp)
    (hw : b.waiters = []) (hg : b.again = []) (hexp : 0 < b.exp) (henr : b.exp ≤ b.enr) :
    ((barTest key (n + 1)).run s).barrier key = { b with gen := b.gen + 1, arr := 0, pnd := b.enr, marks := [] } := by
  rw [barTest, Act.run_look]
  simp only [hb, hst, ne_eq, not_true_eq_false, if_false, if_pos ha, hw, hg, List.partition_eq_filter_filter, List.filter_nil, firstOfEach, Act.run_seq_cons,
    Act.run_seq_nil, Act.run_each_nil]
  rw [barTest_run_waits (putBar_barrier _ _ _) rfl (by simpa using Nat.ne_of_lt hexp) (by simpa using henr), putBar_barrier]

/-! ## Streamers (17 R292, R293) -/

section
variable {s : State} {y : StreamCmd} (hy : s.stream? s.m.at_.id = some y)
include hy

theorem exec_streamerExecute_steps {x : StreamCmd} (hx : s.streamPick (islandOf y.cmd.who.core) = some x) (ht : x.tile? = none) :
    exec .streamerExecute s = .next ((streamStep x (decide (s.m.at_.j ≠ 0))).run
      ((Act.pkg fun p => { p with rrStream := tput p.rrStream (islandOf y.cmd.who.core) ((x.vdev + 1) % 33) }).run s)) := by
  change execStreamerExecute s = _
  rw [execStreamerExecute, Act.run_look]
  simp only [hy, hx, ht, Act.run_andThen]

theorem exec_streamerComplete_completes (hw : y.written = true) (hf : y.frozen = false) (hh : s.streamHead y = true)
    (ht : y.tile? = none ∨ y.tileDone = true) (hhalt : s.halted y.cmd.who.core = false) :
    exec .streamerComplete s = .next ((Act.seq [
      .pkg fun p => { p with streams := p.streams.filter fun c => c.id ≠ y.id }, cmdDone y.cmd classS,
      cmdReply (Party.streamer y.id).unit y.cmd [BitVec.ofNat 32 y.count, BitVec.ofNat 32 y.badWords]]).run s) := by
  have hmoved : (y.tile?.isNone || y.tileDone) = true := by
    obtain h | h := ht <;> simp [h]
  change execStreamerComplete s = _
  rw [execStreamerComplete, Act.run_look]
  simp only [hy, hw, hf, hh, hmoved, hhalt, Bool.not_false, Bool.and_self, if_true]

end

/-! ## Matrix islands: the machine's view of one (12 R202 to R205) -/

theorem modIsland_island {s : State} {id : Nat} {i : IslandState} (hi : s.island? id = some i) (f : IslandState → IslandState) :
    ((modIsland id f).run s).island? id = some (f i) := by
  have hi' : tget? s.m.pkg.islands id = some i := hi
  rw [modIsland, State.island?, Act.run_pkg_m_pkg]
  simp only [hi', tget_tput_same]

/-- An act that leaves the table of islands as it is leaves each island. -/
theorem Act.Keeps.island {a : Act} (h : a.Keeps fun m => m.pkg.islands) (s : State) (id : Nat) :
    (a.run s).island? id = s.island? id := by
  exact congrArg (tget? · id) (h s)

theorem sendEdge_keeps (src : Nat) (cls : Cls) (o : Option Outlet) (d : Dest) (t : Token) (ahead : Option Nat) :
    (sendEdge src cls o d t ahead).Keeps fun m => m.pkg := by
  have hput (d : Dest) : (sendEdge.put src cls o t ahead d).Keeps fun m => m.pkg := fun _ => rfl
  cases d with
  | group cl grp node chan => 
    change (Act.look fun s => Act.each (s.groupCores cl grp) fun core => sendEdge.put src cls o t ahead (.chan core node chan)).Keeps _
    exact .look fun s => .each fun core => hput (.chan core node chan)
  | _ => exact hput _

theorem sendEdges_keeps (src : Nat) (cls : Cls) (o : Option Outlet) (ds : List Dest) (t : Token) (ahead : Option Nat) :
    (sendEdges src cls o ds t ahead).Keeps fun m => m.pkg.islands :=
  .andThen (.each fun d => (sendEdge_keeps src cls o d t ahead).through PkgState.islands) (.when (.pkg fun _ => rfl))

theorem countDiscard_keeps (c : Colour) : (countDiscard c).Keeps fun m => m.pkg.islands :=
  (count_keeps c 0 1).through fun m => m.pkg.islands

theorem record_keeps_islands (r : Record) : (record r).Keeps fun m => m.pkg.islands :=
  (record_keeps r).through fun m => m.pkg.islands

/-! ### Rows leave the inbox -/

theorem checkGroup_inbox (i : IslandState) (g : Nat) : (checkGroup i g).inbox = i.inbox := by
  rw [checkGroup]
  dsimp only
  split <;> rfl

theorem foldl_inbox {α : Type} {f : IslandState → α → IslandState} (h : ∀ i x, (f i x).inbox = i.inbox) (xs : List α) (i : IslandState) :
    (xs.foldl f i).inbox = i.inbox := by
  induction xs generalizing i with
  | nil => rfl
  | cons x xs ih => rw [List.foldl_cons, ih, h]

theorem roundRow_inbox (i : IslandState) (r : SumRow) : (roundRow i r).inbox = i.inbox := rfl

theorem settleGroup_inbox (i : IslandState) : (settleGroup i).inbox = i.inbox := by
  rw [settleGroup]
  dsimp only
  rw [foldl_inbox roundRow_inbox, foldl_inbox checkGroup_inbox]

theorem markRow_inbox (i : IslandState) (r : Nat) (c : BitVec 8) : (markRow i r c).inbox = i.inbox := by
  rw [markRow]
  split <;> rfl

theorem enterRow_inbox (i : IslandState) (r : Nat) (beats : List (Option Token × Token)) : (enterRow i r beats).inbox = i.inbox := by
  rw [enterRow]
  dsimp only
  split
  · exact markRow_inbox _ _ _
  · split
    · exact markRow_inbox _ _ _
    · split
      · exact markRow_inbox _ _ _
      · split
        · exact markRow_inbox _ _ _
        · rfl

theorem addRow_inbox (i : IslandState) (beats : List (Option Token × Token)) : (addRow i beats).inbox = i.inbox := by
  have hrow : (if i.m = 0 then i else enterRow i (i.rowCount % i.m) beats).inbox = i.inbox := by
    split
    · rfl
    · exact enterRow_inbox _ _ _
  rw [addRow]
  dsimp only
  split
  · rw [settleGroup_inbox]
    exact hrow
  · exact hrow

theorem sumRows_inbox (n : Nat) (i : IslandState) : (sumRows n i).inbox = i.inbox := by
  induction n generalizing i with
  | zero => rfl
  | succ n ih =>
    rw [sumRows]
    split
    · rw [ih, addRow_inbox]
    · rfl

/-! ### Taking a token -/

/-- An island with nothing in its inbox takes nothing. -/
theorem islandDrain_run_empty {s : State} {id : Nat} {i : IslandState} (hi : s.island? id = some i) (he : i.inbox = []) (n : Nat) :
    (islandDrain id n).run s = s := by
  cases n with
  | zero => rfl
  | succ n =>
    have hnone : i.nextBeat = none := by
      rw [IslandState.nextBeat, he]
      split
      · rfl
      · split <;> rfl
    rw [islandDrain, Act.run_look]
    simp only [hi, Option.bind_some, hnone, Act.run_quiet]

/-- An island stands, and its inbox is empty. -/
def State.Drained (s : State) (id : Nat) : Prop := ∃ i, s.island? id = some i ∧ i.inbox = []

/-- An act leaves an island that stands with an empty inbox so. -/
def Act.KeepsDrained (id : Nat) (a : Act) : Prop := ∀ s : State, s.Drained id → (a.run s).Drained id

section
variable {id : Nat} {a b : Act}

theorem Act.KeepsDrained.quiet : Act.quiet.KeepsDrained id := fun _ h => h

theorem Act.KeepsDrained.andThen (ha : a.KeepsDrained id) (hb : b.KeepsDrained id) : (a.andThen b).KeepsDrained id := fun s h => by
  rw [Act.run_andThen]
  exact hb _ (ha s h)

theorem Act.KeepsDrained.nil : (Act.seq []).KeepsDrained id := .quiet

theorem Act.KeepsDrained.cons {as : List Act} (ha : a.KeepsDrained id) (h : (Act.seq as).KeepsDrained id) :
    (Act.seq (a :: as)).KeepsDrained id := ha.andThen h

theorem Act.KeepsDrained.look {f : State → Act} (h : ∀ s : State, s.Drained id → (f s).KeepsDrained id) : (Act.look f).KeepsDrained id :=
  fun s hs => h s hs s hs

theorem Act.KeepsDrained.when {c : Bool} (h : a.KeepsDrained id) : (Act.when c a).KeepsDrained id := by
  cases c
  · exact .quiet
  · exact h

theorem Act.KeepsDrained.drained (h : a.Keeps fun m => m.pkg.islands) : a.KeepsDrained id := fun s ⟨i, hi, he⟩ =>
  ⟨i, (h.island s id).trans hi, he⟩

theorem Act.KeepsDrained.modIsland {f : IslandState → IslandState} (hf : ∀ i, i.inbox = [] → (f i).inbox = []) :
    (modIsland id f).KeepsDrained id := fun _ ⟨i, hi, he⟩ => ⟨f i, modIsland_island hi f, hf i he⟩

theorem islandEos_drained : (islandEos id).KeepsDrained id := .look fun s _ => by
  split
  · exact .quiet
  · split
    · exact .quiet
    · split
      · exact .quiet
      · exact .cons (.drained (sendEdges_keeps _ _ _ _ _ _)) (.cons (.drained (.mod fun _ => rfl)) (.cons (.modIsland fun _ he => he) .nil))

theorem islandEosIn_drained (chan : Nat) (c : Colour) : (islandEosIn id chan c).KeepsDrained id := .look fun _ _ =>
  .cons (.drained (.when (countDiscard_keeps c))) (.cons (.modIsland fun _ he => he) (.cons islandEos_drained .nil))

theorem islandWedge_drained (chan : Nat) (t : Token) : (islandWedge id chan t).KeepsDrained id := by
  refine .andThen (.modIsland fun _ he => he) (.look fun s _ => ?_)
  split
  · exact .quiet
  · exact .cons (.drained (.when (sendEdges_keeps _ _ _ _ _ _))) (.cons (.when (.modIsland fun _ he => he)) .nil)

theorem islandBeat_drained (chan : Nat) (t : Token) : (islandBeat id chan t).KeepsDrained id := .look fun s ⟨i, hi, he⟩ => by
  simp only [hi]
  split
  · exact .quiet
  · split
    · exact .modIsland fun _ he => he
    · split
      · exact .cons (.modIsland fun _ _ => he)
          (.cons (.drained (countDiscard_keeps _)) (.cons (.drained (record_keeps_islands _)) .nil))
      · exact .modIsland fun _ _ => (sumRows_inbox _ _).trans he

theorem islandTake_drained (chan : Nat) (t : Token) : (islandTake id chan t).KeepsDrained id := by
  rw [islandTake]
  split
  · exact islandEosIn_drained chan t.colour
  · split
    · exact islandWedge_drained chan t
    · exact islandBeat_drained chan t

end

section
variable {s : State} {x : Msg} {id chan : Nat} {u : Token} {ahead : Option Nat} {i : IslandState}
  (hx : s.m.msg? s.m.at_.k = some x) (hb : x.body = .tok (.island id chan) u ahead) (hi : s.island? id = some i) (hf : i.frozen = false)
  (hiss : s.issues i.cfg = true) (ho : s.m.inOrder s.m.at_.k x = true) (hh : s.halted i.node.1 = false) (hw : i.waitingOn chan < 4)
include hx hb hi hf hiss ho hh hw

theorem exec_islandRow_joins : exec .islandRow s = .next ((islandDrain id 64).run
    ((modIsland id fun i => { i with inbox := i.inbox ++ [.beat chan u] }).run ((takeMsg s.m.at_.k).run s))) := by
  have hgo : (i.frozen || !s.issues i.cfg || !s.m.inOrder s.m.at_.k x || s.halted i.node.1 || decide (4 ≤ i.waitingOn chan)) = false := by
    simp [hf, hiss, ho, hh, hw]
  change execIslandRow s = _
  rw [execIslandRow, Act.run_look]
  simp only [hx, hb, hi, hgo, Bool.false_eq_true, if_false, Act.run_seq_cons, Act.run_seq_nil]

/-- An island that nothing holds takes the token at once, and nothing more. -/
theorem exec_islandRow_takes (he : i.inbox = []) (hs : i.stuck = false) (hwait : i.waiting = none) :
    ∃ t : State, t.island? id = some i ∧ exec .islandRow s = .next ((islandTake id chan u).run t) := by
  have hi₁ := modIsland_island (s := (takeMsg s.m.at_.k).run s) hi (fun i => { i with inbox := i.inbox ++ [.beat chan u] })
  have hnext : ({ i with inbox := i.inbox ++ [.beat chan u] } : IslandState).nextBeat = some (chan, u, []) := by
    rw [IslandState.nextBeat]
    simp only [hf, hs, hwait, he, Bool.false_eq_true, if_false, Option.isSome_none, Bool.or_self, List.nil_append]
  have hi₂ := modIsland_island hi₁ (fun i => { i with inbox := [] })
  have hsame : ({ i with inbox := [] } : IslandState) = i := by rw [← he]
  rw [show ({ ({ i with inbox := i.inbox ++ [.beat chan u] } : IslandState) with inbox := [] } : IslandState) = i from hsame] at hi₂
  refine ⟨_, hi₂, ?_⟩
  obtain ⟨j, hj, hje⟩ := islandTake_drained chan u _ ⟨i, hi₂, he⟩
  rw [exec_islandRow_joins hx hb hi hf hiss ho hh hw, islandDrain, Act.run_look]
  simp only [hi₁, Option.bind_some, hnext, Act.run_seq_cons, Act.run_seq_nil]
  rw [islandDrain_run_empty hj hje]

end

section
variable {t : State} {id chan : Nat} {u : Token} {i : IslandState} (hi : t.island? id = some i)
include hi

/-- A beat of the owner joins its row, and every complete row is summed. -/
theorem islandTake_island_beat (he : u.kind ≠ .eos) (hw : u.kind ≠ .wedge) (hs : u.kind ≠ .stop)
    (hf : isBlockFmt i.fmt.toNat = false) (ho : i.owner = some u.colour) (hh : i.held = []) :
    ((islandTake id chan u).run t).island? id = some (sumRows 4 { i with beats := i.beats ++ [(chan, none, u)] }) := by
  have hheld : tdel i.held (chan * 256 + u.colour.toNat) = i.held := by rw [hh]; rfl
  have hnone : tget? i.held (chan * 256 + u.colour.toNat) = none := by rw [hh]; rfl
  rw [islandTake, if_neg he, if_neg hw, islandBeat, Act.run_look]
  simp only [hi, hs, if_false, hf, Bool.false_and, Bool.false_eq_true, ho, ne_eq, not_true_eq_false, hheld, hnone]
  rw [modIsland_island hi]

omit hi in
theorem islandEos_island {s : State} {j : IslandState} (hj : s.island? id = some j) :
    ∃ n, ((islandEos id).run s).island? id = some n ∧ n.eos = j.eos := by
  rw [islandEos, Act.run_look]
  simp only [hj]
  split
  · exact ⟨j, hj, rfl⟩
  · next c hc =>
    split
    · exact ⟨j, hj, rfl⟩
    · simp only [Act.run_seq_cons, Act.run_seq_nil]
      have hsent := ((sendEdges_keeps (Party.island id).unit .st none j.out
        (mkTok c .eos (Config.freeSeq s.m.free) (List.replicate 32 0)) none).island s id).trans hj
      exact ⟨_, modIsland_island ((Act.Keeps.island (.mod fun _ => rfl) _ id).trans hsent) _, rfl⟩

/-- EOS is noted on its channel. -/
theorem islandTake_island_eos (he : u.kind = .eos) :
    ∃ j, ((islandTake id chan u).run t).island? id = some j ∧ (chan, u.colour) ∈ j.eos := by
  rw [islandTake, if_pos he, islandEosIn, Act.run_look]
  simp only [Act.run_seq_cons, Act.run_seq_nil]
  have hdisc := (Act.Keeps.island (.when (c := ((t.island? id).bind fun i => tget? i.held (chan * 256 + u.colour.toNat)).isSome)
    (countDiscard_keeps u.colour)) t id).trans hi
  obtain ⟨j, hj, heos⟩ := islandEos_island (modIsland_island hdisc fun i =>
    { i with eos := (chan, u.colour) :: i.eos, held := tdel i.held (chan * 256 + u.colour.toNat) })
  exact ⟨j, hj, by rw [heos]; exact List.mem_cons_self⟩

end

/-! ### Commands (13 R223 to R225) -/

section
variable {s : State} {i : IslandState} {c : Cmd} {rest : List IslandIn} (hi : s.island? s.m.at_.id = some i) (hf : i.frozen = false)
  (hs : i.stuck = false) (hw : i.waiting = none) (hiss : s.issues i.cfg = true) (hh : s.halted i.node.1 = false)
  (hc : i.inbox = .cmd c :: rest)
include hi hf hs hiss hh hc

section
variable (hnone : ∀ k y j d, s.m.msg? k = some y → y.body = .islandCmd j d → j ≠ s.m.at_.id)
include hw hnone

omit hi hf hs hw hiss hh hc in
/-- Where no command is on its way, the oldest one is performed. -/
theorem exec_islandCommand_performs : exec .islandCommand s = .next ((islandPerform s.m.at_.id).run s) := by
  have hfind : ((upFrom s.m.net.length 0).findSome? fun k =>
      match (s.m.msg? k).map Msg.body with
      | some (.islandCmd j c) => if j = s.m.at_.id then some (k, c) else none
      | _ => none) = none := by
    rw [List.findSome?_eq_none_iff]
    intro k _
    split
    next j d hb =>
      obtain ⟨y, hy, hbody⟩ := Option.map_eq_some_iff.mp hb
      exact if_neg (hnone k y j d hy hbody)
    next => rfl
  change execIslandCommand s = _
  rw [execIslandCommand, Act.run_look]
  simp only [Act.run_andThen]
  split
  next k d hk => exact absurd (hk.symm.trans hfind) (by simp)
  next => rfl

theorem exec_islandCommand_mxz (hk : c.kind = .mxz) : exec .islandCommand s = .next ((Act.seq [
    modIsland s.m.at_.id fun i => { i.zeroed with owner := some c.who.colour }, islandDone s.m.at_.id c [0],
    islandEos s.m.at_.id]).run s) := by
  have hgo : (i.frozen || i.stuck || i.waiting.isSome || !s.issues i.cfg || s.halted i.node.1) = false := by simp [hf, hs, hw, hiss, hh]
  rw [exec_islandCommand_performs hnone, islandPerform, Act.run_look]
  simp only [hi, hgo, Bool.false_eq_true, if_false, IslandState.oldest, hc, hk]

theorem exec_islandCommand_mxck (hk : c.kind = .mxck false) (ho : i.owner = some c.who.colour) :
    exec .islandCommand s = .next ((islandDone s.m.at_.id c
      [BitVec.ofNat 32 (min i.corrected (2 ^ 32 - 1)), BitVec.ofNat 32 (min i.missed (2 ^ 32 - 1)),
       BitVec.ofNat 32 i.poisonGroups, BitVec.ofNat 32 i.rowCount]).run s) := by
  have hgo : (i.frozen || i.stuck || i.waiting.isSome || !s.issues i.cfg || s.halted i.node.1) = false := by simp [hf, hs, hw, hiss, hh]
  rw [exec_islandCommand_performs hnone, islandPerform, Act.run_look]
  simp only [hi, hgo, Bool.false_eq_true, if_false, IslandState.oldest, hc, hk, ho, ne_eq, not_true_eq_false, Act.run_andThen,
    Act.run_when_false]

end

theorem exec_mxrRelease_releases {zero : Bool} {target : Lane} (hk : c.kind = .mxr zero target) (ho : i.owner = some c.who.colour)
    (ht : target.toNat % 2 ^ 16 ≤ i.rowCount) : exec .mxrRelease s = .next ((Act.seq [
      Act.each ((upFrom (settleGroup i).m 0).flatMap fun r => rowTokens (settleGroup i) c.who.colour c.l.seq r) fun t =>
        sendEdges (islandUnit s.m.at_.id) .st none i.out t none,
      modIsland s.m.at_.id fun _ => { (if zero then (settleGroup i).zeroed else settleGroup i) with
        missed := (settleGroup i).missed + Config.freeMiss s.m.free },
      .mod fun m => { m with free := m.free + 1 }, islandDone s.m.at_.id c [BitVec.ofNat 32 i.rowCount],
      islandEos s.m.at_.id]).run s) := by
  have hreached : i.reached c.who.colour target = true := by
    simp only [IslandState.reached, Bool.or_eq_true, decide_eq_true_eq]
    exact .inl (.inr ht)
  have hgo : (i.frozen || i.stuck || !s.issues i.cfg || s.halted i.node.1 || decide (i.owner ≠ some c.who.colour) ||
      !i.reached c.who.colour target) = false := by simp [hf, hs, hiss, hh, ho, hreached]
  change execMxrRelease s = _
  rw [execMxrRelease, Act.run_look]
  simp only [hi, IslandState.oldest, hc, hk, hgo, Bool.false_eq_true, if_false]

end

/-- Settles O55, unit by unit. -/
theorem unitEventsComplete : Obligations.UnitEventsComplete := by
  unfold Obligations.UnitEventsComplete
  refine ⟨fun s x hx => ?messages, ?buffers, ?tiles, ?barriers, ?islands, ?streams⟩
  case messages =>
    refine ⟨fun core home c hb ht => ⟨exec_capsuleLand_lands hx hb ht, exec_capsuleLand_stays hx hb ht⟩, fun e hb => ?tile,
      fun e hb => ?tag, fun id chan u ahead i hb hi hf hiss ho hh hw => ?island⟩
    case tile =>
      intro k me free own full
      have harr := exec_tilePortEvent_arrives hx hb
      refine ⟨fun ho hf hr ha => harr.trans (congrArg _ (tileArrive_run_performed ho hf hr ha)),
        fun ho ha => ⟨fun hroom => ?_, fun hfull => ?_⟩, fun ho y hy => harr.trans (congrArg _ (tileArrive_run_foreign ho hy))⟩
      · exact harr.trans (congrArg _ ((tileArrive_run_held ho ha).trans (by rw [if_neg hroom]; rfl)))
      · exact harr.trans (congrArg _ ((tileArrive_run_held ho ha).trans (by rw [if_pos hfull])))
    case tag =>
      intro k
      have hperf := exec_tagUnitEvent_performs hx hb
      refine ⟨hperf, fun a w he hw hv hcol hgln hfirst hhurt => ?_⟩
      rw [hperf, tagPerform_run_look he hhurt, tagLookup_hit hw ⟨hv, hcol, hgln⟩ hfirst hhurt]
    case island =>
      refine ⟨exec_islandRow_joins hx hb hi hf hiss ho hh hw, fun he hs hwait => ?_⟩
      obtain ⟨t, ht, hexec⟩ := exec_islandRow_takes hx hb hi hf hiss ho hh hw he hs hwait
      obtain ⟨j, hj, -⟩ := islandTake_drained chan u t ⟨i, ht, he⟩
      refine ⟨_, j, hexec, hj, fun hne hnw hns hfmt hown hheld => ?_, fun heos => ?_⟩
      · exact Option.some.inj (hj.symm.trans (islandTake_island_beat ht hne hnw hns hfmt hown hheld))
      · obtain ⟨n, hn, hmem⟩ := islandTake_island_eos ht heos
        rw [Option.some.inj (hj.symm.trans hn)]
        exact hmem
  case buffers =>
    intro s r k hk hr hl
    subst hk
    refine ⟨fun f uid wave slot c x p o g => ?_, fun h node n hf hfree hn => exec_capsuleBufferGrant_lands hr hl hf hfree hn⟩
    intro t w hf hp hi
    have hfires := exec_capsuleBufferGrant_fires hr hl hf hp hi
    refine ⟨fun hheld hbuf => ?_, fun h => ?_⟩
    · rw [hfires, if_neg (by simp [hheld, hbuf])]
    · rw [hfires, if_pos (by simpa using h)]
  case tiles =>
    intro s c cl e hc hf
    exact ⟨exec_tileFillComplete_ready hc hf, fun sp a n keep hst hx hreads hk => exec_tileDrainComplete_moves hc hf hst hx hreads hk⟩
  case barriers =>
    intro s x e hx hb t key b
    refine ⟨fun hs hr => ?_, fun hs hr => ?_, fun hs => ⟨exec_barrierEvent_home hx hb hs, ?_⟩⟩
    · rw [exec_barrierEvent_fabric hx hb hs, fbOwn, Act.run_look]
      simp only [t] at hr
      simp only [hr, if_true]
      rfl
    · rw [exec_barrierEvent_fabric hx hb hs, fbOwn, Act.run_look]
      simp only [t] at hr
      simp only [hr, Bool.false_eq_true, if_false, Act.run_andThen]
      rfl
    · intro hop hcol hu hst hm hw hg hexp h0 hp
      refine ⟨_, (exec_barrierEvent_home hx hb hs).trans (congrArg _ (barPerform_run_arrives hop hcol hu hst hm)), fun ha => ?_,
        fun ha hpnd => ?_⟩
      · exact barTest_run_completes (b := { b.arrived e.who.unit with arr := b.arr + 1, pnd := b.pnd - 1 }) (putBar_barrier _ _ _) hst ha hw hg h0 hexp
      · rw [barTest_run_waits (b := { b.arrived e.who.unit with arr := b.arr + 1, pnd := b.pnd - 1 }) (putBar_barrier _ _ _) hst (Nat.ne_of_lt ha)
          (show b.exp ≤ b.arr + 1 + (b.pnd - 1) by omega), putBar_barrier]
  case islands =>
    intro s i c rest id hi hf hs hw hiss hh hc
    exact ⟨fun hnone => ⟨exec_islandCommand_mxz hi hf hs hw hiss hh hc hnone, exec_islandCommand_mxck hi hf hs hw hiss hh hc hnone⟩,
      fun zero target hk ho ht => exec_mxrRelease_releases hi hf hs hiss hh hc hk ho ht⟩
  case streams =>
    intro s y hy
    exact ⟨fun x hx ht => exec_streamerExecute_steps hy hx ht, exec_streamerComplete_completes hy⟩

end Sys2Proof.Machine
end

section
/-! PROOF of O60 (refuted): a faulted activation that parks its capsule leaves the table of its core without a record while its colour's
spoil is full. The statement speaks of every state, so also of one in which that table lists a frame twice: there the second entry, another
activation, is what stands at the frame afterwards. -/

namespace Sys2Proof.Machine

/-- A capsule of colour 0 that visits its first entry, one with PARK; its tile has no bytes. -/
def parkedCapsule : Capsule := ⟨List.replicate 8 0, [BitVec.ofNat 64 (2 ^ 27)], [], []⟩

/-- A capsule activation of one wave, in which an exit has fired; slot 0 has not. -/
def exitedAct (uid : Nat) : Activation where
  colour := 0
  frame := 0
  uid := uid
  width := 1
  node := 0
  cfg := 0
  kind := .capsule
  slots := []
  seq := 0
  reply := none
  next := .ended
  count := 1
  waves := [⟨0, 0, [Slot.empty], some .retire, 0, 0, 0, 0, 0, 0, [], [], [], true, [], false, false, none, 0, false, 0⟩]
  unacked := 0
  answers := []
  cmdsOut := []
  fault := none
  held := some ⟨parkedCapsule, 0, false, []⟩
  after := []
  enrol := []
  owed := []
  tagged := []
  spilled := false
  ending := false

/-- A second exit. -/
def secondExit : FormC := ⟨⟨.always, .null, .null⟩, 1, 0, 0, 0⟩

/-- A node whose one block holds that instruction. -/
def exitNode : NodeState :=
  ⟨0, ⟨0, 1, 0, 1, 0, none, [], [], none, true, none⟩, [(0, ⟨0, 0, [0x00980C0020000000]⟩)], [], [], 0, 0, 0, [], false, true, []⟩

/-- Core 0 with the node, and two activations at frame 0. -/
def twinState : State :=
  { State.reset with m := { State.reset.m with
      cur := ⟨0, 0, 0, 0, 0⟩
      cores := [(0, { CoreState.zero with nodes := [(0, exitNode)], acts := [(0, exitedAct 0), (0, exitedAct 1)] })] } }

/-- The state after the instruction, MULTI_EXIT taken. -/
def twinAfter : State := (fire 0x001 (.c secondExit) exitNull fun x => x.exitTo (.block secondExit.bt0)).run twinState

theorem exec_secondExit : exec (.bro secondExit) twinState = .next twinAfter := rfl

theorem secondExit_word : decodeWord 0x00980C0020000000 = .ok (.bro secondExit) := rfl

theorem twinAfter_faultNum : twinAfter.m.pkg.faultNum = twinState.m.pkg.faultNum := by decide

theorem twinState_uid : (twinState.m.act? 0 0).map Activation.uid = some 0 := by decide

theorem twinAfter_uid : (twinAfter.m.act? 0 0).map Activation.uid = some 1 := by decide

/-- Refutes O60: where the table of a core lists frame 0 twice, a second exit in the first of the two activations, whose capsule parks on a
fault and waits for the spoil, leaves the second one standing at frame 0, and no record is numbered. -/
theorem not_blockInstructionsWriteNoMemory : ¬ Obligations.BlockInstructionsWriteNoMemory := by
  unfold Obligations.BlockInstructionsWriteNoMemory
  intro h
  obtain ⟨-, -, hacts, -⟩ := h (.bro secondExit) twinState twinAfter rfl exec_secondExit fun c => by rw [twinAfter_faultNum]
  obtain ⟨b, hb, hbu⟩ := Option.map_eq_some_iff.mp twinAfter_uid
  obtain ⟨a, ha, -, -, huid, -⟩ := hacts 0 0 b hb
  have hau : some a.uid = some 0 := by rw [← twinState_uid, ha]; rfl
  rw [← huid, hbu] at hau
  exact absurd hau (by decide)

end Sys2Proof.Machine
end

section
/-! PROOF of O56: a token reaches an element, each kind of element takes it, and the heads of two fibres are compared. -/

namespace Sys2Proof.Machine

/-! ### A token at its element -/

section
variable {s : State} {x : Msg} {id input : Nat} {u : Token} {ahead : Option Nat} {e : ElemState}
  (hx : s.m.msg? s.m.at_.k = some x) (hb : x.body = .tok (.elem id input) u ahead) (he : s.elem? id = some e)
  (hf : e.frozen = false) (hi : s.issues e.cfg = true) (ho : s.m.inOrder s.m.at_.k x = true) (hh : s.halted e.rcd.core = false)
  (hne : u.kind ≠ .eos) (hnw : u.kind ≠ .wedge)
include hx hb he hf hi ho hh hne hnw

/-- A token that is neither EOS nor wedge reaches an element of a kind that a row names. -/
theorem elemEvent_run_takes {kind : ElemKind → Bool} {can : State → ElemState → Token → Bool} {need : Nat} {flush : Token → ElemState → Act}
    {act : ElemState → Nat → Token → Act} (hk : kind e.rcd.kind = true) (hc : can s e u = true) :
    (elemEvent kind can need flush act).run s = (act e input u).run ((takeMsg s.m.at_.k).run s) := by
  rw [elemEvent, Act.run_look]
  simp only [hx, hb, he, hk, hf, hi, ho, hh, hc, hne, hnw, Bool.not_true, Bool.or_self, Bool.false_eq_true, if_false, Act.run_andThen]

/-! ### Each kind of element -/

theorem exec_rmwUpdate_takes {w : BitVec 64} (hk : e.rcd.kind = .rmw w) :
    exec .rmwUpdate s = .next ((rmwToken e w u).run ((takeMsg s.m.at_.k).run s)) := by
  change execRmwUpdate s = _
  rw [execRmwUpdate, elemEvent_run_takes hx hb he hf hi ho hh hne hnw (by rw [hk]) rfl]
  simp only [hk]

theorem exec_cturnToken_takes {w : BitVec 32} (hk : e.rcd.kind = .cturn w) (hd : u.kind = .data)
    (hl : u.lanes.length = bits w.toNat 27 5 + 1) : exec .cturnToken s = .next
      ((if (e.of 0 u.colour ++ [u]).length < bits w.toNat 22 5 + 1 then modElem e.rcd.id fun e => { e with queue := e.queue ++ [(0, u)] }
        else (modElem e.rcd.id fun e => { e with queue := e.without u.colour }).andThen
          (elemOuts e (turned (bits w.toNat 27 5 + 1) (bits w.toNat 22 5 + 1) (e.of 0 u.colour ++ [u])))).run
        ((takeMsg s.m.at_.k).run s)) := by
  change execCturnToken s = _
  rw [execCturnToken, elemEvent_run_takes hx hb he hf hi ho hh hne hnw (by rw [hk]) rfl]
  have hstop : u.kind ≠ .stop := by rw [hd]; decide
  simp only [hk, hstop, if_false, hl, ne_eq, not_true_eq_false, decide_false, Bool.and_false, Bool.false_eq_true]

theorem exec_reorderToken_takes {w : BitVec 64} (hk : e.rcd.kind = .reorder w) : exec .reorderToken s = .next
      ((if (e.of 0 u.colour ++ [u]).length < bits w.toNat 58 6 + 1 then modElem e.rcd.id fun e => { e with queue := e.queue ++ [(0, u)] }
        else (modElem e.rcd.id fun e => { e with queue := e.without u.colour }).andThen
          (elemOuts e (reordered w (e.of 0 u.colour ++ [u])))).run ((takeMsg s.m.at_.k).run s)) := by
  change execReorderToken s = _
  rw [execReorderToken, elemEvent_run_takes hx hb he hf hi ho hh hne hnw (by rw [hk]) rfl]
  simp only [hk]

/-- The event of a sparse-accumulator element at its tile. -/
def ElemState.spaccEv (e : ElemState) (w : BitVec 32) (u : Token) : TileEv :=
  ⟨⟨e.rcd.core, 0, 0, 0, 0, u.colour, 0⟩, clusterOf e.rcd.core, bits w.toNat 24 8, .elem e.rcd.id u⟩

theorem exec_spaccElement_arrives {w : BitVec 32} (hk : e.rcd.kind = .spacc w) : exec .spaccElement s = .next
    ((tileArrive ((e.spaccEv w u).port ((takeMsg s.m.at_.k).run s)) (e.spaccEv w u)).run ((takeMsg s.m.at_.k).run s)) := by
  change execSpaccElement s = _
  rw [execSpaccElement, elemEvent_run_takes hx hb he hf hi ho hh hne hnw (by rw [hk]) (by simp [hne, hnw])]
  simp only [hk]
  rw [Act.run_look]
  rfl

theorem exec_sealElementToken_hashes {w : BitVec 32} {y : Session} (hk : e.rcd.kind = .seal w)
    (hy : ((takeMsg s.m.at_.k).run s).session? e.rcd.id u.colour = some y) (hbad : u.isBad = false) :
    exec .sealElementToken s = .next ((elemOut e u).run ((modSession y fun z => { z with
      input := z.input ++ sealBytes u, count := z.count + 1, first := if z.count = 0 then u.seq else z.first, last := u.seq }).run
        ((takeMsg s.m.at_.k).run s))) := by
  have herr : u.kind ≠ .error := fun h => by simp [Token.isBad, h] at hbad
  have hpoi : u.kind ≠ .poison := fun h => by simp [Token.isBad, h] at hbad
  change execSealElementToken s = _
  rw [execSealElementToken, elemEvent_run_takes hx hb he hf hi ho hh hne hnw (by rw [hk]) rfl, sealToken, Act.run_look]
  simp only [hy, herr, hpoi, if_false, Act.run_andThen]

theorem exec_voterToken_takes (hk : e.rcd.kind = .voter) :
    exec .voterToken s = .next ((voteToken e input u).run ((takeMsg s.m.at_.k).run s)) := by
  change execVoterToken s = _
  rw [execVoterToken, elemEvent_run_takes hx hb he hf hi ho hh hne hnw (by simp [hk]) rfl]

end

/-! ### Read-modify-write (09 R160) -/

section
variable {t : State} {e : ElemState} {w : BitVec 64} {u : Token} (hd : u.kind = .data) (hl : u.lanes.length = 2)
  (hr : u.lane0.toNat ≤ bits w.toNat 27 14)
include hd hl hr

/-- The word that a token of a read-modify-write element names. -/
def ElemState.rmwWord (e : ElemState) (w : BitVec 64) (u : Token) : Nat := bankAddr e.rcd.core (4 * (bits w.toNat 41 14 + u.lane0.toNat))

theorem rmwToken_run_damaged (hdm : t.damaged (e.rmwWord w u) 4 = true) : (rmwToken e w u).run t = (checked (e.rmwWord w u) 4).run t := by
  rw [ElemState.rmwWord] at hdm ⊢
  rw [rmwToken, Act.run_look]
  simp only [hd, hl, Token.isBad, Nat.not_lt.mpr hr, hdm, reduceCtorEq, ne_eq, not_true_eq_false, decide_false, Bool.or_self,
    Bool.false_eq_true, if_false, if_true]

theorem rmwToken_run_updates {v : Nat} (hdm : t.damaged (e.rmwWord w u) 4 = false) (hp : t.presAt (e.rmwWord w u) ≠ .err)
    (hv : rmwNew (bits w.toNat 60 4) (bits w.toNat 55 5) (BitVec.ofNat 32 (t.nat (e.rmwWord w u) 4)) (u.lanes.getD 1 0) = .ok v) :
    (rmwToken e w u).run t = (fill (e.rmwWord w u) (leBytes 4 v)).run ((checked (e.rmwWord w u) 4).run t) := by
  rw [ElemState.rmwWord] at hdm hp hv ⊢
  rw [rmwToken, Act.run_look]
  simp only [hd, hl, Token.isBad, Nat.not_lt.mpr hr, hdm, hp, hv, reduceCtorEq, ne_eq, not_true_eq_false, decide_false, Bool.or_self,
    Bool.false_eq_true, if_false, Act.run_andThen]

end

/-! ### Sparse accumulation (13 R231) -/

/-- A data token of pairs at its READY tile, of its colour, is added there. -/
theorem tileArrive_run_spacc {t : State} {e : ElemState} {w : BitVec 32} {u : Token} (hk : e.rcd.kind = .spacc w) (hd : u.kind = .data)
    (hl : u.lanes.length % 2 = 0) (he : t.elem? e.rcd.id = some e)
    (hst : tileSt ((t.m.cluster (clusterOf e.rcd.core)).tile (bits w.toNat 24 8)) = 2)
    (hcol : tileCol ((t.m.cluster (clusterOf e.rcd.core)).tile (bits w.toNat 24 8)) = u.colour)
    (hr : t.refusedBehind ((e.spaccEv w u).port t) (some (elemUnit e.rcd.id)) = false)
    (hbh : (t.m.cluster (clusterOf e.rcd.core)).behind ((e.spaccEv w u).port t) (elemUnit e.rcd.id) = false) :
    (tileArrive ((e.spaccEv w u).port t) (e.spaccEv w u)).run t = (releasePorts (clusterOf e.rcd.core) 4096).run
      ((spPairs (t.spTile (clusterOf e.rcd.core) (bits w.toNat 24 8)) (bits w.toNat 19 5 = 8) u.colour u.lanes).run t) := by
  have hown : (e.spaccEv w u).own t := .inl rfl
  rw [tileArrive_run_performed hown (.inl hbh) hr (by simp [ElemState.spaccEv, TileOp.applies, hst])]
  have hbad : u.isBad = false := by simp [Token.isBad, hd]
  have hperf : (tilePerform (e.spaccEv w u)).run t =
      (spPairs (t.spTile (clusterOf e.rcd.core) (bits w.toNat 24 8)) (bits w.toNat 19 5 = 8) u.colour u.lanes).run t := by
    rw [tilePerform, Act.run_look]
    simp only [ElemState.spaccEv, he, spaccToken, hk]
    rw [Act.run_look]
    simp only [hcol, hbad, hl, hd, ne_eq, not_true_eq_false, if_false, Bool.false_eq_true, reduceCtorEq, Nat.zero_ne_one]
    rw [spAccumulate, Act.run_look]
  rw [hperf]
  rfl

/-! ### Voters (19 R323) -/

section
variable {t : State} {e : ElemState} {input : Nat} {u : Token} (hm : e.marked.contains (input, u.colour) = false)
  (hv : e.voted.find? (fun (_, d, z, seen) => d == u.colour && z.seq == u.seq && !seen.contains input) = none)
include hm hv

/-- The first copy of a sequence is kept. -/
theorem voteToken_run_first (ho : (e.queue.filter fun y => y.2.colour == u.colour && y.2.seq == u.seq && y.1 != input) = []) :
    (voteToken e input u).run t = (markBehind e.rcd.id u.colour).run
      ((modElem e.rcd.id fun e => { e with queue := e.queue ++ [(input, u)] }).run t) := by
  rw [voteToken]
  simp only [hm, hv, ho, Bool.false_eq_true, if_false, List.any_nil, List.length_nil]
  rw [if_neg (by decide), Act.run_andThen]

/-- A second copy that agrees sends the token. -/
theorem voteToken_run_agrees {y : Nat × Token} (hs : sameTok y.2 u = true)
    (ho : (e.queue.filter fun y => y.2.colour == u.colour && y.2.seq == u.seq && y.1 != input) = [y]) :
    (voteToken e input u).run t = (markBehind e.rcd.id u.colour).run ((decide_ e.rcd.id 0 u [input, y.1]).run t) := by
  rw [voteToken]
  simp only [hm, hv, ho, Bool.false_eq_true, if_false, List.any_cons, hs, Bool.true_or, if_true, Act.run_andThen]
  rfl

end

theorem exec_voterTimeout_poisons {s : State} {e : ElemState} {i : Nat} {u : Token} (he : s.elem? s.m.at_.id = some e)
    (hh : s.halted e.rcd.core = false)
    (hf : e.queue.find? (fun x => 2 ≤ (e.queue.filter fun y => y.2.colour == x.2.colour && y.2.seq == x.2.seq).length) = some (i, u)) :
    let seen := (e.queue.filter fun y => y.2.colour == u.colour && y.2.seq == u.seq).map Prod.fst
    exec .voterTimeout s = .next ((Act.seq [voteRecord e u.colour u.seq (((upFrom 3 0).find? fun i => !seen.contains i).getD 3),
      decide_ e.rcd.id 1 (mkTok u.colour .poison u.seq (List.replicate u.lanes.length 0)) seen]).run s) := by
  intro seen
  change execVoterTimeout s = _
  rw [execVoterTimeout, Act.run_look]
  simp only [he, hh, hf, Bool.false_eq_true, if_false, Act.run_andThen, Act.run_seq_cons, Act.run_seq_nil]
  rfl

/-! ### Intersect and union (12 R210) -/

section
variable {a b : Token} {c v d w : Lane} (ha : a.kind = .data) (hb : b.kind = .data) (hla : a.lanes = [c, v]) (hlb : b.lanes = [d, w])
include ha hb hla hlb

theorem fibreStep_equal (union : Bool) (h : c = d) : fibreStep union a b = (some (mkTok a.colour .data a.seq [c, v, w]), true, true) := by
  simp [fibreStep, show (Kind.data == Kind.stop) = false from rfl, Token.isBad, Token.lane0, ha, hb, hla, hlb, h]

theorem fibreStep_left (union : Bool) (h : c.ult d = true) :
    fibreStep union a b = (if union then some (mkTok a.colour .data a.seq [c, v, 0]) else none, true, false) := by
  have hlt : c.toNat < d.toNat := by simpa [BitVec.ult] using h
  have hne : c ≠ d := fun h => by rw [h] at hlt; exact Nat.lt_irrefl _ hlt
  simp [fibreStep, show (Kind.data == Kind.stop) = false from rfl, Token.isBad, Token.lane0, ha, hb, hla, hlb, hne, hlt]

theorem fibreStep_right (union : Bool) (h : d.ult c = true) :
    fibreStep union a b = (if union then some (mkTok b.colour .data b.seq [d, 0, w]) else none, false, true) := by
  have hlt : d.toNat < c.toNat := by simpa [BitVec.ult] using h
  have hne : c ≠ d := fun h => by rw [h] at hlt; exact Nat.lt_irrefl _ hlt
  simp [fibreStep, show (Kind.data == Kind.stop) = false from rfl, Token.isBad, Token.lane0, ha, hb, hla, hlb, hne, Nat.lt_asymm hlt]

end

/-- An element compares the heads of the first colour's two fibres that can be compared. -/
theorem fibreAct_run_steps {s : State} {union : Bool} {e₀ e : ElemState} {i : Nat} {y a b : Token} {p q : List Token} {out : Option Token}
    {l r : Bool} (hk : e₀.rcd.kind = if union then .union else .isect) (he₀ : s.elem? s.m.at_.id = some e₀) (hf : e₀.frozen = false)
    (hi : s.issues e₀.cfg = true) (hh : s.halted e₀.rcd.core = false) (he : ((elemAbsorb s.m.at_.id 64).run s).elem? s.m.at_.id = some e)
    (hy : e.queue.find? (fun x => fibreReady e x.2.colour) = some (i, y)) (ha : e.of 0 y.colour = a :: p) (hb : e.of 1 y.colour = b :: q)
    (hstep : fibreStep union a b = (out, l, r)) : (fibreAct union).run s = (elemOuts e out.toList).run
      ((modElem s.m.at_.id fun e => (let e' := if l then dropHead e 0 y.colour else e; if r then dropHead e' 1 y.colour else e')).run
        ((elemAbsorb s.m.at_.id 64).run s)) := by
  rw [fibreAct, Act.run_look]
  cases union <;>
  · simp only [he₀, hk, hf, hi, hh, Bool.not_true, Bool.not_false, Bool.or_self, Bool.false_eq_true, if_false, if_true, Act.run_andThen]
    rw [Act.run_look]
    simp only [he, hy, ha, hb, hstep, Act.run_seq_cons, Act.run_seq_nil]

/-- Settles O56, element by element. -/
theorem elementTokensComplete : Obligations.ElementTokensComplete := by
  unfold Obligations.ElementTokensComplete
  refine ⟨fun s x id input u ahead e hx hb he hf hi ho hh hne hnw => ?tokens, fun s e i u he hh hf => exec_voterTimeout_poisons he hh hf,
    fun s e₀ e i y a b p q v w c d => ?fibres⟩
  case tokens =>
    intro t
    refine ⟨fun w hk => ⟨exec_rmwUpdate_takes hx hb he hf hi ho hh hne hnw hk, ?rmw⟩, fun w hk hd hl => ?cturn, fun w hk => ?reorder,
      fun w hk => ?spacc, fun w y hk hy hbad => exec_sealElementToken_hashes hx hb he hf hi ho hh hne hnw hk hy hbad,
      fun hk hm hv => ?voter⟩
    case rmw =>
      have htakes := exec_rmwUpdate_takes hx hb he hf hi ho hh hne hnw hk
      exact fun hd hl hr => ⟨fun hdm => htakes.trans (congrArg _ (rmwToken_run_damaged hd hl hr hdm)),
        fun hdm hp v hv => htakes.trans (congrArg _ (rmwToken_run_updates hd hl hr hdm hp hv))⟩
    case cturn =>
      have htakes := exec_cturnToken_takes hx hb he hf hi ho hh hne hnw hk hd hl
      refine ⟨fun hlt => ?_, fun hge => ?_⟩
      · rw [htakes, if_pos hlt]
      · rw [htakes, if_neg (Nat.not_lt.mpr hge), Act.run_andThen]
    case reorder =>
      have htakes := exec_reorderToken_takes hx hb he hf hi ho hh hne hnw hk
      refine ⟨fun hlt => ?_, fun hge => ?_⟩
      · rw [htakes, if_pos hlt]
      · rw [htakes, if_neg (Nat.not_lt.mpr hge), Act.run_andThen]
        rfl
    case spacc =>
      have harr := exec_spaccElement_arrives hx hb he hf hi ho hh hne hnw hk
      exact ⟨harr, fun hd hl hel hst hcol hr hbh => harr.trans (congrArg _ (tileArrive_run_spacc hk hd hl hel hst hcol hr hbh))⟩
    case voter =>
      have htakes := exec_voterToken_takes hx hb he hf hi ho hh hne hnw hk
      exact ⟨fun hothers => htakes.trans (congrArg _ (voteToken_run_first hm hv hothers)),
        fun y hothers hs _ => htakes.trans (congrArg _ (voteToken_run_agrees hm hv hs hothers))⟩
  case fibres =>
    intro id t he₀ hf hi hh he hy ha hb hka hkb hla hlb step
    have hrun (union : Bool) {out : Option Token} {l r : Bool} (hk : e₀.rcd.kind = if union then .union else .isect)
        (hstep : fibreStep union a b = (out, l, r)) := fibreAct_run_steps hk he₀ hf hi hh he hy ha hb hstep
    refine ⟨fun hk => ⟨fun h => ?_, fun h => ?_, fun h => ?_⟩, fun hk => ⟨fun h => ?_, fun h => ?_, fun h => ?_⟩⟩
    · exact congrArg _ (hrun false hk (fibreStep_equal hka hkb hla hlb false h))
    · exact congrArg _ (hrun false hk (fibreStep_left hka hkb hla hlb false h))
    · exact congrArg _ (hrun false hk (fibreStep_right hka hkb hla hlb false h))
    · exact congrArg _ (hrun true hk (fibreStep_equal hka hkb hla hlb true h))
    · exact congrArg _ (hrun true hk (fibreStep_left hka hkb hla hlb true h))
    · exact congrArg _ (hrun true hk (fibreStep_right hka hkb hla hlb true h))

end Sys2Proof.Machine
end

section
/-! SUPPORT. What a withdrawal leaves of a configuration: nothing that homes, tile ports or output ports do as they answer, store or send moves
the slabs that a configuration holds. -/

namespace Sys2Proof.Machine

/-- The slabs of a configuration, where there is one of that number. -/
def Machine.slabs (cfg : Nat) (m : Machine) : Option (List Nat) := (tget? m.pkg.confs cfg).map ConfState.slabs

theorem slabs_tput {cs : Tab ConfState} {k : Nat} {f g : ConfState} (cfg : Nat) (hf : tget? cs k = some f) (hg : g.slabs = f.slabs) :
    (tget? (tput cs k g) cfg).map ConfState.slabs = (tget? cs cfg).map ConfState.slabs := by
  by_cases h : cfg = k
  · subst h
    rw [tget_tput_same, hf, Option.map_some, Option.map_some, hg]
  · rw [tget_tput_other _ _ h]

section
variable {cfg : Nat}

/-- What keeps all but the readers and the records keeps the slabs. -/
theorem Act.Keeps.slabs {a : Act} (h : a.Keeps Machine.exceptRecords) : a.Keeps (Machine.slabs cfg) := h.through (Machine.slabs cfg)

theorem Act.Keeps.slabs' {a : Act} (h : a.Keeps Machine.exceptReaders) : a.Keeps (Machine.slabs cfg) := h.through (Machine.slabs cfg)

/-- A change of a configuration that leaves its slabs. -/
theorem modConf_slabs {k : Nat} {g : ConfState → ConfState} (hg : ∀ f, (g f).slabs = f.slabs) : (modConf k g).Keeps (Machine.slabs cfg) :=
  .pkg fun m => by
    rw [Machine.slabs, Machine.slabs]
    dsimp only
    split
    next f hf => exact slabs_tput cfg hf (hg f)
    next => rfl

theorem releaseOpt_slabs (k : Nat) (p : Option Nat) (c : Colour) : (releaseOpt k p c).Keeps (Machine.slabs cfg) := by
  cases p with
  | none => exact .quiet
  | some p =>
    rw [releaseOpt, releaseAt]
    refine .pkg fun m => ?_
    rw [Machine.slabs, Machine.slabs]
    dsimp only
    split
    next => rfl
    next f hf => exact slabs_tput cfg hf rfl

theorem modNode_slabs (core node : Nat) (f : NodeState → NodeState) : (modNode core node f).Keeps (Machine.slabs cfg) := fun _ => rfl

theorem record_slabs (r : Record) : (record r).Keeps (Machine.slabs cfg) := (record_keeps r).slabs

theorem countDiscard_slabs (c : Colour) : (countDiscard c).Keeps (Machine.slabs cfg) := (count_keeps c 0 1).slabs

theorem fill_slabs (a : Nat) (bs : List Byte) : (fill a bs).Keeps (Machine.slabs cfg) := (fill_keeps a bs).slabs'

theorem putBytes_slabs (a : Nat) (bs : List Byte) : (putBytes a bs).Keeps (Machine.slabs cfg) := (putBytes_keeps a bs).slabs'

theorem checked_slabs (a n : Nat) : (checked a n).Keeps (Machine.slabs cfg) := (checked_keeps a n).slabs'

theorem answer_slabs (u : Nat) (who : Party) (piece : Nat) (v : AnsVal) : (answer u who piece v).Keeps (Machine.slabs cfg) :=
  fun _ => rfl

theorem fillErr_slabs (a n : Nat) (code : BitVec 8) : (fillErr a n code).Keeps (Machine.slabs cfg) := .look fun _ =>
  .cons (.each fun _ => putBytes_slabs _ _) (.cons (setPres_keeps _ _ _) (.cons (answerReaders_keeps _).slabs' .nil))

theorem spoilAdd_slabs (c : Colour) (n : Nat) : (spoilAdd c n).Keeps (Machine.slabs cfg) := .look fun _ => .pkg fun _ => rfl

theorem sendEdges_slabs (src : Nat) (cls : Cls) (o : Option Outlet) (ds : List Dest) (t : Token) (ahead : Option Nat) :
    (sendEdges src cls o ds t ahead).Keeps (Machine.slabs cfg) :=
  .andThen (.each fun d => (sendEdge_keeps src cls o d t ahead).through fun p : PkgState => (tget? p.confs cfg).map ConfState.slabs)
    (.when (.pkg fun _ => rfl))

/-! ### Requests at their homes -/

theorem performedAt_slabs (w : Who) : (performedAt w).Keeps (Machine.slabs cfg) := .look fun s => by
  split
  · split
    · exact .when fun _ => rfl
    · exact .quiet
  · exact .quiet

theorem accepted_slabs (r : Req) : (accepted r).Keeps (Machine.slabs cfg) := by
  rw [accepted]
  split
  · refine .when (.look fun s => ?_)
    split
    · split
      · split
        · exact performedAt_slabs _
        · exact .quiet
      · exact .quiet
    · exact .quiet
  · exact .quiet

theorem homeAnswer_slabs (u : Nat) (r : Req) (v : AnsVal) : (homeAnswer u r v).Keeps (Machine.slabs cfg) :=
  .cons (accepted_slabs r) (.cons (checked_slabs _ _) (.cons (answer_slabs _ _ _ _) .nil))

theorem ackAll_slabs (u : Nat) (r : Req) : (ackAll u r).Keeps (Machine.slabs cfg) := .each fun _ => answer_slabs _ _ _ _

theorem homeLoad_slabs (u : Nat) (r : Req) : (homeLoad u r).Keeps (Machine.slabs cfg) := .look fun s => by
  split
  · exact homeAnswer_slabs _ _ _
  · exact homeAnswer_slabs _ _ _
  · split
    · exact homeAnswer_slabs _ _ _
    · split
      · exact (accepted_slabs r).andThen (park_keeps _ _ _ _).slabs'
      · exact .andThen (.pkg fun _ => rfl) (spoilAdd_slabs _ _)

theorem homeLdp_slabs (u : Nat) (r : Req) : (homeLdp u r).Keeps (Machine.slabs cfg) := .look fun _ => homeAnswer_slabs _ _ _

theorem engineWrite_slabs (c : Colour) (a : Nat) (m : PageMode) (bs : List EngByte) :
    (engineWrite c a m bs).Keeps (Machine.slabs cfg) := .look fun s => by
  refine .ite (countDiscard_slabs c) (.each fun w => .ite .quiet ?_)
  split
  · exact .ite (fillErr_slabs _ _ _) (count_keeps c 1 1).slabs
  · exact .ite (fill_slabs _ _) (putBytes_slabs _ _)

theorem storeEffect_slabs (r : Req) (v : StoreVal) : (storeEffect r v).Keeps (Machine.slabs cfg) := .look fun s => by
  split
  · exact engineWrite_slabs _ _ _ _
  · exact putBytes_slabs _ _
  · exact (count_keeps _ 1 1).slabs
  · exact fill_slabs _ _
  · exact fillErr_slabs _ _ _

theorem homeStore_slabs (u : Nat) (r : Req) (v : StoreVal) : (homeStore u r v).Keeps (Machine.slabs cfg) := .look fun s => by
  dsimp only
  split
  · exact answer_slabs _ _ _ _
  · exact .cons (.pkg fun _ => rfl) (.cons (storeEffect_slabs r v) (.cons (ackAll_slabs u r) .nil))

theorem homeClr_slabs (u : Nat) (r : Req) : (homeClr u r).Keeps (Machine.slabs cfg) := .look fun _ =>
  .andThen (.ite .quiet (.look fun _ => .andThen (.pkg fun _ => rfl) (setPres_keeps _ _ _))) (ackAll_slabs u r)

theorem homeAtomic_slabs (u : Nat) (r : Req) (op : AtomicOp) (ls : List Lane) : (homeAtomic u r op ls).Keeps (Machine.slabs cfg) :=
  .look fun s => by
    have hsay (v : AnsVal) : ((checked r.addr r.len).andThen (if r.answer then answer u r.who r.piece v else ackAll u r)).Keeps
        (Machine.slabs cfg) := (checked_slabs _ _).andThen (.ite (answer_slabs _ _ _ _) (ackAll_slabs _ _))
    refine .ite (answer_slabs _ _ _ _) (.ite (hsay _) ?_)
    cases (if s.presenceOf r.addr r.mode = .none then none else s.errWord r.addr r.len) with
    | some w => exact hsay _
    | none =>
      dsimp only
      cases atomicNew op (8 * r.len) (s.nat r.addr r.len) ls with
      | error e => exact hsay _
      | ok y => exact .andThen (.ite (putBytes_slabs _ _) (fill_slabs _ _)) (hsay _)

theorem homeReserve_slabs (u : Nat) (r : Req) (k : ResKind) : (homeReserve u r k).Keeps (Machine.slabs cfg) := .look fun s => by
  dsimp only
  split
  · exact answer_slabs _ _ _ _
  · exact .andThen (.when (.pkg fun _ => rfl)) (answer_slabs _ _ _ _)

theorem perform_slabs (u : Nat) (r : Req) : (perform u r).Keeps (Machine.slabs cfg) := by
  rw [perform]
  split
  · exact homeLoad_slabs u r
  · exact homeLdp_slabs u r
  · exact homeStore_slabs u r _
  · exact homeClr_slabs u r
  · exact homeAtomic_slabs u r _ _
  · exact homeReserve_slabs u r _

/-! ### Output ports -/

theorem nodeRelease_slabs (core node : Nat) (c : Colour) : (nodeRelease core node c).Keeps (Machine.slabs cfg) := .look fun s => by
  split
  · exact releaseOpt_slabs _ _ _
  · exact .quiet

theorem nodeLate_slabs (core node frame : Nat) (t : Token) : (nodeLate core node frame t).Keeps (Machine.slabs cfg) :=
  .andThen (.andThen (countDiscard_slabs _) (record_slabs _)) (nodeRelease_slabs _ _ _)

theorem sendControl_slabs (src : Nat) (net : Net) (o : Option Outlet) (ds : List Dest) (t : Token) (sent : Nat) :
    (sendControl src net o ds t sent).Keeps (Machine.slabs cfg) := by
  cases net <;> exact sendEdges_slabs _ _ _ _ _ _

theorem portToken_slabs (core node : Nat) (net : Net) (p : Nat) (t : Token) : (portToken core node net p t).Keeps (Machine.slabs cfg) :=
  .look fun s => by
    split
    · exact .quiet
    · refine .ite (nodeLate_slabs _ _ _ _) ?_
      split
      · exact .quiet
      · exact (sendEdges_slabs _ _ _ _ _ _).andThen (modNode_slabs _ _ _)

theorem portEos_slabs (core node : Nat) (net : Net) (p : Nat) (c : Colour) (seq : BitVec 16) (w : Nat) :
    (portEos core node net p c seq w).Keeps (Machine.slabs cfg) := .look fun s => by
  split
  · exact .quiet
  · refine .ite .quiet ?_
    split
    · exact .quiet
    · exact (sendControl_slabs _ _ _ _ _ _).andThen (modNode_slabs _ _ _)

theorem portWedge_slabs (core node : Nat) (net : Net) (p : Nat) (c : Colour) (seq : BitVec 16) (w : Nat) :
    (portWedge core node net p c seq w).Keeps (Machine.slabs cfg) := .look fun s => by
  split
  · exact .quiet
  · exact .each fun _ => sendControl_slabs _ _ _ _ _ _

theorem usePlace_slabs (cl : Nat) (c : Colour) (place : Nat) : (usePlace cl c place).Keeps (Machine.slabs cfg) :=
  .look fun _ => .ite .quiet (.mod fun _ => rfl)

theorem portEmit_slabs (core node : Nat) (net : Net) (p : Nat) (c : Colour) (x : CAct) :
    (portEmit core node net p c x).Keeps (Machine.slabs cfg) := by
  unfold portEmit
  split
  · exact portToken_slabs _ _ _ _ _
  · exact (portToken_slabs _ _ _ _ _).andThen (portToken_slabs _ _ _ _ _)
  · refine .look fun s => ?_
    split
    · exact .quiet
    · refine .ite (nodeLate_slabs _ _ _ _) ?_
      split
      · exact .each fun _ => .mod fun _ => rfl
      · exact .cons (countDiscard_slabs _) (.cons (record_slabs _) (.cons (nodeRelease_slabs _ _ _) .nil))
      · exact (usePlace_slabs _ _ _).andThen (.mod fun _ => rfl)
  · exact portEos_slabs _ _ _ _ _ _ _
  · exact portWedge_slabs _ _ _ _ _ _ _
  · exact .quiet

theorem flushPort_slabs (core node : Nat) (net : Net) (p : Nat) (c : Colour) (k : Nat) :
    (flushPort core node net p c k).Keeps (Machine.slabs cfg) := by
  induction k with
  | zero => exact .quiet
  | succ k ih =>
    refine .look fun s => ?_
    split
    · exact .quiet
    · split
      · exact .quiet
      · split
        · exact .quiet
        · exact .ite .quiet (.cons (modNode_slabs _ _ _) (.cons (.when (modNode_slabs _ _ _)) (.cons (portEmit_slabs _ _ _ _ _ _)
            (.cons ih .nil))))

/-! ### Tile ports -/

theorem spPair_slabs (t : SpTile) (float : Bool) (colour : Colour) (c v : Lane) :
    (spPair t float colour c v).Keeps (Machine.slabs cfg) := by
  refine .look fun s => ?_
  refine .ite .quiet (.ite (.andThen (fill_slabs _ _) (countDiscard_slabs _)) ?_)
  dsimp only
  split
  · refine .cons (fill_slabs _ _) (.cons ?_ (.cons (fill_slabs _ _) .nil))
    split
    · exact fill_slabs _ _
    · exact fillErr_slabs _ _ _
  · refine .ite .quiet ?_
    split
    · exact fill_slabs _ _
    · exact fillErr_slabs _ _ _

theorem spPairs_slabs (t : SpTile) (float : Bool) (c : Colour) (ls : List Lane) : (spPairs t float c ls).Keeps (Machine.slabs cfg) := by
  induction ls using spPairs.induct with
  | case1 c v rest ih =>
    rw [spPairs]
    exact (spPair_slabs _ _ _ _ _).andThen ih
  | case2 ls h =>
    unfold spPairs
    split
    next c v rest => exact absurd rfl (h c v rest)
    next => exact .quiet

theorem elemOut_slabs (e : ElemState) (t : Token) : (elemOut e t).Keeps (Machine.slabs cfg) := sendEdges_slabs _ _ _ _ _ _

theorem elemDiscard_slabs (e : ElemState) (t : Token) (code : Nat) : (elemDiscard e t code).Keeps (Machine.slabs cfg) :=
  .cons (countDiscard_slabs _) (.cons (record_slabs _) (.cons (releaseOpt_slabs _ _ _) .nil))

theorem spClear_slabs (t : SpTile) : (spClear t).Keeps (Machine.slabs cfg) :=
  .cons (.each fun _ => fill_slabs _ _) (.cons (fill_slabs _ _) (.cons (fill_slabs _ _) .nil))

theorem spaccToken_slabs (e : ElemState) (cl tile : Nat) (t : Token) : (spaccToken e cl tile t).Keeps (Machine.slabs cfg) := by
  rw [spaccToken]
  split
  · exact .look fun s => .ite (elemDiscard_slabs _ _ _) (.ite (elemOut_slabs _ _) (.ite (elemOut_slabs _ _) (.ite
      (.andThen (spClear_slabs _) (.each fun _ => elemOut_slabs _ _)) (.look fun _ => spPairs_slabs _ _ _ _))))
  · exact .quiet

theorem streamFault_slabs (x : StreamCmd) (code detail addr : Nat) : (streamFault x code detail addr).Keeps (Machine.slabs cfg) :=
  .andThen (.pkg fun _ => rfl) (record_slabs _)

theorem putTile_slabs (cl tile : Nat) (e : BitVec 32) : (putTile cl tile e).Keeps (Machine.slabs cfg) := fun _ => rfl

theorem tilePerform_slabs (e : TileEv) : (tilePerform e).Keeps (Machine.slabs cfg) := .look fun s => by
  dsimp only
  split
  · exact putTile_slabs _ _ _
  · exact putTile_slabs _ _ _
  · exact putTile_slabs _ _ _
  · exact putTile_slabs _ _ _
  · exact .look fun _ => spPairs_slabs _ _ _ _
  · exact (spClear_slabs _).andThen (.andThen (modNode_slabs _ _ _) (flushPort_slabs _ _ _ _ _ _))
  · exact answer_slabs _ _ _ _
  · refine .ite ?_ (.andThen (putTile_slabs _ _ _) (.pkg fun _ => rfl))
    split
    · exact .andThen (.pkg fun _ => rfl) (streamFault_slabs _ _ _ _)
    · exact .quiet
  · exact .andThen (putTile_slabs _ _ _) (.pkg fun _ => rfl)
  · split
    · exact spaccToken_slabs _ _ _ _
    · exact .quiet

theorem releasePorts_slabs (cl n : Nat) : (releasePorts cl n).Keeps (Machine.slabs cfg) := by
  induction n with
  | zero => exact .quiet
  | succ n ih =>
    refine .look fun s => ?_
    split
    · exact .quiet
    · refine .cons (.mod fun _ => rfl) (.cons ?_ (.cons ih .nil))
      split
      · exact perform_slabs _ _
      · exact tilePerform_slabs _

/-! ### The withdrawal (16 R277) -/

theorem parkNow_slabs (x : ParkWait) : (parkNow x).Keeps (Machine.slabs cfg) := .look fun s => by
  refine .cons (.pkg fun _ => rfl) (.cons (spoilAdd_slabs _ _) (.cons ?_ (.cons (record_slabs _) .nil)))
  split
  · exact fun _ => rfl
  · exact .quiet

theorem spoilSub_slabs (c : Colour) (n : Nat) : (spoilSub c n).Keeps (Machine.slabs cfg) := .look fun _ =>
  .andThen (.pkg fun _ => rfl) (.each fun _ => .look fun _ => .when (.andThen (.pkg fun _ => rfl) (parkNow_slabs _)))

theorem rehead_slabs (u w : Nat) : (rehead u w).Keeps (Machine.slabs cfg) := .look fun _ =>
  .ite (setPres_keeps _ _ _) (headWord_keeps _ _).slabs'

theorem poolLeave_slabs (k : Nat) : (poolLeave k).Keeps (Machine.slabs cfg) := .look fun _ => .each fun _ =>
  .ite .quiet (.andThen (setPool_keeps _ _).slabs' (.each fun _ => rehead_slabs _ _))

theorem refusedLeave_slabs (k : Nat) (f : ConfState) : (refusedLeave k f).Keeps (Machine.slabs cfg) := .look fun _ =>
  .andThen (.pkg fun _ => rfl) (.each fun _ => spoilSub_slabs _ _)

theorem withdraw_slabs (k : Nat) : (withdraw k).Keeps (Machine.slabs cfg) := .look fun s => by
  split
  · exact .quiet
  · exact .cons (modConf_slabs fun _ => rfl) (.cons (poolLeave_slabs k) (.cons (refusedLeave_slabs k _) (.cons (.mod fun _ => rfl)
      (.cons (.each fun _ => releasePorts_slabs _ _) .nil))))

end

end Sys2Proof.Machine
end

section
/-! PROOF of O57: the wave of a configuration slab by slab, partial reconfiguration, ports, walks and invalidations, the rounds of hoist and
arbiter, and the phases of a pre-emption round. -/

namespace Sys2Proof.Machine

theorem bits_bit (x i : Nat) : bits x i 1 = 1 ↔ x.testBit i = true := by
  rw [Nat.testBit_eq_decide_div_mod_eq, decide_eq_true_eq, bits, Nat.pow_one]

theorem bits_bit_zero (x i : Nat) : bits x i 1 = 0 ↔ x.testBit i = false := by
  rw [← Bool.not_eq_true, ← bits_bit, bits, Nat.pow_one]
  omega

/-! ### The configuration wave (15 R254) -/

/-- What a slab does with the records of a section that meet their bytes and its checks. -/
def takeSection (cfg slab : Nat) (f : ConfState) (recs : List Rec) : Act := Act.seq [
  plainSites slab, Act.each recs (install cfg (sitesOf f.slabs) (f.place slab) slab),
  modConf cfg fun f => { f with image := f.image ++ [(slab, recs)] }]

/-- What a slab does with its section as memory gives it. -/
def sectionAct (s : State) (cfg slab : Nat) (f : ConfState) (recs : List Rec) : Except ImageEnd (List RawRec) → Act
  | .error .xlate => untranslated cfg
  | .error .past => sendReject cfg slab (slabSite slab 0, 0, 0)
  | .ok raw =>
    match rawBad raw, recsAgree raw recs, s.sectionBad f slab recs with
    | some i, _, _ => sendReject cfg slab (slabSite slab i, 0, 0)
    | none, false, _ => .quiet
    | none, true, some x => sendReject cfg slab x
    | none, true, none => (takeSection cfg slab f recs).andThen (execConfigWave.checkSlab cfg slab)

theorem exec_configWave_reads {s : State} {slab cfg : Nat} {f : ConfState} {recs : List Rec}
    (hc : s.m.pkg.confs.find? (fun x => x.2.slabs.contains slab && x.2.streaming) = some (cfg, f)) (hrej : s.rejected cfg = false)
    (hh : s.halted (slabSite slab 0) = false) (haway : ((s.queue? f.queue).any fun x =>
      s.vaAway { x with desc := { x.desc with col := s.confColour f } } f.imageVa f.imageLen) = false)
    (hfed : ∀ k, f.feeder (f.place slab) = some k → f.image.any (fun x => x.1 == k) = true)
    (himg : f.image.any (fun x => x.1 == slab) = false) : exec (.configWave slab recs) s =
      .next ((sectionAct s cfg slab f recs (s.confSection (s.confColour f) f (f.place slab))).run s) := by
  change execConfigWave slab recs s = _
  rw [execConfigWave, Act.run_look]
  simp only [hc, hh, haway, hrej, himg]
  rw [if_neg]
  case hnc =>
    split
    next k hk => simp [hfed k hk]
    next => simp
  rcases s.confSection (s.confColour f) f (f.place slab) with e | raw
  · cases e <;> rfl
  · cases hraw : rawBad raw <;> cases hagree : recsAgree raw recs <;> cases hbad : s.sectionBad f slab recs <;>
      simp only [sectionAct, hraw, hagree, hbad, takeSection, Act.run_seq_cons, Act.run_seq_nil, Act.run_andThen, Bool.not_true,
        Bool.not_false, Bool.false_eq_true, if_false, if_true]

section
variable {t : State} {cfg slab : Nat}

theorem checkSlab_run_bad {x : Nat × Nat × Nat} (hx : t.slabBad cfg slab = some x) :
    (execConfigWave.checkSlab cfg slab).run t = (sendReject cfg slab x).run t := by
  rw [execConfigWave.checkSlab, Act.run_look]
  simp only [hx]

variable (hs : t.slabBad cfg slab = none) {g : ConfState} (hg : t.conf? cfg = some g)
include hs hg

theorem checkSlab_run_partial (hc : g.configured = false) : (execConfigWave.checkSlab cfg slab).run t = t := by
  rw [execConfigWave.checkSlab, Act.run_look]
  simp only [hs, hg, hc, Bool.not_false, if_true, Act.run_quiet]

theorem checkSlab_run_whole (hc : g.configured = true) (hb : t.cfgBad cfg = none) (he : t.elemsOk cfg = true) :
    (execConfigWave.checkSlab cfg slab).run t = (execConfigWave.lockChans g).run t := by
  rw [execConfigWave.checkSlab, Act.run_look]
  simp only [hs, hg, hc, hb, he, Bool.not_true, Bool.false_eq_true, if_false, if_true]

theorem checkSlab_run_rejected {x : Nat × Nat × Nat} (hc : g.configured = true) (hb : t.cfgBad cfg = some x) :
    (execConfigWave.checkSlab cfg slab).run t = (sendReject cfg (slabOf x.1) x).run t := by
  rw [execConfigWave.checkSlab, Act.run_look]
  simp only [hs, hg, hc, hb, Bool.not_true, Bool.false_eq_true, if_false]

end

/-! ### Partial reconfiguration (15 R255) -/

section
variable {s : State} {n : NodeState} {recs : List Rec} {f : ConfState} (hn : s.m.node? s.m.at_.core s.m.at_.node = some n)
include hn

theorem exec_partialReconfig_closes (ha : n.admitting = true) : exec (.partialReconfig recs) s =
    .next ((modNode s.m.at_.core s.m.at_.node fun n => { n with admitting := false }).run s) := by
  change execPartialReconfig recs s = _
  rw [execPartialReconfig, Act.run_look]
  simp only [hn, ha, if_true]

/-- A node that admits no token and whose waves may begin again is rewritten, where nothing of the image is bad. -/
theorem exec_partialReconfig_rewrites (hf : s.conf? n.cfg = some f) (ha : n.admitting = false)
    (hw : ∀ y ∈ (s.m.core s.m.at_.core).acts, y.2.node = s.m.at_.node → y.2.frozen = true ∨ ∀ w ∈ y.2.waves, w.restarts n = true)
    (hp : partialBad f s.m.at_.core n recs = none)
    (hb : (s.m.core s.m.at_.core).holdsBlocks s.m.at_.node (n.rewritten (sitesOf f.slabs) recs) = true)
    (he : Env.bad ⟨s.withNode s.m.at_.core s.m.at_.node (n.rewritten (sitesOf f.slabs) recs) recs, n.cfg, s.m.at_.core,
      n.rewritten (sitesOf f.slabs) recs, false⟩ = none) :
    exec (.partialReconfig recs) s = .next ((Act.seq [
      modNode s.m.at_.core s.m.at_.node fun _ => n.rewritten (sitesOf f.slabs) recs,
      modCore s.m.at_.core fun k => (k.rechannelled recs).lockedChans,
      Act.each ((s.m.core s.m.at_.core).acts.filter fun (_, a) => a.node == s.m.at_.node && !a.frozen) fun (g, a) => Act.seq [
        interrupt s.m.at_.core g a, modAct s.m.at_.core g fun a => { a with waves := a.waves.map Wave.again },
        bindFrame s.m.at_.core g ],
      modNode s.m.at_.core s.m.at_.node fun n => { n with admitting := true },
      Act.each n.waitingColours fun c => bindAll s.m.at_.core s.m.at_.node c,
      Act.each ((s.m.core s.m.at_.core).acts.filter fun (_, a) => a.node == s.m.at_.node) fun (g, _) =>
        placeTagged s.m.at_.core g]).run s) := by
  have hall : ((s.m.core s.m.at_.core).acts.all fun y => y.2.node != s.m.at_.node || y.2.frozen || y.2.waves.all (Wave.restarts n)) = true := by
    rw [List.all_eq_true]
    intro y hy
    by_cases hnode : y.2.node = s.m.at_.node
    · have h := hw y hy hnode
      rw [← List.all_eq_true] at h
      rcases h with h | h <;> simp [h]
    · simp [hnode]
  change execPartialReconfig recs s = _
  rw [execPartialReconfig, Act.run_look]
  simp only [hn, ha, hall, hf, hp, hb, he, Bool.false_eq_true, if_false, if_true, Bool.not_true, Option.map_none, Option.orElse_none,
    Act.run_seq_cons, Act.run_seq_nil, Act.run_andThen]

end

/-! ### Exit and entry ports (15 R257, 19 R322) -/

section
variable {s : State} {x : Msg} {cfg port : Nat} {u : Token} {ahead : Option Nat} {f : ConfState} {y : ExitState}
  (hx : s.m.msg? s.m.at_.k = some x) (hb : x.body = .tok (.exit cfg port) u ahead) (ho : s.m.inOrder s.m.at_.k x = true)
  (hf : s.conf? cfg = some f) (hy : f.exits.find? (fun z => z.rcd.port == port) = some y)
include hx hb ho hf hy

/-- The change of the exit at a port. -/
def modExit (cfg port : Nat) (g : ExitState → ExitState) : Act := modConf cfg fun f =>
  { f with exits := f.exits.map fun z => if z.rcd.port = port then g z else z }

theorem exec_exitPortToken_leaves (hw : u.kind ≠ .wedge) (he : u.kind ≠ .eos) (hp : u.kind ≠ .poison) :
    exec .exitPortToken s = .next ((modExit cfg port fun z => { z with left := z.left ++ [u] }).run
      ((releaseOpt cfg y.rcd.credited u.colour).run ((takeMsg s.m.at_.k).run s))) := by
  change execExitPortToken s = _
  rw [execExitPortToken, Act.run_look]
  simp only [hx, hb, ho, hf, hy, Option.bind_some, Bool.not_true, Bool.false_eq_true, if_false, Act.run_andThen]
  rfl

theorem exec_exitPortToken_eos (he : u.kind = .eos) :
    exec .exitPortToken s = .next ((eosLeft cfg u.colour).run
      ((modExit cfg port fun z => { z with eos := u.colour :: z.eos }).run ((takeMsg s.m.at_.k).run s))) := by
  change execExitPortToken s = _
  rw [execExitPortToken, Act.run_look]
  simp only [hx, hb, ho, hf, hy, he, Option.bind_some, Bool.not_true, Bool.false_eq_true, if_false, Act.run_andThen, Act.run_seq_cons,
    Act.run_seq_nil]
  rfl

theorem exec_exitPortToken_poison (he : u.kind = .poison) {p : Nat} (hp : y.rcd.credited = some p) :
    exec .exitPortToken s = .next ((send (exitUnit cfg port) (entryUnit cfg p) .q1 (.reinject cfg p u.colour u.seq)).run
      ((releaseAt cfg p u.colour).run ((takeMsg s.m.at_.k).run s))) := by
  change execExitPortToken s = _
  rw [execExitPortToken, Act.run_look]
  simp only [hx, hb, ho, hf, hy, he, hp, Option.bind_some, Bool.not_true, Bool.false_eq_true, if_false, Act.run_andThen, releaseOpt]

end

/-- A kept seed enters again at a port that takes it. -/
theorem exec_reinjectRequest_enters {s : State} {x : Msg} {cfg port : Nat} {c : Colour} {seq : BitVec 16} {f : ConfState} {e : EntryState}
    {y : KeptSeed} (hx : s.m.msg? s.m.at_.k = some x) (hb : x.body = .reinject cfg port c seq)
    (hf : ((takeMsg s.m.at_.k).run s).conf? cfg = some f) (he : f.entry? port = some e)
    (hy : (e.colour c).kept.find? (fun z => z.seq == seq && z.again < 2) = some y) (hg : e.gated = false) (hr : e.rcd.gated = false) :
    exec .reinjectRequest s = .next ((Act.seq [
      modEntryColour cfg port c fun z => { z with
        count := z.count + 1, kept := z.kept.map fun k => if k = y then { k with again := k.again + 1 } else k },
      entrySend cfg port y.tok]).run ((takeMsg s.m.at_.k).run s)) := by
  change execReinjectRequest s = _
  rw [execReinjectRequest, Act.run_look]
  simp only [hx, hb, Act.run_andThen]
  rw [reinject, Act.run_look]
  simp only [hf, he, hy, hg, hr, Option.bind_some, Bool.false_and, Bool.or_self, Bool.false_eq_true, if_false]

/-! ### Walks and invalidations (15 R250, R261, R262) -/

theorem exec_walkComplete_answers {s : State} {w : Walk} (hw : (s.walking s.m.at_.die)[s.m.at_.k]? = some w) :
    exec .walkComplete s = .next ((Act.each w.waiters (walked (s.walk w.colour (w.page * 2 ^ 16)))).run
      ((Act.pkg fun p => { p with walks := p.walks.erase w }).run s)) := by
  change execWalkComplete s = _
  rw [execWalkComplete, Act.run_look]
  simp only [hw, Act.run_andThen]

section
variable {s : State} {ls : List Lane} {l : Token} {r : Option Reply} {c : Colour}

theorem exec_placeInvalidationComplete_answers (hs : s.sysAt s.m.at_.k 0x102 = some (ls, l, r, c)) {key n : Nat} {hit : Nat → Bool}
    (hkey : key = if (ls.getD 0 0).toNat.testBit 21 then 32 else bits (ls.getD 0 0).toNat 16 5)
    (hn : n = bits (ls.getD 1 0).toNat 0 16)
    (hhit : hit = fun p => p < 2 ^ 15 && (n == 0 || (bits (ls.getD 0 0).toNat 0 15 ≤ p && p < bits (ls.getD 0 0).toNat 0 15 + n)))
    (hp : s.placed key hit = false) : exec .placeInvalidationComplete s = .next ((Act.seq [sysDone s.m.at_.k,
      .mod fun m => { m with clusters := m.clusters.map fun (i, k) => (i, { k with places := k.places.filter fun e =>
        !(e.1 == key && hit e.2.1) }) },
      statusReply l.lanes.length c l r 0]).run s) := by
  subst hkey hn hhit
  change execPlaceInvalidationComplete s = _
  rw [execPlaceInvalidationComplete, Act.run_look]
  simp only [hs, bits_bit, hp, Bool.false_eq_true, if_false]


theorem exec_xlateInvalidationComplete_answers (hs : s.sysAt s.m.at_.k 0x103 = some (ls, l, r, c)) {hit : Trans → Bool} {n : Nat}
    {dropped : List Trans} {page : Nat → Bool} (hn : n = (ls.getD 2 0).toNat)
    (hhit : hit = fun t => t.colour == (BitVec.ofNat 8 (ls.getD 0 0).toNat : Colour) &&
      (n == 0 || (t.page < (ls.getD 1 0).toNat + n && (ls.getD 1 0).toNat < t.page + t.pages)))
    (hd : dropped = (s.m.cores.flatMap fun y => y.2.tlb.filter hit) ++ s.m.clusters.flatMap fun y => y.2.tlb.filter hit)
    (hpage : page = fun p => n == 0 || ((ls.getD 1 0).toNat ≤ p && p < (ls.getD 1 0).toNat + n) ||
      dropped.any fun t => t.page ≤ p && p < t.page + t.pages)
    (ht : s.translated (BitVec.ofNat 8 (ls.getD 0 0).toNat) page = false) :
    exec .xlateInvalidationComplete s = .next ((Act.seq [sysDone s.m.at_.k,
      .mod fun m => { m with
        cores := m.cores.map fun (i, k) => (i, { k with tlb := k.tlb.filter fun t => !hit t })
        clusters := m.clusters.map fun (i, k) => (i, { k with tlb := k.tlb.filter fun t => !hit t }) },
      statusReply l.lanes.length c l r 0]).run s) := by
  subst hn hpage hd hhit
  change execXlateInvalidationComplete s = _
  rw [execXlateInvalidationComplete, Act.run_look]
  simp only [hs, ht, Bool.false_eq_true, if_false]

/-- A translation invalidation meets a pinned leaf where it is not forced. -/
def meetsPin (s : State) (ls : List Lane) : Prop := (ls.getD 0 0).toNat.testBit 8 = false ∧
  s.pinnedIn (BitVec.ofNat 8 (ls.getD 0 0).toNat) (ls.getD 1 0).toNat (ls.getD 2 0).toNat = true

theorem syswCommit_run_refused (hp : meetsPin s ls) :
    (syswCommit 0x103 ls c l r).run s = (statusReply l.lanes.length c l r 1).run s := by
  obtain ⟨hbit, hpin⟩ := hp
  rw [syswCommit, if_neg (by decide), Act.run_look]
  simp only [(bits_bit_zero _ _).mpr hbit, hpin, decide_true, Bool.and_self, if_true]

theorem syswCommit_run_pends (hp : ¬ meetsPin s ls) : (syswCommit 0x103 ls c l r).run s =
    (Act.pkg fun p => { p with sysPending := p.sysPending ++ [(0x103, ls, l, r, c)] }).run s := by
  rw [syswCommit, if_neg (by decide), Act.run_look]
  refine congrArg (fun a : Act => a.run s) (if_neg fun h => hp ?_)
  simpa [bits_bit_zero, meetsPin] using h

end

/-! ### Rounds of the hoist and of the arbiter (16 R270 to R273) -/

section
variable {s : State}

theorem exec_hoistRound_runs (hs : s.m.pkg.stopped.contains s.m.at_.die = false) : exec .hoistRound s =
    .next ((handOver s.m.at_.die 1 64).run ((selectRound s.m.at_.die).run ((readRound s.m.at_.die).run (dropIdle.run s)))) := by
  change execHoistRound s = _
  rw [execHoistRound, Act.run_look]
  simp only [hs, Bool.false_eq_true, if_false, Act.run_seq_cons, Act.run_seq_nil]

theorem exec_hoistRound_stopped (hs : s.m.pkg.stopped.contains s.m.at_.die = true) : exec .hoistRound s = .next s := by
  change execHoistRound s = _
  rw [execHoistRound, Act.run_look]
  simp only [hs, if_true, Act.run_quiet]

theorem exec_arbiterRound_runs : exec .arbiterRound s = .next (press.run (arbitrate.run (readBids.run s))) := by
  change execArbiterRound s = _
  rw [execArbiterRound, Act.run_seq_cons, Act.run_seq_cons, Act.run_seq_cons, Act.run_seq_nil]

/-- The seed port does what the packet at the head of its queue does. -/
theorem exec_seedEnter_packet {p : Packet} {t : State} (hn : s.nextPacket s.m.at_.queue = .ok (.pkSeed p, t)) :
    exec .seedEnter s = exec (.pkSeed p) t := by
  change execSeedEnter s = execPkSeed p t
  rw [execSeedEnter, hn, execPkSeed]

end

/-! ### The answered read of a queue (16 R270) -/

/-- The first of a list of numbers that a function gives something for. -/
theorem findSome_upFrom_first {β : Type} {f : Nat → Option β} {n k : Nat} {b : β} (hk : k < n) (hf : f k = some b)
    (hlow : ∀ j < k, f j = none) : (upFrom n 0).findSome? f = some b := by
  obtain ⟨m, rfl⟩ : ∃ m, n = k + (m + 1) := ⟨n - k - 1, by omega⟩
  rw [upFrom_zero, List.range_add, List.range_succ_eq_map, List.map_cons]
  exact List.findSome?_eq_some_iff.mpr ⟨_, _, _, rfl, hf, fun j hj => hlow j (List.mem_range.mp hj)⟩

section
variable {s : State} {k : Nat} {y : Msg} {a : Ans} {x : QState} (hk : k < s.m.net.length) (hy : s.m.msg? k = some y) (hb : y.body = .ans a)
  (ha : a.who = .queue s.m.at_.queue)
  (hlow : ∀ j z b, j < k → s.m.msg? j = some z → z.body = .ans b → b.who ≠ .queue s.m.at_.queue)
  (hx : s.queue? s.m.at_.queue = some x) (hp : x.parked = true)
include hk hy hb ha hlow hx hp

/-- The answer that is taken is the first one for the queue. -/
theorem exec_queueUnblock_takes : exec .queueUnblock s = .next ((if x.mapped then
      modQueue s.m.at_.queue fun y => { y with parked := false, answer := some a.val }
    else if x.blocked then
      if (s.readDesc s.m.at_.queue).st = qBlocked then unbind s.m.at_.queue qWaiting
      else .pkg fun p => { p with queues := tdel p.queues s.m.at_.queue }
    else .quiet).run ((takeMsg k).run s)) := by
  change execQueueUnblock s = _
  rw [execQueueUnblock, Act.run_look]
  dsimp only
  rw [findSome_upFrom_first (b := (k, a.val)) hk]
  case hf => simp only [hy, hb, ha, Option.bind_some, if_true, Option.map_some]
  case hlow =>
    intro j hj
    rw [Option.map_eq_none_iff]
    cases hz : s.m.msg? j with
    | none => rfl
    | some z =>
      rw [Option.bind_some]
      split
      next b hzb => exact if_neg (hlow j z b hj hz hzb)
      next => rfl
  dsimp only
  rw [Act.run_andThen]
  simp only [hx, hp, Bool.not_true, Bool.false_eq_true, if_false]

end

/-! ### Completion and rounds of pre-emption (15 R254, 16 R277 to R280) -/

/-! A save depends on a configuration through its slabs alone. -/

section
variable {f g : ConfState} (h : f.slabs = g.slabs)
include h

theorem ConfState.holds_congr : f.holds = g.holds := by
  funext c
  rw [ConfState.holds, ConfState.holds, h]

theorem ConfState.holdsHome_congr : f.holdsHome = g.holdsHome := by
  funext a
  rw [ConfState.holdsHome, ConfState.holdsHome, ConfState.holds_congr h]

theorem ConfState.clusters_congr : f.clusters = g.clusters := by
  rw [ConfState.clusters, ConfState.clusters, h]

variable (t : State) (cfg : Nat)

theorem Msg.ofConf_congr (x : Msg) : x.ofConf t cfg f = x.ofConf t cfg g := by
  have hparty (p : Party) : p.ofConf t cfg f = p.ofConf t cfg g := by
    cases p <;> simp only [Party.ofConf, ConfState.holds_congr h]
  unfold Msg.ofConf
  simp only [ConfState.holds_congr h, hparty]

theorem State.tilesOf_congr : t.tilesOf cfg f = t.tilesOf cfg g := by
  have howns (c : Colour) (site : Nat) : t.ownsLines cfg f c site = t.ownsLines cfg g c site := by
    rw [State.ownsLines, State.ownsLines, ConfState.holds_congr h]
  simp only [State.tilesOf, ConfState.clusters_congr h, howns]

theorem State.tagsOf_congr : t.tagsOf cfg f = t.tagsOf cfg g := by
  rw [State.tagsOf, State.tagsOf, ConfState.clusters_congr h]

theorem State.barsOf_congr : t.barsOf cfg f = t.barsOf cfg g := by
  simp only [State.barsOf, ConfState.clusters_congr h, ConfState.holds_congr h]

theorem State.saveOf_congr (v : Save) : t.saveOf cfg f v = t.saveOf cfg g v := by
  simp only [State.saveOf, State.sharedBars, State.tilesOf_congr h, State.tagsOf_congr h, State.barsOf_congr h, Msg.ofConf_congr h,
    ConfState.holds_congr h, ConfState.holdsHome_congr h, h]

end

/-- Two changes of a configuration that agree on it as it stands are one. -/
theorem modConf_run_congr {t : State} {cfg : Nat} {g : ConfState} {p q : ConfState → ConfState} (hg : t.conf? cfg = some g)
    (h : p g = q g) : (modConf cfg p).run t = (modConf cfg q).run t := by
  have hg' : tget? t.m.pkg.confs cfg = some g := hg
  have hpkg : modConf cfg p t = modConf cfg q t := by
    simp only [modConf, Act.pkg, Act.mod, hg', h]
  rw [Act.run, Act.run, hpkg]

theorem complete_run_restoring {t : State} {cfg : Nat} {f : ConfState} (hp : f.phase = .restoring) :
    (complete cfg f).run t = (modConf cfg fun f => { f with phase := .restored }).run t := by
  rw [complete, Act.run_look]
  simp only [hp, reduceCtorEq, if_false]

theorem complete_run_loading {t : State} {cfg : Nat} {f : ConfState} {bs : List Byte} (hp : f.phase = .loading)
    (hb : t.vaBytes (t.confColour f) f.imageVa f.imageLen = .ok bs) :
    (complete cfg f).run t = (modConf cfg fun f => { f with phase := .resident, meas := sha384 bs }).run t := by
  rw [complete, Act.run_look]
  simp only [hp, hb, if_true]

section
variable {s : State} {f : ConfState} (hf : s.conf? s.m.at_.cfg = some f)
include hf

section
variable (hst : f.streaming = true) (hc : f.configured = true) (hrej : s.rejected s.m.at_.cfg = false)
  (hin : f.slabs.contains s.m.at_.id = true) (hd : f.done.contains s.m.at_.id = false)
  (hfed : ∀ i < f.slabs.length, f.feeder i = some s.m.at_.id → f.done.contains (f.slabs.getD i 0) = true)
  (hmsg : ∀ y g core b i, s.m.msg? s.m.at_.k = some y → y.body ≠ .reject g core b i)
include hst hc hrej hin hd hfed hmsg

/-- A slab reports completion; the origin's report is the configuration's. -/
theorem exec_configComplete_reports : exec .configComplete s =
    .next ((Act.when (f.place s.m.at_.id = 0) (complete s.m.at_.cfg f)).run
      ((modConf s.m.at_.cfg fun f => { f with done := s.m.at_.id :: f.done }).run s)) := by
  change execConfigComplete s = _
  rw [execConfigComplete, Act.run_look]
  have hall : (((upFrom f.slabs.length 0).filter fun i => f.feeder i == some s.m.at_.id).all fun i =>
      f.done.contains (f.slabs.getD i 0)) = true := by
    rw [List.all_eq_true]
    intro i hi
    rw [List.mem_filter, upFrom_zero, List.mem_range, beq_iff_eq] at hi
    exact hfed i hi.1 hi.2
  split
  next g core b i hr =>
    obtain ⟨y, hy, hyb⟩ := Option.map_eq_some_iff.mp hr
    exact absurd hyb (hmsg y g core b i hy)
  next =>
    simp only [hf, hst, hc, hrej, hin, hd, hall, Bool.not_true, Bool.or_self, Bool.false_eq_true, if_false, Act.run_andThen]

end

theorem exec_gatingComplete_wedges (hp : f.phase = .gating) (hg : ∀ e ∈ f.entries, e.gated = true) :
    exec .gatingComplete s = .next ((Act.seq [
      modConf s.m.at_.cfg fun f => { f with phase := .wedging },
      Act.each f.entries fun e => Act.each (s.confColours s.m.at_.cfg) fun c =>
        entrySend s.m.at_.cfg e.rcd.port (mkTok c .wedge (Config.freeSeq s.m.free) [0]),
      Act.each (s.nodesOf s.m.at_.cfg) fun (core, i, n) => Act.when n.info.ins.isEmpty
        (modNode core i fun n => { n with wedges := s.confColours s.m.at_.cfg }),
      .mod fun m => { m with free := m.free + 1 }]).run s) := by
  have hall : f.entries.all EntryState.gated = true := List.all_eq_true.mpr hg
  change execGatingComplete s = _
  rw [execGatingComplete, Act.run_look]
  simp only [hf, hp, hall, ne_eq, not_true_eq_false, decide_false, Bool.not_true, Bool.or_self, Bool.false_eq_true, if_false]

theorem exec_wedgingComplete_settles (hp : f.phase = .wedging) (ha : s.allFrozen s.m.at_.cfg = true) :
    exec .wedgingComplete s = .next ((settle s.m.at_.cfg).run s) := by
  change execWedgingComplete s = _
  rw [execWedgingComplete, Act.run_look]
  simp only [hf, hp, ha, decide_true, Bool.and_self, if_true]

theorem exec_hardFreeze_settles (hp : f.phase = .wedging) : exec .hardFreeze s = .next ((settle s.m.at_.cfg).run
    ((Act.each (s.m.cores.filter fun y => f.holds y.1) fun y => Act.each y.2.acts fun z => interrupt y.1 z.1 z.2).run s)) := by
  change execHardFreeze s = _
  rw [execHardFreeze, Act.run_look]
  simp only [hf, hp, if_true, Act.run_andThen]

theorem exec_settlingComplete_saves (hp : f.phase = .settling) (hs : s.settled s.m.at_.cfg f = true) {g : ConfState} {v : Save}
    (hg : ((withdraw s.m.at_.cfg).run s).conf? s.m.at_.cfg = some g) (hv : g.save = some v) :
    exec .settlingComplete s = .next ((Act.seq [
      modConf s.m.at_.cfg fun h => { h with
        phase := .saving, save := some (((withdraw s.m.at_.cfg).run s).saveOf s.m.at_.cfg f v) },
      leaveTables s.m.at_.cfg f (((withdraw s.m.at_.cfg).run s).saveOf s.m.at_.cfg f v)]).run ((withdraw s.m.at_.cfg).run s)) := by
  change execSettlingComplete s = _
  rw [execSettlingComplete, Act.run_look]
  simp only [hf, hp, hs, ne_eq, not_true_eq_false, decide_false, Bool.not_true, Bool.or_self, Bool.false_eq_true, if_false, Act.run_andThen]
  rw [Act.run_look]
  simp only [hg, hv, Option.bind_some]

theorem exec_savingComplete_releases (hp : f.phase = .saving) : exec .savingComplete s = .next ((Act.seq [
    streamSave s.m.at_.cfg f, modConf s.m.at_.cfg fun f => { f with phase := .saved, slabs := [] },
    .when f.tearer.isNone (.pkg fun p => { p with bids := p.bids ++ [s.m.at_.cfg] }), answerPreempts, arbitrate]).run s) := by
  change execSavingComplete s = _
  rw [execSavingComplete, Act.run_look]
  simp only [hf, hp, ne_eq, not_true_eq_false, if_false]

theorem exec_restoreComplete_resident {v : Save} (hp : f.phase = .restored) (hv : f.save = some v) :
    exec .restoreComplete s = .next ((Act.seq [
      tellMoved v (s.moveOf f v), renameOutside s.m.at_.cfg v (s.moveOf f v), restoreUnits s.m.at_.cfg v (s.moveOf f v),
      restoreMem f v (s.moveOf f v), restoreCluster f v (s.moveOf f v),
      modConf s.m.at_.cfg fun g => { g with
        phase := .resident, save := none, yields := []
        moves := movedSites (sitesOf (v.slabs g.w g.h)) (s.moveOf f v) g.moves
        entries := g.entries.map fun e => { e with gated := g.tearer.isSome || !g.launched } },
      present f v (s.moveOf f v), Act.each v.cores fun y => wake ((s.moveOf f v).site y.1), restoreSessions s.m.at_.cfg f.vdev v,
      answerYields v (s.moveOf f v) f.yields, answerPreempts]).run s) := by
  change execRestoreComplete s = _
  rw [execRestoreComplete, Act.run_look]
  simp only [hf, hp, hv, ne_eq, not_true_eq_false, if_false]

end

/-- Settles O57, event by event. -/
theorem configurationEventsComplete : Obligations.ConfigurationEventsComplete := by
  unfold Obligations.ConfigurationEventsComplete
  refine ⟨fun s slab cfg f recs hc hrej hh haway hfed himg => ?wave, fun s n recs f => ?rewrite, fun s p t hn => ?seed,
    fun s x hx => ⟨fun cfg port u ahead f y hb ho hf hy => ?exits, fun cfg port c seq f e y hb hf he hy hg hr =>
      exec_reinjectRequest_enters hx hb hf he hy hg hr⟩, fun s w hw => exec_walkComplete_answers hw, fun s ls l r c => ?invalidations,
    fun s => ⟨exec_hoistRound_runs, exec_hoistRound_stopped, exec_arbiterRound_runs⟩,
    fun s k y a x hk hy hb ha hlow hx hp => ?unblock, fun s f hf => ?phases⟩
  case wave =>
    intro read t
    have hact {r : Except ImageEnd (List RawRec)} (h : read = r) :
        exec (.configWave slab recs) s = .next ((sectionAct s cfg slab f recs r).run s) :=
      h ▸ exec_configWave_reads hc hrej hh haway hfed himg
    have hcheck {raw : List RawRec} (h : read = .ok raw) (hi : rawBad raw = none) (ha : recsAgree raw recs = true)
        (hx : s.sectionBad f slab recs = none) : exec (.configWave slab recs) s = .next ((execConfigWave.checkSlab cfg slab).run t) := by
      rw [hact h, sectionAct]
      simp only [hi, ha, hx, Act.run_andThen]
      rfl
    refine ⟨hact, hact, fun raw i h hi => ?_, fun raw h hi ha => ?_, fun raw h hi ha => ⟨fun x hx => ?_, fun x hx hbad => ?_,
      fun hx hbad g hg => ⟨fun hw => ?_, fun hw hb he => ?_, fun x hw hb => ?_⟩⟩⟩
    · rw [hact h, sectionAct]
      simp only [hi]
    · rw [hact h, sectionAct]
      simp only [hi, ha, Act.run_quiet]
    · rw [hact h, sectionAct]
      simp only [hi, ha, hx]
    · exact (hcheck h hi ha hx).trans (congrArg _ (checkSlab_run_bad hbad))
    · exact (hcheck h hi ha hx).trans (congrArg _ (checkSlab_run_partial hbad hg hw))
    · exact (hcheck h hi ha hx).trans (congrArg _ (checkSlab_run_whole hbad hg hw hb he))
    · exact (hcheck h hi ha hx).trans (congrArg _ (checkSlab_run_rejected hbad hg hw hb))
  case rewrite =>
    intro core node m e hn hf
    exact ⟨fun ha => exec_partialReconfig_closes hn ha, fun ha hw hp hb he => exec_partialReconfig_rewrites hn hf ha hw hp hb he⟩
  case seed => exact ⟨exec_seedEnter_packet hn, _, exec_seedEnter_packet hn⟩
  case exits =>
    intro modExit
    exact ⟨fun hw he hp => exec_exitPortToken_leaves hx hb ho hf hy hw he hp, fun he => exec_exitPortToken_eos hx hb ho hf hy he,
      fun p he hp => exec_exitPortToken_poison hx hb ho hf hy he hp⟩
  case invalidations =>
    intro a
    refine ⟨fun hs => ?_, fun hs => ?_, ?_⟩
    · intro key n hit hp
      exact exec_placeInvalidationComplete_answers hs rfl rfl rfl hp
    · intro col first n hit keep dropped page ht
      exact exec_xlateInvalidationComplete_answers hs rfl rfl rfl rfl ht
    · intro col pinned
      exact ⟨syswCommit_run_refused, syswCommit_run_pends⟩
  case unblock =>
    have htakes := exec_queueUnblock_takes hk hy hb ha hlow hx hp
    refine ⟨fun hm => ?_, fun hm hbl hst => ?_⟩
    · rw [htakes, if_pos hm]
    · rw [htakes, if_neg (by rw [hm]; decide), if_pos hbl, if_pos (show (s.readDesc s.m.at_.queue).st = qBlocked from hst)]
  case phases =>
    intro slab
    refine ⟨fun hst hc hrej hin hd hfed hmsg => ?complete, exec_gatingComplete_wedges hf, exec_wedgingComplete_settles hf,
      exec_hardFreeze_settles hf, fun hp hs => ?settles, exec_savingComplete_releases hf,
      fun v hp hv => exec_restoreComplete_resident hf hp hv⟩
    case settles =>
      intro t g v hg hv
      have hslabs : f.slabs = g.slabs := by
        have hkept : t.m.slabs s.m.at_.cfg = s.m.slabs s.m.at_.cfg := withdraw_slabs s.m.at_.cfg s
        rw [Machine.slabs, Machine.slabs, show tget? t.m.pkg.confs _ = some g from hg, show tget? s.m.pkg.confs _ = some f from hf] at hkept
        exact (Option.some.inj hkept).symm
      rw [exec_settlingComplete_saves hf hp hs hg hv]
      simp only [Act.run_seq_cons]
      exact congrArg (fun u : State => Host.Outcome.next ((Act.seq []).run ((leaveTables s.m.at_.cfg f (t.saveOf s.m.at_.cfg f v)).run u)))
        (modConf_run_congr hg (p := fun h => { h with phase := .saving, save := some (t.saveOf s.m.at_.cfg f v) })
          (q := fun h => { h with phase := .saving, save := some (t.saveOf s.m.at_.cfg h v) }) (by rw [State.saveOf_congr hslabs]))
    case complete =>
      intro t
      have hrep := exec_configComplete_reports hf hst hc hrej hin hd hfed hmsg
      refine ⟨fun hp => ?_, fun hp hph => ?_, fun hp hph bs hbs => ?_⟩
      · rw [hrep, decide_eq_false hp, Act.run_when_false]
      · rw [hrep, decide_eq_true hp, Act.run_when_true]
        exact congrArg _ (complete_run_restoring (t := t) hph)
      · rw [hrep, decide_eq_true hp, Act.run_when_true]
        exact congrArg _ (complete_run_loading (t := t) hph hbs)

end Sys2Proof.Machine
end

section
/-! PROOF of O58: the host's apertures, the management page, the virtual devices' banks, starts, CXL links, power and heat. -/

namespace Sys2Proof.Machine

/-! ### The host's apertures (19 R313, R314) -/

section
variable {s : State} {size a n : Nat} {act : Act}

theorem hostAccess_run_ready (h : (s.m.pkg.mgmt.phase = 1 && hostForm size a n) = true) :
    (hostAccess size a n act).run s = act.run s := by
  rw [hostAccess, Act.run_look, if_pos h]

theorem hostAccess_run_refused (h : (s.m.pkg.mgmt.phase = 1 && hostForm size a n) = false) :
    (hostAccess size a n act).run s = (hostAnswer none).run s := by
  rw [hostAccess, Act.run_look, if_neg (by rw [h]; decide)]

end

theorem State.reserved_nil (s : State) : s.reserved [] = false := by
  simp only [State.reserved, List.any_nil, List.any_eq_false, Bool.false_eq_true, not_false_eq_true, implies_true]

/-- The words whose value is 1. -/
theorem filter_zip_snd_nil {ws : List Nat} {vs : List Lane} (h : 1 ∉ vs) : (ws.zip vs).filter (fun z => z.2 == 1) = [] := by
  rw [List.filter_eq_nil_iff]
  intro z hz h1
  exact h (eq_of_beq h1 ▸ (List.of_mem_zip hz).2)

/-- What a presence write does with one word and its value (R314). -/
def setWord (z : Nat × Lane) : Act := .look fun s =>
  if z.2 = 0 then clearWords (4 * z.1) 4
  else if z.2 = 1 then (setPres [z.1] .full).andThen (Act.when (s.presAt (4 * z.1) = .defer) (answerReaders [z.1]))
  else .quiet

section
variable {s : State} {a : Nat} {vs : List Lane}

theorem presenceWrite_run_refused (h : s.reserved ((((wordsOf a (4 * vs.length)).zip vs).filter fun z => z.2 == 1).map Prod.fst) = true) :
    (presenceWrite a vs).run s = (hostRefused a).run s := by
  rw [presenceWrite, Act.run_look, if_pos h]

theorem presenceWrite_run_sets (h : s.reserved ((((wordsOf a (4 * vs.length)).zip vs).filter fun z => z.2 == 1).map Prod.fst) = false) :
    (presenceWrite a vs).run s = (Act.each ((wordsOf a (4 * vs.length)).zip vs) setWord).run s := by
  rw [presenceWrite, Act.run_look, if_neg (by rw [h]; decide)]
  refine congrArg (fun f => (Act.each ((wordsOf a (4 * vs.length)).zip vs) f).run s) (funext fun z => ?_)
  obtain ⟨w, v⟩ := z
  refine congrArg Act.look (funext fun t => ?_)
  simp only [Act.when, decide_eq_true_eq]

end

/-! ### The registers of the management page (19 R327) -/

/-- A field of a register is the register under the field's mask. -/
theorem regField_eq_and (v : BitVec 64) {lo n : Nat} (h : lo ≤ n) : regField v lo n = v.toNat &&& (2 ^ n - 2 ^ lo) := by
  have hmask : 2 ^ n - 2 ^ lo = (2 ^ (n - lo) - 1) * 2 ^ lo := by
    rw [Nat.sub_mul, Nat.one_mul, ← Nat.pow_add, Nat.sub_add_cancel h]
  refine Nat.eq_of_testBit_eq fun i => ?_
  rw [regField, hmask, Nat.testBit_and, Nat.testBit_mul_two_pow, Nat.testBit_mul_two_pow, Nat.testBit_two_pow_sub_one,
    Nat.testBit_div_two_pow, Nat.testBit_mod_two_pow]
  by_cases hi : lo ≤ i
  · simp only [hi, decide_true, Bool.true_and, Nat.sub_add_cancel hi, show i - lo < n - lo ↔ i < n by omega]
    exact Bool.and_comm _ _
  · simp only [hi, decide_false, Bool.false_and, Bool.and_false]

theorem BitVec.ofNat_toNat_and (v : BitVec 64) (k : Nat) : BitVec.ofNat 64 (v.toNat &&& k) = v &&& BitVec.ofNat 64 k := by
  apply BitVec.eq_of_toNat_eq
  rw [BitVec.toNat_ofNat, BitVec.toNat_and, BitVec.toNat_ofNat, Nat.and_mod_two_pow, Nat.mod_eq_of_lt v.isLt]

/-- A field is the register's bits under its mask, as a bit vector. -/
theorem ofNat_regField (v : BitVec 64) {lo n : Nat} (h : lo ≤ n) :
    BitVec.ofNat 64 (regField v lo n) = v &&& BitVec.ofNat 64 (2 ^ n - 2 ^ lo) := by
  rw [regField_eq_and v h, BitVec.ofNat_toNat_and]

theorem regField_lt (v : BitVec 64) (lo n : Nat) : regField v lo n < 2 ^ n :=
  Nat.lt_of_le_of_lt (Nat.div_mul_le_self _ _) (Nat.mod_lt _ (Nat.two_pow_pos n))

/-- Two fields, one above the other, are the register's bits under both masks. -/
theorem ofNat_regField_add (v : BitVec 64) {lo mid hi top : Nat} (hlo : lo ≤ mid) (hm : mid ≤ hi) (ht : hi ≤ top) :
    BitVec.ofNat 64 (regField v hi top + regField v lo mid) = v &&& BitVec.ofNat 64 ((2 ^ top - 2 ^ hi) ||| (2 ^ mid - 2 ^ lo)) := by
  have hlow : regField v lo mid < 2 ^ hi := Nat.lt_of_lt_of_le (regField_lt v lo mid) (Nat.pow_le_pow_right (by decide) hm)
  have hor : regField v hi top + regField v lo mid = regField v hi top ||| regField v lo mid := by
    rw [regField, Nat.mul_comm _ (2 ^ hi)]
    exact Nat.two_pow_add_eq_or_of_lt hlow _
  rw [hor, regField_eq_and v ht, regField_eq_and v hlo, ← Nat.and_or_distrib_left, BitVec.ofNat_toNat_and]

/-- The fields of a virtual-device entry's words are the words under their masks (16 R266). -/
theorem vdentFields_eq (i : Fin 4) (v : BitVec 64) :
    vdentFields i.val v = v &&& [0xFFE0FFFFFFFFF000, 0xFFFFFFFFF000, 0xFFFFFFFFFFFF0000, 0].getD i.val 0 := by
  match i with
  | 0 => exact ofNat_regField_add v (lo := 12) (mid := 48) (hi := 53) (top := 64) (by decide) (by decide) (by decide)
  | 1 => exact ofNat_regField v (lo := 12) (n := 48) (by decide)
  | 2 =>
    have h := ofNat_regField_add v (lo := 16) (mid := 48) (hi := 48) (top := 64) (by decide) (by decide) (by decide)
    exact h
  | 3 => exact (BitVec.and_zero).symm

theorem regField_eq_toNat (v : BitVec 64) {lo n : Nat} (h : lo ≤ n) (hn : n ≤ 64) :
    regField v lo n = (v &&& BitVec.ofNat 64 (2 ^ n - 2 ^ lo)).toNat := by
  have hle : 2 ^ n ≤ 2 ^ 64 := Nat.pow_le_pow_right (by decide) hn
  rw [← ofNat_regField v h, BitVec.toNat_ofNat, Nat.mod_eq_of_lt (Nat.lt_of_lt_of_le (regField_lt v lo n) hle)]

theorem modMgmt_run (f : MgmtState → MgmtState) (s : State) :
    (modMgmt f).run s = { s with m := { s.m with pkg := { s.m.pkg with mgmt := f s.m.pkg.mgmt } } } := rfl

/-! ### Virtual devices (19 R328) -/

section
variable {s : State} {act : Act}

theorem served_run_taken (hj : s.m.at_.j ≠ 0) (hv : s.m.pkg.mgmt.vdcmd ≠ 1) : (served act).run s = (setVdcmd 1).run s := by
  rw [served, Act.run_look, if_pos (by rw [Bool.and_eq_true]; exact ⟨decide_eq_true hj, decide_eq_true hv⟩)]

theorem served_run_serves (h : s.m.at_.j = 0 ∨ s.m.pkg.mgmt.vdcmd = 1) : (served act).run s = act.run s := by
  rw [served, Act.run_look, if_neg]
  rw [Bool.and_eq_true, decide_eq_true_eq, decide_eq_true_eq]
  rintro ⟨hj, hv⟩
  exact h.elim hj hv

end

/-- Bit 63 of a word, as the model reads it. -/
theorem bits_sign (x : BitVec 64) : bits x.toNat 63 1 = 0 ↔ x.getLsbD 63 = false := bits_bit_zero _ _

section
variable {s : State} (hs : s.m.at_.j = 0 ∨ s.m.pkg.mgmt.vdcmd = 1)
include hs

theorem exec_vdcmdBind_refused
    (h : s.vdevInUse s.m.pkg.mgmt.vdsel.toNat = true ∨ (s.m.pkg.mgmt.vdent.getD 0 0).getLsbD 63 = false) :
    exec .vdcmdBind s = .next ((setVdcmd 2).run s) := by
  change execVdcmdBind s = _
  rw [execVdcmdBind, served_run_serves hs, Act.run_look, if_pos]
  rwa [Bool.or_eq_true, decide_eq_true_eq, bits_sign]

/-- The bank that a binding gives the device: read back from a save area that holds one, kept where it is bound, else of zeros. -/
theorem exec_vdcmdBind_binds {bank : Act} (hu : s.vdevInUse s.m.pkg.mgmt.vdsel.toNat = false)
    (hv : (s.m.pkg.mgmt.vdent.getD 0 0).getLsbD 63 = true)
    (hb : (if s.m.pkg.savedBanks.contains (bits (s.m.pkg.mgmt.vdent.getD 2 0).toNat 0 48) then
        (putBank s.m.pkg.mgmt.vdsel.toNat (s.bankAt (bits (s.m.pkg.mgmt.vdent.getD 2 0).toNat 0 48))).andThen
          (.pkg fun p => { p with savedBanks := p.savedBanks.filter (· ≠ bits (s.m.pkg.mgmt.vdent.getD 2 0).toNat 0 48) })
      else if bits (s.vdevWord s.m.pkg.mgmt.vdsel.toNat 0) 63 1 = 1 then .quiet
      else putBank s.m.pkg.mgmt.vdsel.toNat (List.replicate 64 0)) = bank) :
    exec .vdcmdBind s = .next ((Act.seq [bank,
      .pkg fun p => { p with vdevs := tset 0 p.vdevs s.m.pkg.mgmt.vdsel.toNat s.m.pkg.mgmt.entry }, setVdcmd 0]).run s) := by
  change execVdcmdBind s = _
  rw [execVdcmdBind, served_run_serves hs, Act.run_look, if_neg, hb]
  rw [Bool.or_eq_true, decide_eq_true_eq, bits_sign, hu, hv]
  decide

theorem exec_vdcmdRelease_refused (h : s.vdevInUse s.m.pkg.mgmt.vdsel.toNat = true) :
    exec .vdcmdRelease s = .next ((setVdcmd 2).run s) := by
  change execVdcmdRelease s = _
  rw [execVdcmdRelease, served_run_serves hs, Act.run_look, if_pos h]

variable (hu : s.vdevInUse s.m.pkg.mgmt.vdsel.toNat = false)
include hu

theorem exec_vdcmdRelease_unbound (h : ¬ bits (s.vdevWord s.m.pkg.mgmt.vdsel.toNat 0) 63 1 = 1) :
    exec .vdcmdRelease s = .next ((setVdcmd 0).run s) := by
  change execVdcmdRelease s = _
  rw [bits_bit, Bool.not_eq_true, ← bits_bit_zero] at h
  rw [execVdcmdRelease, served_run_serves hs, Act.run_look, if_neg (by rw [hu]; decide), if_pos h]

theorem exec_vdcmdRelease_releases (h : bits (s.vdevWord s.m.pkg.mgmt.vdsel.toNat 0) 63 1 = 1) :
    exec .vdcmdRelease s = .next ((Act.seq [
      putBytes (bits (s.vdevWord s.m.pkg.mgmt.vdsel.toNat 2) 0 48) ((upFrom 64 0).flatMap fun i =>
        leBytes 8 (tgetD (0 : BitVec 64) s.m.pkg.counters (s.m.pkg.mgmt.vdsel.toNat * 64 + i)).toNat),
      putBank s.m.pkg.mgmt.vdsel.toNat (List.replicate 64 0),
      .pkg fun p => { p with
        vdevs := tset 0 p.vdevs s.m.pkg.mgmt.vdsel.toNat
          (tgetD (0 : BitVec 256) s.m.pkg.vdevs s.m.pkg.mgmt.vdsel.toNat &&& ~~~(1#256 <<< 63))
        savedBanks := bits (s.vdevWord s.m.pkg.mgmt.vdsel.toNat 2) 0 48 ::
          p.savedBanks.filter (· ≠ bits (s.vdevWord s.m.pkg.mgmt.vdsel.toNat 2) 0 48) },
      setVdcmd 0]).run s) := by
  change execVdcmdRelease s = _
  rw [execVdcmdRelease, served_run_serves hs, Act.run_look, if_neg (by rw [hu]; decide), if_neg (by rw [h]; decide)]

end

/-! ### Starts (19 R326, R327) -/

section
variable {α : Type} {d v : α} {t : Tab α}

theorem tget?_mem {i : Nat} (h : tget? t i = some v) : (i, v) ∈ t := by
  induction t with
  | nil => cases h
  | cons p t ih =>
    obtain ⟨k, x⟩ := p
    by_cases hk : k = i
    · rw [tget?, if_pos hk] at h
      rw [← hk, ← Option.some.inj h]
      exact List.mem_cons_self
    · rw [tget?, if_neg hk] at h
      exact List.mem_cons_of_mem _ (ih h)

/-- In the canonical form, what is listed is what is read. -/
theorem tgetD_of_mem {i : Nat} (hc : Tab.canonical d t) (h : (i, v) ∈ t) : tgetD d t i = v := by
  induction t with
  | nil => cases h
  | cons p t ih =>
    obtain ⟨k, x⟩ := p
    obtain ⟨-, ha, hc⟩ := hc
    obtain heq | h := List.mem_cons.mp h
    · obtain ⟨rfl, rfl⟩ := Prod.mk.inj heq
      exact tgetD_cons_same _
    · rw [tgetD_cons_other (Nat.ne_of_lt (ha i v h)), ih hc h]

/-- What reads as another than an unlisted key is listed. -/
theorem mem_of_tgetD {i : Nat} (h : tgetD d t i = v) (hv : v ≠ d) : (i, v) ∈ t := by
  cases ht : tget? t i with
  | none => rw [tgetD, ht, Option.getD_none] at h; exact absurd h.symm hv
  | some x => rw [tgetD, ht, Option.getD_some] at h; exact tget?_mem (h ▸ ht)

end

/-- Zeros written over a list of entries. -/
theorem each_zero_run {s : State} (hs : s.wf) (xs : List (Nat × Byte)) (c : Nat) :
    let t := (Act.each xs fun x => fun _ => [.byte x.1 0]).run s
    t.byteAt c = (if c ∈ xs.map Prod.fst then 0 else s.byteAt c) ∧ t.presAt c = s.presAt c := by
  induction xs generalizing s with
  | nil => exact ⟨rfl, rfl⟩
  | cons x xs ih =>
    rw [Act.run_each_cons]
    obtain ⟨hb, hp⟩ := ih (State.eff_wf hs (.byte x.1 0))
    refine ⟨hb.trans ?_, hp⟩
    rw [List.map_cons]
    by_cases hx : c = x.1
    · subst hx
      rw [State.byteAt_byte_same hs, ite_self, if_pos List.mem_cons_self]
    · rw [State.byteAt_byte_other _ _ hx]
      exact ite_of_iff (by simp [hx]) rfl rfl

theorem clearBytes_run {s : State} (hs : s.wf) (p : Nat → Bool) (c : Nat) :
    ((clearBytes p).run s).byteAt c = (if p c then 0 else s.byteAt c) ∧ ((clearBytes p).run s).presAt c = s.presAt c := by
  rw [clearBytes, Act.run_look]
  obtain ⟨hb, hp⟩ := each_zero_run hs (s.mem.filter fun x => p x.1) c
  refine ⟨hb.trans ?_, hp⟩
  by_cases hc : p c
  · rw [if_pos hc, ite_eq_left_iff]
    intro hno
    refine Classical.byContradiction fun hne => ?_
    exact hno (List.mem_map.mpr ⟨(c, s.byteAt c), List.mem_filter.mpr ⟨mem_of_tgetD rfl hne, hc⟩, rfl⟩)
  · rw [if_neg hc, if_neg]
    intro hin
    obtain ⟨x, hx, rfl⟩ := List.mem_map.mp hin
    exact hc (List.mem_filter.mp hx).2

theorem clearPres_run {s : State} (hs : s.wf) (p : Nat → Bool) (c : Nat) :
    ((clearPres p).run s).presAt c = (if p (4 * (c / 4)) then .full else s.presAt c) ∧
    ((clearPres p).run s).byteAt c = s.byteAt c := by
  rw [clearPres, Act.run_look]
  refine ⟨(presAt_setPres hs _ _ c).trans ?_, byteAt_setPres _ _ _ _⟩
  by_cases hc : p (4 * (c / 4))
  · rw [if_pos hc, ite_eq_left_iff]
    intro hno
    refine Classical.byContradiction fun hne => ?_
    exact hno (List.mem_map.mpr ⟨(c / 4, s.presAt c), List.mem_filter.mpr ⟨mem_of_tgetD rfl hne, hc⟩, rfl⟩)
  · rw [if_neg hc, if_neg]
    intro hin
    obtain ⟨x, hx, hxc⟩ := List.mem_map.mp hin
    rw [← hxc] at hc
    exact hc (List.mem_filter.mp hx).2

/-- What a start does with HBM. -/
def startHbm (warm : Bool) : Act := Act.seq [
  Act.when (!warm) ((clearBytes isHbm).andThen (clearPres isHbm)),
  Act.when warm (.look fun s => setPres ((s.pres.filter fun x => isHbm (4 * x.1) && x.2 == .defer).map Prod.fst) .empty)]

theorem isHbm_word (c : Nat) : isHbm (4 * (c / 4)) = isHbm c := by
  simp only [isHbm, decide_eq_decide]
  omega

theorem startHbm_keeps {α : Sort _} (π : Machine → α) (warm : Bool) : (startHbm warm).Keeps π :=
  .cons (.when (.andThen (.look fun _ => .each fun _ _ => rfl) (.look fun _ => setPres_keeps π _ _)))
    (.cons (.when (.look fun _ => setPres_keeps π _ _)) .nil)

/-- A cold start leaves HBM as unwritten. -/
theorem startHbm_run_cold {s : State} (hs : s.wf) (c : Nat) :
    ((startHbm false).run s).byteAt c = (if isHbm c then 0 else s.byteAt c) ∧
    ((startHbm false).run s).presAt c = if isHbm c then .full else s.presAt c := by
  have hrun : (startHbm false).run s = (clearPres isHbm).run ((clearBytes isHbm).run s) := by
    rw [startHbm, Act.run_seq_cons, Act.run_seq_cons, Act.run_seq_nil, Bool.not_false, Act.run_when_true,
      Act.run_when_false, Act.run_andThen]
  obtain ⟨hb, hp⟩ := clearBytes_run hs isHbm c
  obtain ⟨hp', hb'⟩ := clearPres_run (Act.run_wf hs (clearBytes isHbm)) isHbm c
  rw [isHbm_word, hp] at hp'
  rw [hrun]
  exact ⟨hb'.trans hb, hp'⟩

/-- A warm start keeps HBM's bytes; a word with readers is EMPTY again. -/
theorem startHbm_run_warm {s : State} (hs : s.wf) (c : Nat) :
    ((startHbm true).run s).byteAt c = s.byteAt c ∧
    ((startHbm true).run s).presAt c = if isHbm c then (if s.presAt c = .defer then .empty else s.presAt c) else s.presAt c := by
  have hrun : (startHbm true).run s =
      (setPres ((s.pres.filter fun x => isHbm (4 * x.1) && x.2 == .defer).map Prod.fst) .empty).run s := by
    rw [startHbm, Act.run_seq_cons, Act.run_seq_cons, Act.run_seq_nil, Bool.not_true, Act.run_when_true, Act.run_when_false, Act.run_look]
  have hmem : c / 4 ∈ (s.pres.filter fun x => isHbm (4 * x.1) && x.2 == .defer).map Prod.fst ↔
      isHbm c = true ∧ s.presAt c = .defer := by
    rw [List.mem_map]
    constructor
    · rintro ⟨⟨w, v⟩, hx, rfl⟩
      obtain ⟨hin, hx⟩ := List.mem_filter.mp hx
      rw [Bool.and_eq_true, beq_iff_eq, isHbm_word] at hx
      exact ⟨hx.1, (tgetD_of_mem ((Tab.wf_iff _ _).mp hs.2) hin).trans hx.2⟩
    · rintro ⟨hh, hd⟩
      refine ⟨(c / 4, .defer), List.mem_filter.mpr ⟨mem_of_tgetD hd (by decide), ?_⟩, rfl⟩
      rw [isHbm_word, hh]
      rfl
  rw [hrun, presAt_setPres hs, byteAt_setPres]
  refine ⟨rfl, ?_⟩
  rw [ite_of_iff hmem rfl rfl, ite_of_and]

/-- What a start does with the machine's tables. -/
def Machine.started (m : Machine) (warm : Bool) : Machine := { m with
  net := []
  cores := []
  clusters := (m.clusters.filter fun x => x.2.stretched).map fun (i, _) => (i, { ClusterState.zero with stretched := true })
  pkg := m.pkg.started warm
  fab := m.fab.started warm (m.pkg.mgmt.boot + 1) }

theorem start_run (warm : Bool) (s : State) : (start warm).run s =
    (Act.mod fun m => m.started warm).run ((clearPres isHostHome).run ((clearPres isOnDie).run ((startHbm warm).run s))) := by
  rw [start, startHbm]
  simp only [Act.run_seq_cons, Act.run_seq_nil]
  rfl

theorem byteAt_run_mod (f : Machine → Machine) (s : State) (c : Nat) : ((Act.mod f).run s).byteAt c = s.byteAt c := rfl
theorem presAt_run_mod (f : Machine → Machine) (s : State) (c : Nat) : ((Act.mod f).run s).presAt c = s.presAt c := rfl

section
variable {s : State} (hs : s.wf) (warm : Bool) (c : Nat)

/-- A start keeps no state of a core, no token and no table of the package. -/
theorem start_run_tables : let t := (start warm).run s
    t.m.net = [] ∧ t.m.cores = [] ∧ t.m.pkg.mgmt.phase = (if Config.startFails (s.m.pkg.mgmt.boot + 1) then 2 else 1) ∧
    t.m.pkg.confs = [] ∧ t.m.pkg.queues = [] ∧ t.m.pkg.vdevs = [] ∧ t.m.pkg.counters =
      (if warm then s.m.pkg.counters.filter fun x => 2048 ≤ x.1 else []) := by
  have hpkg : ((clearPres isHostHome).run ((clearPres isOnDie).run ((startHbm warm).run s))).m.pkg = s.m.pkg :=
    ((Act.Keeps.look fun _ => setPres_keeps Machine.pkg _ _) _).trans
      (((Act.Keeps.look fun _ => setPres_keeps Machine.pkg _ _) _).trans (startHbm_keeps Machine.pkg warm s))
  intro t
  have ht : t.m.pkg = s.m.pkg.started warm := by
    rw [show t = _ from start_run warm s, Act.run_mod_m, Machine.started, hpkg]
  refine ⟨?_, ?_, ?_⟩
  · rw [show t = _ from start_run warm s, Act.run_mod_m, Machine.started]
  · rw [show t = _ from start_run warm s, Act.run_mod_m, Machine.started]
  · rw [ht]
    exact ⟨rfl, rfl, rfl, rfl, rfl⟩

include hs

/-- Off HBM a start writes no byte, and every presence bit that is not HBM's or a window's is FULL. -/
theorem start_run_memory : ((start warm).run s).byteAt c = ((startHbm warm).run s).byteAt c ∧
    ((start warm).run s).presAt c = if 2 ^ 56 ≤ c then .full else ((startHbm warm).run s).presAt c := by
  have hw : ((startHbm warm).run s).wf := Act.run_wf hs _
  obtain ⟨hpd, hbd⟩ := clearPres_run hw isOnDie c
  obtain ⟨hph, hbh⟩ := clearPres_run (Act.run_wf hw (clearPres isOnDie)) isHostHome c
  rw [start_run, byteAt_run_mod, presAt_run_mod]
  refine ⟨hbh.trans hbd, hph.trans ?_⟩
  rw [hpd, ← ite_of_or]
  refine ite_of_iff ?_ rfl rfl
  simp only [isHostHome, isOnDie, Bool.and_eq_true, decide_eq_true_eq]
  omega

end

theorem exec_powerOn (s : State) : exec .powerOn s = .next ((start false).run s) := rfl

section
variable {s : State}

theorem exec_startCold (h : s.m.pkg.mgmt.phase ≠ 0) : exec .startCold s = .next ((start false).run s) := by
  change execStartCold s = _
  rw [execStartCold, startAsked, Act.run_look, decide_eq_true h, Act.run_when_true]

theorem exec_startWarm (h : s.m.pkg.mgmt.phase ≠ 0) : exec .startWarm s = .next ((start true).run s) := by
  change execStartWarm s = _
  rw [execStartWarm, startAsked, Act.run_look, decide_eq_true h, Act.run_when_true]

theorem exec_start_starting (h : s.m.pkg.mgmt.phase = 0) : exec .startCold s = .next s ∧ exec .startWarm s = .next s := by
  constructor
  · change execStartCold s = _
    rw [execStartCold, startAsked, Act.run_look, decide_eq_false (not_not_intro h), Act.run_when_false]
  · change execStartWarm s = _
    rw [execStartWarm, startAsked, Act.run_look, decide_eq_false (not_not_intro h), Act.run_when_false]

end

/-! ### The queue table and doorbells (19 R328) -/

section
variable {s : State} {v : BitVec 64}

theorem exec_qtabWrite_taken (h : ∀ y ∈ s.m.pkg.queues, y.2.mapped = false ∧ y.2.blocked = false) :
    exec (.qtabWrite v) s = .next ((modMgmt fun m => { m with qtab := regField v 6 48 }).run s) := by
  change execQtabWrite v s = _
  rw [execQtabWrite, Act.run_look, if_neg]
  rw [List.any_eq_true]
  rintro ⟨⟨q, x⟩, hy, hon⟩
  obtain ⟨hm, hb⟩ := h (q, x) hy
  exact (Bool.or_eq_true _ _).mp hon |>.elim (ne_true_of_eq_false hm) (ne_true_of_eq_false hb)

theorem exec_qtabWrite_ignored (h : ∃ y ∈ s.m.pkg.queues, y.2.mapped = true ∨ y.2.blocked = true) :
    exec (.qtabWrite v) s = .next s := by
  obtain ⟨y, hy, hon⟩ := h
  change execQtabWrite v s = _
  rw [execQtabWrite, Act.run_look, if_pos, Act.run_quiet]
  rw [List.any_eq_true]
  exact ⟨y, hy, (Bool.or_eq_true _ _).mpr hon⟩

end

section
variable {s : State} {q : BitVec 12}

theorem exec_qdoor_queues (hq : (dropIdle.run s).m.pkg.mgmt.qtab ≠ 0)
    (hk : ¬ ∃ x, (dropIdle.run s).queue? q.toNat = some x ∧ x.frozen = false ∧ x.blocked = false)
    (hst : ((dropIdle.run s).readDesc q.toNat).st = qWaiting) :
    exec (.qdoor q) s = .next ((requeue q.toNat).run ((dropReads q.toNat).run (dropIdle.run s))) := by
  change execQdoor q s = _
  rw [execQdoor, Act.run_andThen, Act.run_look]
  cases hx : (dropIdle.run s).queue? q.toNat with
  | none => simp only [hx, hq, hst, ne_eq, not_true_eq_false, decide_false, Bool.or_self, Bool.false_eq_true, if_false, Act.run_andThen]
  | some x =>
    have hx' : (!x.frozen && !x.blocked) = false := by
      rw [Bool.eq_false_iff, ne_eq, Bool.and_eq_true, Bool.not_eq_true', Bool.not_eq_true']
      exact fun h => hk ⟨x, hx, h⟩
    simp only [hx, hq, hst, hx', ne_eq, not_true_eq_false, decide_false, Bool.or_self, Bool.false_eq_true, if_false, Act.run_andThen]

theorem exec_qdoor_ignored (h : (dropIdle.run s).m.pkg.mgmt.qtab = 0 ∨
    (∃ x, (dropIdle.run s).queue? q.toNat = some x ∧ x.frozen = false ∧ x.blocked = false) ∨
    ((dropIdle.run s).readDesc q.toNat).st ≠ qWaiting) :
    exec (.qdoor q) s = .next (dropIdle.run s) := by
  change execQdoor q s = _
  rw [execQdoor, Act.run_andThen, Act.run_look]
  obtain hq | ⟨x, hx, hf, hb⟩ | hst := h
  · simp only [hq, decide_true, Bool.true_or, if_true, Act.run_quiet]
  · simp only [hx, hf, hb, Bool.not_false, Bool.and_self, Bool.or_true, Bool.true_or, if_true, Act.run_quiet]
  · simp only [hst, ne_eq, not_false_eq_true, decide_true, Bool.or_true, if_true, Act.run_quiet]

end

/-! ### Links, power and heat (19 R312, R324, R325) -/

section
variable {s : State}

theorem exec_cxlLinkDown_poisons (hp : s.m.at_.port < 4) (hd : s.m.pkg.cxlDown.contains s.m.at_.port = false) :
    exec .cxlLinkDown s = .next ((Act.seq [
      .pkg fun p => { p with cxlDown := s.m.at_.port :: p.cxlDown }, setPool (41000 + s.m.at_.port) [],
      Act.each (s.pool (41000 + s.m.at_.port)) fun e => answer (41000 + s.m.at_.port) e.req.who e.req.piece .poison,
      recordIn 0 { Record.blank with code := Code.cxlLink }]).run s) := by
  change execCxlLinkDown s = _
  rw [execCxlLinkDown, Act.run_look, if_neg]
  rw [hd, Bool.false_or, decide_eq_true_eq]
  omega

theorem exec_hbmScrub (n : Nat) (s : State) :
    exec (.hbmScrub n) s = .next (if 128 * n < hbmSize then (checked (128 * n) 128).run s else s) := by
  change execHbmScrub n s = _
  rw [execHbmScrub]
  by_cases h : 128 * n < hbmSize
  · rw [decide_eq_true h, Act.run_when_true, if_pos h]
  · rw [decide_eq_false h, Act.run_when_false, if_neg h]

theorem exec_thermalThrottle (h : s.m.at_.die < 8) : exec .thermalThrottle s =
    .next ((Act.pkg fun p => { p with throttled := s.m.at_.die :: p.throttled.filter (· ≠ s.m.at_.die) }).run s) := by
  change execThermalThrottle s = _
  rw [execThermalThrottle, decide_eq_true h, Act.run_when_true]

theorem exec_thermalStop (h : s.m.at_.die < 8) (hd : s.m.pkg.stopped.contains s.m.at_.die = false) :
    exec .thermalStop s = .next ((recordIn 0 { Record.blank with code := Code.thermal, site := siteId s.m.at_.die 0 0 }).run
      ((Act.pkg fun p => { p with stopped := s.m.at_.die :: p.stopped }).run s)) := by
  change execThermalStop s = _
  rw [execThermalStop, Act.run_look, if_neg, Act.run_andThen]
  rw [hd, Bool.false_or, decide_eq_true_eq]
  omega

end

/-! ### The host's accesses -/

section
variable {s : State} {a : Nat} {bs : List Byte}

theorem exec_hostDataRead_ready {n : Nat} (h : (s.m.pkg.mgmt.phase = 1 && hostForm hbmSize a n) = true) :
    exec (.hostDataRead a n) s = .next ((hostAnswer (some (s.bytesAt a n))).run s) := by
  change execHostDataRead a n s = _
  rw [execHostDataRead, hostAccess_run_ready h, Act.run_look]

theorem exec_hostPresenceRead_ready {n : Nat} (h : (s.m.pkg.mgmt.phase = 1 && hostForm hbmSize a n) = true) :
    exec (.hostPresenceRead ⟨a, n⟩) s = .next
      ((hostAnswer (some ((wordsOf a n).flatMap fun w => leBytes 4 (presBits (s.presAt (4 * w)))))).run s) := by
  change execHostPresenceRead ⟨a, n⟩ s = _
  rw [execHostPresenceRead, hostAccess_run_ready h, Act.run_look]

section
variable (h : (s.m.pkg.mgmt.phase = 1 && hostForm hbmSize a bs.length) = true)
include h

theorem exec_hostDataWrite_ready : exec (.hostDataWrite a bs) s = .next
    ((if s.reserved (wordsOf a bs.length) then hostRefused a else (fill a bs).andThen dropIdle).run s) := by
  change execHostDataWrite a bs s = _
  rw [execHostDataWrite, hostAccess_run_ready h, Act.run_look]

theorem exec_hostCheckedWrite_refused
    (hr : s.reserved (wordsOf a bs.length) = true ∨ ∃ w ∈ wordsOf a bs.length, s.presAt (4 * w) = .full ∨ s.presAt (4 * w) = .err) :
    exec (.hostCheckedWrite a bs) s = .next ((hostRefused a).run s) := by
  change execHostCheckedWrite a bs s = _
  rw [execHostCheckedWrite, hostAccess_run_ready h, Act.run_look, if_pos]
  rw [Bool.or_eq_true, List.any_eq_true]
  exact hr.imp_right fun ⟨w, hw, hv⟩ => ⟨w, hw, by rwa [Bool.or_eq_true, decide_eq_true_eq, decide_eq_true_eq]⟩

theorem exec_hostCheckedWrite_writes (hr : s.reserved (wordsOf a bs.length) = false)
    (hw : ∀ w ∈ wordsOf a bs.length, s.presAt (4 * w) = .empty ∨ s.presAt (4 * w) = .defer) :
    exec (.hostCheckedWrite a bs) s = .next (((fill a bs).andThen dropIdle).run s) := by
  change execHostCheckedWrite a bs s = _
  rw [execHostCheckedWrite, hostAccess_run_ready h, Act.run_look, if_neg]
  rw [hr, Bool.false_or, List.any_eq_true]
  rintro ⟨w, hin, hv⟩
  rw [Bool.or_eq_true, decide_eq_true_eq, decide_eq_true_eq] at hv
  obtain he | he := hw w hin <;> rw [he] at hv <;> exact absurd hv (by decide)

end

variable {vs : List Lane} (h : (s.m.pkg.mgmt.phase = 1 && hostForm hbmSize a (4 * vs.length)) = true)
include h

theorem exec_hostPresenceClear_ready (h1 : 1 ∉ vs) :
    exec (.hostPresenceClear ⟨a, vs⟩) s = .next ((Act.each ((wordsOf a (4 * vs.length)).zip vs) setWord).run s) := by
  change execHostPresenceClear ⟨a, vs⟩ s = _
  have hc : vs.contains 1 = false := by simpa using h1
  rw [execHostPresenceClear, hostAccess_run_ready h]
  dsimp only
  rw [hc, Bool.not_false, Act.run_when_true, presenceWrite_run_sets]
  rw [filter_zip_snd_nil h1, List.map_nil, State.reserved_nil]

theorem exec_hostPresenceSet_ready (h1 : 1 ∈ vs) :
    exec (.hostPresenceSet ⟨a, vs⟩) s = .next ((presenceWrite a vs).run s) := by
  change execHostPresenceSet ⟨a, vs⟩ s = _
  have hc : vs.contains 1 = true := by simpa using h1
  rw [execHostPresenceSet, hostAccess_run_ready h]
  dsimp only
  rw [hc, Act.run_when_true]

end

/-- Settles O58: each clause from the lemma of its event. -/
theorem packageEventsComplete : Obligations.PackageEventsComplete := by
  unfold Obligations.PackageEventsComplete
  refine ⟨fun s a n bs => ?host, fun s v => ?registers, fun s q => ?doorbell, fun s => ?devices, fun s hs => ?starts, fun s => ?power⟩
  case host =>
    intro ready no refused ws
    refine ⟨exec_hostDataRead_ready, fun h => congrArg _ (hostAccess_run_refused h),
      fun h => ⟨congrArg _ (hostAccess_run_refused h), congrArg _ (hostAccess_run_refused h)⟩,
      fun h => ⟨fun hr => ⟨?_, ?_⟩, fun hr => ⟨?_, ?_, ?_⟩⟩,
      exec_hostPresenceRead_ready, fun h => congrArg _ (hostAccess_run_refused h), fun vs => ?presence,
      fun h => congrArg _ (hostAccess_run_ready h), fun h => congrArg _ (hostAccess_run_refused h)⟩
    · exact (exec_hostDataWrite_ready h).trans (by rw [if_pos hr])
    · exact exec_hostCheckedWrite_refused h (.inl hr)
    · exact (exec_hostDataWrite_ready h).trans (by rw [if_neg (by rw [hr]; decide)])
    · exact exec_hostCheckedWrite_writes h hr
    · exact fun hv => exec_hostCheckedWrite_refused h (.inr hv)
    case presence =>
      intro zs set
      refine ⟨fun h => ⟨exec_hostPresenceClear_ready h, fun h1 hr => ?_, fun h1 hr => ?_⟩,
        fun h => ⟨congrArg _ (hostAccess_run_refused h), congrArg _ (hostAccess_run_refused h)⟩⟩
      · exact (exec_hostPresenceSet_ready h h1).trans (congrArg _ (presenceWrite_run_refused hr))
      · exact (exec_hostPresenceSet_ready h h1).trans (congrArg _ (presenceWrite_run_sets hr))
  case registers =>
    intro on
    have hset {reg : MgmtReg} {α : Type} {x y : α} (f : α → MgmtState → MgmtState)
        (he : exec (.mgmtRegisterWrite reg v) s = .next ((modMgmt (f x)).run s)) (h : x = y) : on (.mgmtRegisterWrite reg v) (f y) :=
      he.trans (by rw [h]; rfl)
    exact ⟨hset (fun x m => { m with vdsel := x }) rfl (BitVec.setWidth_eq_extractLsb' (by decide)),
      fun i => hset (fun x m => { m with vdent := setAt m.vdent i.val x }) rfl (vdentFields_eq i v),
      hset (fun x m => { m with c0root := x }) rfl (regField_eq_toNat v (lo := 12) (n := 48) (by decide) (by decide)),
      hset (fun x m => { m with c0farea := x }) rfl (regField_eq_toNat v (lo := 5) (n := 48) (by decide) (by decide)),
      hset (fun x m => { m with c0nrec := x }) rfl (regField_eq_toNat v (lo := 0) (n := 32) (by decide) (by decide)),
      hset (fun x m => { m with c0spoil := x }) rfl (ofNat_regField v (lo := 24) (n := 64) (by decide)),
      hset (fun x m => { m with c0ptab := x }) rfl (regField_eq_toNat v (lo := 12) (n := 48) (by decide) (by decide)),
      fun h => (exec_qtabWrite_taken h).trans (congrArg (fun x => Host.Outcome.next ((modMgmt fun m => { m with qtab := x }).run s))
        (regField_eq_toNat v (lo := 6) (n := 48) (by decide) (by decide))), exec_qtabWrite_ignored⟩
  case doorbell => exact ⟨exec_qdoor_queues, exec_qdoor_ignored⟩
  case devices =>
    intro v save bound ends
    refine ⟨fun hj hv => ⟨congrArg _ (served_run_taken hj hv), congrArg _ (served_run_taken hj hv)⟩,
      fun hs => ⟨fun hu hv => ⟨fun hb => ?_, fun hb hbd => ?_, fun hb hbd => ?_⟩, fun hu => ⟨exec_vdcmdBind_refused hs (.inl hu), exec_vdcmdRelease_refused hs hu⟩,
      fun hv => exec_vdcmdBind_refused hs (.inr hv), exec_vdcmdRelease_unbound hs, exec_vdcmdRelease_releases hs⟩⟩
    · exact exec_vdcmdBind_binds hs hu hv (if_pos hb)
    · exact exec_vdcmdBind_binds hs hu hv (by rw [if_neg (by rw [hb]; decide), if_pos hbd])
    · exact exec_vdcmdBind_binds hs hu hv (by rw [if_neg (by rw [hb]; decide), if_neg hbd])
  case starts =>
    intro phase
    refine ⟨⟨_, exec_powerOn s, exec_startCold, fun a ha => ?_, fun a ha => ?_, fun a ha => ?_, ?_⟩,
      fun hp => ⟨_, exec_startWarm hp, fun a => ?_, fun a ha => ?_, fun a ha => ?_, ?_⟩, exec_start_starting⟩
    · rw [(start_run_memory hs false a).1, (startHbm_run_cold hs a).1, if_pos (show isHbm a = true from decide_eq_true ha)]
    · rw [(start_run_memory hs false a).2, (startHbm_run_cold hs a).2]
      obtain ha | ha := ha
      · rw [if_pos (show isHbm a = true from decide_eq_true ha), ite_self]
      · rw [if_pos ha]
    · rw [(start_run_memory hs false a).1, (startHbm_run_cold hs a).1, if_neg (by rw [isHbm, decide_eq_true_eq]; omega)]
    · exact start_run_tables false
    · rw [(start_run_memory hs true a).1, (startHbm_run_warm hs a).1]
    · rw [(start_run_memory hs true a).2, if_neg (by omega), (startHbm_run_warm hs a).2,
        if_pos (show isHbm a = true from decide_eq_true ha)]
    · rw [(start_run_memory hs true a).2, if_pos ha]
    · obtain ⟨hnet, hcores, hphase, hconfs, hqueues, hvdevs, -⟩ := start_run_tables (s := s) true
      exact ⟨hnet, hcores, hphase, hconfs, hqueues, hvdevs⟩
  case power =>
    exact ⟨exec_cxlLinkDown_poisons, rfl, rfl, fun n => exec_hbmScrub n s, fun _ => rfl, rfl, rfl,
      exec_thermalThrottle, exec_thermalStop⟩

end Sys2Proof.Machine
end

section
/-! PROOF of O59: the link table, the messages of collectives, their admission and completion, fabric barriers, links and seams. -/

namespace Sys2Proof.Machine

/-! ### The live link table (22 R360) -/

section
variable {s : State} {c : LltCopy}

theorem exec_lltFlood_newer (h : ∀ x, tget? s.m.fab.copies c.id.toNat = some x → x.gen < c.gen) :
    exec (.lltFlood c) s = .next ((Act.seq [
      .fab fun f => { f with copies := tput f.copies c.id.toNat c, gen := max f.gen c.gen }, fabSend (.flood c), ackTable]).run s) := by
  change execLltFlood c s = _
  rw [execLltFlood, Act.run_look]
  cases hx : tget? s.m.fab.copies c.id.toNat with
  | none => simp only [Bool.not_true, Bool.false_eq_true, if_false]
  | some x => simp only [decide_eq_true (h x hx), Bool.not_true, Bool.false_eq_true, if_false]

theorem exec_lltFlood_old {x : LltCopy} (hx : tget? s.m.fab.copies c.id.toNat = some x) (h : c.gen ≤ x.gen) :
    exec (.lltFlood c) s = .next s := by
  change execLltFlood c s = _
  rw [execLltFlood, Act.run_look]
  simp only [hx, decide_eq_false (Nat.not_lt.mpr h), Bool.not_false, if_true, Act.run_quiet]

end

/-- An acknowledgement noted. -/
def noteAck (id : BitVec 12) (g : Nat) (d : List Byte) : Act := .fab fun f => { f with acks := tput f.acks id.toNat (g, d) }

theorem exec_lltAck (id : BitVec 12) (g : Nat) (d : List Byte) (s : State) :
    exec (.lltAck id g d) s = .next ((if g = s.m.fab.gen ∧ d ≠ ((noteAck id g d).run s).m.fab.digest ∧ s.m.fab.pkg.toNat < id.toNat
      then floodOwn else tryAgree).run ((noteAck id g d).run s)) := by
  change execLltAck id g d s = _
  rw [execLltAck, Act.run_andThen, Act.run_look]
  simp only [Bool.and_eq_true, decide_eq_true_eq, and_assoc]
  rfl

/-! ### What reaches the collective engine (22 R363, R368, R369) -/

section
variable {s : State} {m : CollIn} {act : Act}

theorem collIn_run_take (h : s.intake m = .take act) : (collIn m).run s = retryEarly.run (act.run s) := by
  rw [collIn, Act.run_look]
  simp only [h, Act.run_andThen]

theorem collIn_run_wait (h : s.intake m = .wait) : (collIn m).run s = retryEarly.run ((collEarly m).run s) := by
  rw [collIn, Act.run_look]
  simp only [h, Act.run_andThen]

variable {g : Nat} (hg : m.gen? = some g)
include hg

theorem State.intake_earlier (h : g < s.fabGen) : s.intake m = .take .quiet := by
  rw [State.intake, hg]
  simp only [h, if_true]

theorem State.intake_later (h : s.fabGen < g) : s.intake m = .wait := by
  rw [State.intake, hg]
  simp only [Nat.lt_asymm h, h, if_false, if_true]

theorem State.intake_agreed (h : g = s.fabGen) : s.intake m = s.collGate m := by
  rw [State.intake, hg]
  simp only [h, Nat.lt_irrefl, if_false]

end

section
variable {s : State} {k : CollMsg} {r : MarkReport} {pkg : BitVec 12} {data : List (List (Option Lane))}
  {row : List (Option Lane)} {c : Coll}

theorem Coll.over_eq_false (hf : c.finished = false) (hs : c.status = none) : c.over_ = false := by
  rw [Coll.over_, hf, hs]
  rfl

section
variable (hin : s.fabSelf ∈ k.group)
include hin

/-- A child's report comes to a collective of the generation that has started and not yet reported. -/
theorem State.collGate_marks_up {q : BitVec 12} (hr : r.child = some q)
    (hc : s.m.fab.colls.find? (fun c => c.of k && c.gen == k.gen && c.takesPart && !c.reported &&
      !c.reports.any fun x => x.1 == q.toNat) = some c) :
    s.collGate (.marks k r) =
      .take ((modColl c.id fun x => { x with reports := x.reports ++ [(q.toNat, r)] }).andThen (collReport c.id)) := by
  simp only [State.collGate, List.contains_iff_mem.mpr hin, hr, hc, Bool.not_true, Bool.false_eq_true, if_false]

/-- The whole of the marks comes from the root. -/
theorem State.collGate_marks_down (hr : r.child = none)
    (hc : s.m.fab.colls.find? (fun c => c.of k && c.gen == k.gen && c.takesPart && c.reported && !c.dealt) = some c)
    (hf : c.frozen = false) (hfar : s.startFar c c.group.length = false) :
    s.collGate (.marks k r) = .take ((fabSend (.marks k r)).andThen (collDeal c.id r)) := by
  simp only [State.collGate, List.contains_iff_mem.mpr hin, hr, hc, hf, hfar, Bool.and_false, Bool.or_self, Bool.not_true,
    Bool.false_eq_true, if_false]

theorem State.collGate_none (hc : s.collHas k = none) :
    s.collGate (.up k pkg data) = .wait ∧ s.collGate (.down k row) = .wait := by
  simp only [State.collGate, List.contains_iff_mem.mpr hin, hc, Bool.not_true, Bool.false_eq_true, if_false, and_self]

variable (hc : s.collHas k = some c)
include hc

theorem State.collGate_up (hf : c.finished = false) (hs : c.status = none) :
    s.collGate (.up k pkg data) = .take ((modColl c.id fun x => { x with
      partials := x.partials ++ [(k.chunk, pkg.toNat, data)] }).andThen (collUp c.id k.chunk k.tree)) := by
  simp only [State.collGate, List.contains_iff_mem.mpr hin, hc, Coll.over_eq_false hf hs, Bool.not_true, Bool.false_eq_true, if_false]

theorem State.collGate_down : s.collGate (.down k row) = s.downGate c k row := by
  simp only [State.collGate, List.contains_iff_mem.mpr hin, hc, Bool.not_true, Bool.false_eq_true, if_false]

theorem State.collGate_commit : s.collGate (.commit k) = s.commitGate c k := by
  simp only [State.collGate, List.contains_iff_mem.mpr hin, hc, Bool.not_true, Bool.false_eq_true, if_false]

/-- The root notes who has written. -/
theorem State.collGate_dstAck_root {t : Tree} (ht : s.fabTrees[k.tree]? = some t) (hroot : t.root = s.fabSelf) :
    s.collGate (.dstAck k pkg) = .take (modColl c.id fun x => { x with acks := (k.chunk, pkg.toNat) :: x.acks }) := by
  simp only [State.collGate, List.contains_iff_mem.mpr hin, hc, ht, Option.map_some, hroot, ne_eq, not_true_eq_false, Bool.not_true,
    Bool.false_eq_true, if_false]

end

theorem State.collGate_dstAck_on {t : Tree} (ht : s.fabTrees[k.tree]? = some t) (hroot : t.root ≠ s.fabSelf) :
    s.collGate (.dstAck k pkg) = .take (fabSend (.dstAck k pkg)) := by
  simp only [State.collGate, ht, Option.map_some, ne_eq, Option.some.injEq, hroot, not_false_eq_true, if_true]

/-- The range of a participant's DST that a row of a chunk covers: its address and its length. -/
def rowRange (s : State) (c : Coll) (k : CollMsg) (len : Nat) : Nat × Nat :=
  let o := c.cmd.collPar.output c.group.length (rankIn c.group s.fabSelf)
  (o.2.2 + (max o.1 (65536 * k.chunk) - o.1), min o.2.1 (65536 * k.chunk + 4 * len) - max o.1 (65536 * k.chunk))

theorem State.downGate_result (hf : c.finished = false) (hs : c.status = none) (hsent : c.sent.contains k.chunk = true)
    (hw : c.wrote.contains k.chunk = false) (hz : c.frozen = false)
    (hh : ∃ hs, collHomes s c.cmd (rowRange s c k row.length).1 (rowRange s c k row.length).2 true = .ok hs)
    (hfar : s.collFar c.cmd (rowRange s c k row.length).1 (rowRange s c k row.length).2 true = false) :
    s.downGate c k row = .take (collResult c.id k row) := by
  obtain ⟨homes, hh⟩ := hh
  dsimp only [rowRange] at hh hfar
  rw [State.downGate]
  simp only [Coll.over_eq_false hf hs, hsent, hw, hz, hh, hfar, Bool.or_self, Bool.not_true, Bool.false_eq_true, if_false]

/-- The mark of a chunk, written at its home and known here (22 R368, R382). -/
def markWrite (c : Coll) (k : CollMsg) (h : Nat) (m : PageMode) : Act :=
  (engineWrite c.cmd.who.colour h m (plainBytes (leBytes 4 (markWord k.tree k.gen).toNat))).andThen
    (modColl c.id fun x => { x with full := (k.chunk, markWord k.tree k.gen) :: x.full, marks := k.chunk :: x.marks })

theorem State.commitGate_writes {h : Nat} {m : PageMode} (hf : c.finished = false) (hs : c.status = none) (hz : c.frozen = false)
    (hm : c.marked k.chunk = false) (hw : chunkHeld k (rankIn c.group s.fabSelf) = true → c.wrote.contains k.chunk = true)
    (hh : engineHome s c.cmd classC .g (c.cmd.collPar.mark + 4 * k.chunk) 4 true = .ok (h, m))
    (ha : s.away (siteDie c.cmd.who.core) h = false) (hr : s.engineRefusal h 4 m = none) :
    s.commitGate c k = .take ((fabSend (.commit k)).andThen (markWrite c k h m)) := by
  have hgate : s.markGate c k.chunk (markWord k.tree k.gen) = .take (markWrite c k h m) := by
    rw [State.markGate]
    simp only [hh, ha, hr, Bool.false_eq_true, if_false, markWrite]
  have hheld : (chunkHeld k (rankIn c.group s.fabSelf) && !c.wrote.contains k.chunk) = false := by
    rw [Bool.eq_false_iff, ne_eq, Bool.and_eq_true, Bool.not_eq_true', ← Bool.not_eq_true]
    exact fun h => h.2 (hw h.1)
  rw [State.commitGate]
  simp only [Coll.over_eq_false hf hs, hz, hheld, hm, hgate, Bool.or_self, Bool.false_eq_true, if_false]

/-! ### The commit of a chunk -/

section
variable {t : Tree} (ht : s.fabTrees[k.tree]? = some t)
include ht

theorem exec_collChunkCommit_arrives (hroot : t.root ≠ s.fabSelf) : exec (.collChunkCommit k) s = .next ((collIn (.commit k)).run s) := by
  change execCollChunkCommit k s = _
  rw [execCollChunkCommit, Act.run_look, if_pos]
  rw [ht, Option.map_some, ne_eq, Option.some.injEq]
  exact hroot

theorem exec_collChunkCommit_root (hroot : t.root = s.fabSelf) (hg : k.gen = s.fabGen) (hin : s.fabSelf ∈ k.group) :
    (s.allAcked k = false → exec (.collChunkCommit k) s = .next s) ∧
    (∀ (c : Coll) (act : Act), s.allAcked k = true → s.collHas k = some c → c.marked k.chunk = false → c.frozen = false →
      s.commitGate c k = .take act →
      exec (.collChunkCommit k) s = .next (act.run s)) := by
  have hself : ¬ (s.fabTrees[k.tree]?.map Tree.root) ≠ some s.fabSelf := by
    rw [ht, Option.map_some, hroot]
    exact not_not_intro rfl
  change (_ → execCollChunkCommit k s = _) ∧ ∀ c act, _ → _ → _ → _ → _ → execCollChunkCommit k s = _
  rw [execCollChunkCommit, Act.run_look, if_neg hself]
  constructor
  · intro ha
    simp only [ha, Bool.not_false, Bool.or_true, if_true, Act.run_quiet]
  · intro c act ha hc hm hz hgate
    simp only [hg, ha, hc, hm, hz, hgate, List.contains_iff_mem.mpr hin, ne_eq, not_true_eq_false, decide_false, Bool.not_true,
      Bool.or_self, Bool.false_eq_true, if_false]

end

end

/-! ### Aborts, admission and completion (22 R363, R371, R372) -/

section
variable {s : State} {colour : Colour} {tag : BitVec 32} {c : Coll}

theorem State.intake_abort (hc : s.collKey colour tag = some c) :
    s.intake (.abort colour tag) = if c.admitted then .take (collAbortHere c) else .wait := by
  change s.collGate (.abort colour tag) = _
  simp only [State.collGate, hc]

theorem exec_collAdmit_starts (hn : (s.m.fab.colls.countP fun c => c.admitted && !c.finished) < 16) (hc : s.collNext = some c) :
    exec .collAdmit s = .next ((Act.seq [.fab fun f => { f with rrColl := (c.vdev + 1) % 33 },
      modColl c.id fun x => { x with admitted := true }, collStart c.id, retryEarly]).run s) := by
  change execCollAdmit s = _
  rw [List.countP_eq_length_filter] at hn
  rw [execCollAdmit, Act.run_look, if_neg (Nat.not_le.mpr hn)]
  simp only [hc]

theorem exec_collComplete_answers (hc : s.coll? s.m.at_.id = some c) (hf : c.finished = false) (hp : s.presents c.cmd.cfg = true)
    (hend : (∃ v, c.status = some v) ∨ c.frozen = false ∧ c.begun = true ∧ ∀ i < c.chunks, c.marked i = true) :
    exec .collComplete s = .next ((Act.seq [modColl c.id fun x => { x with finished := true }, cmdDone c.cmd classC,
      cmdReply (collUnit c.id) c.cmd [BitVec.ofNat 32 (c.status.getD 0), BitVec.ofNat 32 c.redone, BitVec.ofNat 32 s.agreedTable.1,
        BitVec.ofNat 32 c.lost]]).run s) := by
  have hstop : (c.frozen && c.status.isNone) = false := by
    obtain ⟨v, hv⟩ | ⟨hz, -, -⟩ := hend
    · rw [hv, Option.isNone_some, Bool.and_false]
    · rw [hz, Bool.false_and]
  have hdone : (c.status.isSome || (c.begun && (upFrom c.chunks 0).all c.marked)) = true := by
    obtain ⟨v, hv⟩ | ⟨-, hb, hm⟩ := hend
    · rw [hv, Option.isSome_some, Bool.true_or]
    · rw [hb, Bool.true_and, Bool.or_eq_true, List.all_eq_true, upFrom_zero]
      exact .inr fun i hi => hm i (List.mem_range.mp hi)
  change execCollComplete s = _
  rw [execCollComplete, Act.run_look]
  simp only [hc, hf, hp, hstop, hdone, Bool.not_true, Bool.or_self, Bool.false_eq_true, if_false]

end

/-! ### Fabric barriers (22 R376) -/

section
variable {s : State} {pkg : BitVec 12} {gen : Nat} {x : FbEvent}

theorem exec_fbBarrierEvent (e : FbMsg) (s : State) : exec (.fbBarrierEvent e) s = .next (fbRetry.run ((fbTake e).run s)) := by
  change execFbBarrierEvent e s = _
  rw [execFbBarrierEvent, Act.run_andThen]

theorem fbTake_run_earlier (h : gen < s.fabGen) : (fbTake ⟨pkg, gen, .event x⟩).run s = s := by
  rw [fbTake, Act.run_look]
  simp only [h, if_true, Act.run_quiet]

theorem fbTake_run_later (h : s.fabGen < gen) : (fbTake ⟨pkg, gen, .event x⟩).run s =
    (Act.fab fun f => { f with fbHeld := f.fbHeld ++ [⟨pkg, gen, .event x⟩] }).run s := by
  rw [fbTake, Act.run_look]
  simp only [Nat.lt_asymm h, h, if_false, if_true]

theorem fbTake_run_on (h : gen = s.fabGen) (hr : s.fabRoot ≠ s.fabSelf) : (fbTake ⟨pkg, gen, .event x⟩).run s =
    (fabSend (.bar ⟨pkg, gen, .event x⟩)).run s := by
  subst h
  rw [fbTake, Act.run_look]
  simp only [Nat.lt_irrefl, hr, decide_false, Bool.not_false, if_false, if_true]

theorem fbTake_run_root (h : gen = s.fabGen) (hr : s.fabRoot = s.fabSelf) (hp : pkg ≠ s.m.fab.pkg) (hx : x.idx < 16)
    (hready : s.fbReady = true) :
    (fbTake ⟨pkg, gen, .event x⟩).run s = (fbAtRoot (fbBar pkg x)).run s := by
  subst h
  rw [fbTake, Act.run_look]
  simp only [Nat.lt_irrefl, hr, hp, hready, Nat.not_le.mpr hx, decide_true, Bool.not_true, Bool.false_eq_true, if_false, if_true]

end

/-! ### Links and seams (22 R357, R360, R361) -/

section
variable {s : State}

theorem exec_linkUp {port : Nat} {peer : BitVec 12} {pport : BitVec 5} (h : port < 24) :
    exec (.linkUp port peer pport) s = .next ((setEntry port (lltEntry 2 4 peer.toNat pport.toNat)).run s) := by
  change execLinkUp port peer pport s = _
  rw [execLinkUp, decide_eq_true h, Act.run_when_true]

theorem exec_linkDown (h : s.m.at_.port < 24) :
    exec .linkDown s = .next ((setEntry s.m.at_.port (lltDown (s.lltLocal s.m.at_.port))).run s) := by
  change execLinkDown s = _
  rw [execLinkDown, Act.run_look]
  exact congrArg (fun a : Act => Host.Outcome.next (a.run s)) (if_neg (Nat.not_le.mpr h))

/-- The entry of a port of which a lane has failed. -/
def lltLess (e : BitVec 32) : BitVec 32 :=
  if lltBw e = 4 then lltEntry 1 2 (lltPeer e) (lltPport e)
  else if lltBw e = 2 then lltEntry 1 1 (lltPeer e) (lltPport e) else lltDown e

theorem exec_laneFail (h : s.m.at_.port < 24) (hst : lltSt (s.lltLocal s.m.at_.port) ≠ 0) :
    exec .laneFail s = .next ((setEntry s.m.at_.port (lltLess (s.lltLocal s.m.at_.port))).run s) := by
  change execLaneFail s = _
  rw [execLaneFail, Act.run_look]
  simp only [decide_eq_false (Nat.not_le.mpr h), hst, decide_false, Bool.or_self, Bool.false_eq_true, if_false, lltLess]
  split
  case h_1 hb => rw [hb, if_pos rfl]
  case h_2 hb => rw [hb, if_neg (by decide), if_pos rfl]
  case h_3 h4 h2 => rw [if_neg h4, if_neg h2]

variable (h : s.m.at_.seam < 10)
include h

theorem exec_seamDegraded (hst : lltSt (s.lltLocal (24 + s.m.at_.seam)) ≠ 0) :
    exec .seamDegraded s = .next ((setEntry (24 + s.m.at_.seam) (lltEntry 1 3 s.fabSelf s.m.at_.seam)).run s) := by
  change execSeamDegraded s = _
  rw [execSeamDegraded, Act.run_look]
  simp only [decide_eq_false (Nat.not_le.mpr h), hst, decide_false, Bool.or_self, Bool.false_eq_true, if_false, seamEntry]

theorem exec_seamDown (hs : s.m.pkg.seams.contains s.m.at_.seam = false) : exec .seamDown s = .next ((Act.seq [
    .pkg fun p => { p with seams := s.m.at_.seam :: p.seams }, record { Record.blank with code := Code.seamDown },
    .fab fun f => { f with
      entries := tset 0 f.entries (24 + s.m.at_.seam) (lltEntry 0 0 s.fabSelf s.m.at_.seam), away := true }, floodOwn]).run s) := by
  change execSeamDown s = _
  rw [execSeamDown, Act.run_look]
  simp only [decide_eq_false (Nat.not_le.mpr h), hs, Bool.or_self, Bool.false_eq_true, if_false, seamEntry]

theorem exec_seamTrained : exec .seamTrained s = .next ((Act.seq [
    .pkg fun p => { p with seams := p.seams.filter (· ≠ s.m.at_.seam) },
    .fab fun f => { f with
      entries := tset 0 f.entries (24 + s.m.at_.seam) (lltEntry 2 7 s.fabSelf s.m.at_.seam)
      away := decide (s.m.pkg.seams.filter (· ≠ s.m.at_.seam) ≠ []) },
    floodOwn, collWake]).run s) := by
  change execSeamTrained s = _
  rw [execSeamTrained, Act.run_look]
  simp only [Nat.not_le.mpr h, if_false, Act.run_seq_cons]
  rw [Act.run_look]
  rfl

end

/-- A message of an earlier generation changes nothing itself, and one of a later generation waits (22 R369). -/
theorem collIn_other_generation {s : State} {m : CollIn} {g : Nat} (hg : m.gen? = some g) {i : Instr}
    (hi : exec i s = .next ((collIn m).run s)) :
    (g < s.fabGen → exec i s = .next (retryEarly.run (Act.quiet.run s))) ∧
    (s.fabGen < g → exec i s = .next (retryEarly.run ((collEarly m).run s))) :=
  ⟨fun h => hi.trans (congrArg _ (collIn_run_take (State.intake_earlier hg h))),
    fun h => hi.trans (congrArg _ (collIn_run_wait (State.intake_later hg h)))⟩

/-- Settles O59: each clause from the lemma of its event. -/
theorem fabricEventsComplete : Obligations.FabricEventsComplete := by
  unfold Obligations.FabricEventsComplete
  refine ⟨fun s c => ⟨exec_lltFlood_newer, fun x => exec_lltFlood_old⟩, fun s id g d => ?acks, fun s k r pkg data row => ?messages,
    fun s colour tag c hc => ?aborts, fun s hn c hc => exec_collAdmit_starts hn hc, fun s c => exec_collComplete_answers,
    fun s pkg gen x => ?barriers, fun s port peer pport => ?links, fun s => ?seams⟩
  case acks =>
    intro t
    refine ⟨fun hg hd hp => ?_, fun h => ?_⟩
    · exact (exec_lltAck id g d s).trans (by rw [if_pos ⟨hg, hd, hp⟩]; rfl)
    · have hno : ¬ (g = s.m.fab.gen ∧ d ≠ ((noteAck id g d).run s).m.fab.digest ∧ s.m.fab.pkg.toNat < id.toNat) := by
        rintro ⟨hg, hd, hp⟩
        exact h.elim (absurd hg) fun h => h.elim hd (Nat.not_le.mpr hp)
      exact (exec_lltAck id g d s).trans (by rw [if_neg hno]; rfl)
  case messages =>
    intro then_
    have taken {i : Instr} {m : CollIn} {act : Act} (hi : exec i s = .next ((collIn m).run s)) (hm : m.gen? = some k.gen)
        (hg : k.gen = s.fabGen) (h : s.collGate m = .take act) : then_ i act :=
      hi.trans (congrArg _ (collIn_run_take ((State.intake_agreed hm hg).trans h)))
    have kept {i : Instr} {m : CollIn} (hi : exec i s = .next ((collIn m).run s)) (hm : m.gen? = some k.gen)
        (hg : k.gen = s.fabGen) (h : s.collGate m = .wait) : then_ i (collEarly m) :=
      hi.trans (congrArg _ (collIn_run_wait ((State.intake_agreed hm hg).trans h)))
    refine ⟨fun p hp => ?_, fun hg hin => ⟨fun q c hr hc => taken rfl rfl hg (State.collGate_marks_up hin hr hc),
      fun c hr hc hz hfar => taken rfl rfl hg (State.collGate_marks_down hin hr hc hz hfar),
      fun c hc hf hs => ⟨?_, ?_⟩, fun hc => ⟨?_, ?_⟩,
      fun t ht => ⟨fun hroot => taken rfl rfl hg (State.collGate_dstAck_on ht hroot),
        fun c hroot hc => taken rfl rfl hg (State.collGate_dstAck_root hin hc ht hroot),
        fun hroot => (exec_collChunkCommit_root ht hroot hg hin).1, ?_⟩⟩⟩
    · simp only [List.mem_cons, List.not_mem_nil, or_false] at hp
      obtain rfl | rfl | rfl | rfl := hp
      · exact collIn_other_generation (m := .marks k r) rfl rfl
      · exact collIn_other_generation (m := .up k pkg data) rfl rfl
      · exact collIn_other_generation (m := .down k row) rfl rfl
      · exact collIn_other_generation (m := .dstAck k pkg) rfl rfl
    · exact taken rfl rfl hg (State.collGate_up hin hc hf hs)
    · intro p lo hi dst a n hsent hw hz hh hfar
      exact taken rfl rfl hg ((State.collGate_down hin hc).trans (State.downGate_result hf hs hsent hw hz hh hfar))
    · exact kept rfl rfl hg (State.collGate_none hin hc (row := row)).1
    · exact kept rfl rfl hg (State.collGate_none hin hc (pkg := pkg) (data := data)).2
    · intro c h m hc hf hs hz hm hw hh ha hr v a
      have hgate : s.commitGate c k = .take a := State.commitGate_writes hf hs hz hm hw hh ha hr
      exact ⟨fun hroot => taken (exec_collChunkCommit_arrives ht hroot) rfl hg ((State.collGate_commit hin hc).trans hgate),
        fun hroot hall => (exec_collChunkCommit_root ht hroot hg hin).2 c a hall hc hm hz hgate⟩
  case aborts =>
    have hi := State.intake_abort hc
    refine ⟨fun ha => ?_, fun ha => ?_⟩
    · rw [if_pos ha] at hi
      exact congrArg Host.Outcome.next (collIn_run_take hi |>.trans (by rw [collAbortHere, Act.run_andThen]))
    · rw [if_neg (by rw [ha]; decide)] at hi
      exact congrArg Host.Outcome.next (collIn_run_wait hi)
  case barriers =>
    intro e then_
    have hexec := exec_fbBarrierEvent e s
    exact ⟨fun h => hexec.trans (by rw [fbTake_run_earlier h]; rfl), fun h => hexec.trans (by rw [fbTake_run_later h]),
      fun h hr => hexec.trans (by rw [fbTake_run_on h hr]),
      fun h hr hp hx hready => hexec.trans (by rw [fbTake_run_root h hr hp hx hready])⟩
  case links =>
    intro q e
    refine ⟨exec_linkUp, exec_linkDown, fun hq hst => ⟨fun hb => ?_, fun hb => ?_, fun hb => ?_⟩⟩
    · exact (exec_laneFail hq hst).trans (by rw [lltLess, if_pos hb])
    · exact (exec_laneFail hq hst).trans (by rw [lltLess, if_neg (by rw [hb]; decide), if_pos hb])
    · exact (exec_laneFail hq hst).trans (by rw [lltLess, if_neg (by rw [hb]; decide), if_neg (by rw [hb]; decide)])
  case seams =>
    intro k hk
    exact ⟨exec_seamDegraded hk, exec_seamDown hk, exec_seamTrained hk⟩

end Sys2Proof.Machine
end
